-- ==== Sys2Proof/Word.lean ====
section
/-! DEFINITION. The word types of the VG8: plain bit vectors of the widths its manual uses. -/

namespace Sys2Proof

/-- One byte of memory. -/
abbrev Byte := BitVec 8

/-- A 16-bit lane or FP16 / BF16 encoding. -/
abbrev Half := BitVec 16

/-- A 32-bit lane, FP32 encoding or instruction word. -/
abbrev W32 := BitVec 32

/-- A general register, latch, special register or team register (R132). -/
abbrev Word := BitVec 64

/-- A fabric time in ticks of 0.4 ns. R15: it does not wrap within the life of a module, so times are natural
numbers, and software sees their low 64 bits. -/
abbrev Time := Nat

end Sys2Proof
end

