-- ==== Sys2Proof/Config.lean ====
section
/-! DEFINITION. What an implementation of the VG8 fixes, and the free values: constants without a body, of which nothing
can be proved but their type. A free value is applied to the plain counter State.fresh or to the operands it depends
on. Log entries 4, 6, 8, 9 and 10. -/

namespace Sys2Proof.Config

/-- How many ticks pass with a step, beyond the one every step takes (log 4). -/
opaque elapse : Nat → Nat

/-- A free natural number: a lease length, a compressed size, a choice among what the manual allows. -/
opaque freeNat : Nat → Nat

/-- A free byte: what is read under a key other than the one it was written with (log 6). -/
opaque freeByte : Nat → Byte

/-- A free 64-bit word. -/
opaque freeWord : Nat → Word

/-- A result of the special function unit that the manual bounds and does not fix: function and operand (R212). -/
opaque sfu : Nat → W32 → W32

/-- What ATTEST reports of the part, and the fused minimum version of firmware (R427). -/
opaque serial : Nat
opaque fuses : Nat
opaque minFirmware : Nat

/-- The signature of an attestation report with one of the one-time keys (R427). -/
opaque signature : Nat → List Nat → Nat

/-- Which shader die is nearest the read port of an engine off the shader dies (R98): for switch die 0 or 1 by parity among
the two dies it serves, for the front-end die by its value modulo 4 (log 60). -/
opaque nearDie : Nat → Nat

/-- The path latency in ticks that a switch die measures on one of its ports (R407; log 48). -/
opaque pathLatency : Nat → Nat

/-- Which packages are members of a multicast group, as the tables of the external switches have it: group and package (R409;
log 73). -/
opaque castMember : Nat → Nat → Bool

/-- Ticks of the package guard band (R16). -/
def guardLocal : Nat := 4

/-- Ticks of the fabric guard band (R16). -/
def guardFabric : Nat := 32

/-- The longest lease a home grants (R76). -/
def leaseMax : Nat := 10000

/-- Ticks in a calendar granule, and granules in a calendar (R19). -/
def granule : Nat := 1024
def granules : Nat := 256

/-- Bytes that a port keeps for a granule when it runs on two lanes of 448 Gb/s (R404, R406). -/
def portBytes : Nat := 45875

/-- Entries of a team's command queue at an engine (R19). -/
def queueEntries : Nat := 16

/-- Lines of 128 B in the 1 GiB L2 of a die (R2). -/
def l2Lines : Nat := 8388608

/-- Logical cores of the package, and per die (R2). -/
def coresPerDie : Nat := 64

end Sys2Proof.Config
end

