-- ==== Sys2Proof/Syntax.lean ====
section
/-! DEFINITION. The instruction set as syntax: one constructor for each row of spec/opcode_table.json, the 333 words
and the 108 events, with the data each carries. -/

namespace Sys2Proof

/-- The header of a word whose E bit is free (R35): E, guard predicate and its negation. -/
structure Hdr where
  e : Bool
  pg : BitVec 3
  pn : Bool
  deriving DecidableEq, Repr

/-- The header of a word that must carry E = 1 (R56): the guard alone. -/
structure Gd where
  pg : BitVec 3
  pn : Bool
  deriving DecidableEq, Repr

/-- A fibre's name: launch identifier, team index within the grid, team-local index FID (R60, R117). -/
structure FKey where
  launch : Nat
  team : Nat
  fid : Nat
  deriving DecidableEq, Repr

/-- Where the launch engine puts one team: its core, and the partition of each of its fibres in FID order (R117, R118). -/
structure TeamPlace where
  team : Nat
  core : Nat
  parts : List Nat
  deriving DecidableEq, Repr

/-- The causes of R22 by which a promise is missed and reported. -/
inductive MissCause where
  | retrain
  | departed (peer : Nat)
  | uncorrectable (addr : Nat)
  deriving DecidableEq, Repr

/-- The read-modify-write operations of ATOM, ATOMW, ATOML and ATOMX (R259, R260). -/
inductive AtomOp where
  | min | max | minu | maxu | or | and | add | swap | cas | fadd | fmax
  deriving DecidableEq, Repr

/-- A 256-byte fabric flit as received (R404): the header fields, the payload, the CRC it carries, and whether FEC
could correct its symbols. -/
structure Flit where
  seq : Nat
  ack : Nat
  typ : Nat
  credit : Nat
  payload : List (BitVec 8)
  crc : BitVec 64
  fecOk : Bool
  deriving DecidableEq, Repr

/-- What a remote fabric request asks of its target (R401, R402, R410). -/
inductive RemoteAsk where
  | load (frame off n : Nat)
  /-- A store; `bad` lists the offsets in `bytes` of poisoned ones (R281), `pack` is the stored form in which the sender of a whole
  block sends it: 0 raw, else its compressed sectors (R240). -/
  | store (frame off : Nat) (bytes : List (BitVec 8)) (bad : List Nat) (pack : Nat)
  | atomic (frame off width : Nat) (op : AtomOp) (operand compare : BitVec 64)
  | walk (frame : Nat) (write : Bool)
  /-- A contribution of SCATTER or SCADD (R319, R327): issuing core, home die and sequence number, whether it is added, whether it is
  the marker of a lost one, and its bytes by frame and offset. -/
  | contrib (core die seq : Nat) (add lost : Bool) (parts : List (Nat × Nat × List (BitVec 8)))
  deriving DecidableEq, Repr

/-- A fabric request arriving at this package (R415): sender, its incarnation, the fabric domain of the packet, its
age in ticks, the sender's tag, the core of the sender on whose behalf it is, if any, and what it asks. -/
structure RemoteReq where
  src : Nat
  core : Option Nat
  inc : Nat
  domain : Nat
  ageTicks : Nat
  tag : Nat
  ask : RemoteAsk
  latency : Nat
  deriving DecidableEq, Repr

/-- A fabric reply arriving at this package (R415): sender, incarnation, the request it answers, the data, the GWCT or
lease the target gave, the translation class when the target refuses the access (0 for none, R402), and the offsets of
poisoned bytes (R423). -/
structure RemoteRep where
  src : Nat
  inc : Nat
  domain : Nat
  ageTicks : Nat
  req : Nat
  bytes : List (BitVec 8)
  gwct : Nat
  lease : Nat
  cls : Nat
  bad : List Nat
  deriving DecidableEq, Repr

/-- What stands in the header of any other packet of a peer (R400, R412, R415): its sender, the sender's incarnation, the domain, and
the packet's age in ticks. -/
structure PktHead where
  src : Nat
  inc : Nat
  domain : Nat
  ageTicks : Nat
  deriving DecidableEq, Repr

/-- What KEYSET brings beside its slot (R428): the 512-bit key pair, and whether it came in an authenticated session. -/
structure KeyLoad where
  pair : Nat
  session : Bool
  deriving DecidableEq, Repr

/-- One constructor for each row of the opcode table. A word's arguments are the fields of its row, most significant
first, with the header bits gathered in `Hdr` or `Gd`; an event's arguments are the data the event brings and the
choices the manual leaves to the part that performs it. -/
inductive Instr where
  /-- ADD (R163). -/
  | add (h : Hdr) (d : BitVec 6) (a : BitVec 6) (b : BitVec 6)
  /-- SUB (R163). -/
  | sub (h : Hdr) (d : BitVec 6) (a : BitVec 6) (b : BitVec 6)
  /-- AND (R163). -/
  | and (h : Hdr) (d : BitVec 6) (a : BitVec 6) (b : BitVec 6)
  /-- OR (R163). -/
  | or (h : Hdr) (d : BitVec 6) (a : BitVec 6) (b : BitVec 6)
  /-- XOR (R163). -/
  | xor (h : Hdr) (d : BitVec 6) (a : BitVec 6) (b : BitVec 6)
  /-- ANDN (R163). -/
  | andn (h : Hdr) (d : BitVec 6) (a : BitVec 6) (b : BitVec 6)
  /-- MIN (R163). -/
  | min (h : Hdr) (d : BitVec 6) (a : BitVec 6) (b : BitVec 6)
  /-- MAX (R163). -/
  | max (h : Hdr) (d : BitVec 6) (a : BitVec 6) (b : BitVec 6)
  /-- INTI_ADD (R163). -/
  | intiAdd (h : Hdr) (d : BitVec 6) (a : BitVec 6) (i : BitVec 6)
  /-- INTI_SUB (R163). -/
  | intiSub (h : Hdr) (d : BitVec 6) (a : BitVec 6) (i : BitVec 6)
  /-- INTI_AND (R163). -/
  | intiAnd (h : Hdr) (d : BitVec 6) (a : BitVec 6) (i : BitVec 6)
  /-- INTI_OR (R163). -/
  | intiOr (h : Hdr) (d : BitVec 6) (a : BitVec 6) (i : BitVec 6)
  /-- INTI_XOR (R163). -/
  | intiXor (h : Hdr) (d : BitVec 6) (a : BitVec 6) (i : BitVec 6)
  /-- INTI_ANDN (R163). -/
  | intiAndn (h : Hdr) (d : BitVec 6) (a : BitVec 6) (i : BitVec 6)
  /-- INTI_MIN (R163). -/
  | intiMin (h : Hdr) (d : BitVec 6) (a : BitVec 6) (i : BitVec 6)
  /-- INTI_MAX (R163). -/
  | intiMax (h : Hdr) (d : BitVec 6) (a : BitVec 6) (i : BitVec 6)
  /-- MINU (R164). -/
  | minu (h : Hdr) (d : BitVec 6) (a : BitVec 6) (b : BitVec 6)
  /-- MAXU (R164). -/
  | maxu (h : Hdr) (d : BitVec 6) (a : BitVec 6) (b : BitVec 6)
  /-- ADDW (R164). -/
  | addw (h : Hdr) (d : BitVec 6) (a : BitVec 6) (b : BitVec 6)
  /-- SUBW (R164). -/
  | subw (h : Hdr) (d : BitVec 6) (a : BitVec 6) (b : BitVec 6)
  /-- ABSD (R164). -/
  | absd (h : Hdr) (d : BitVec 6) (a : BitVec 6) (b : BitVec 6)
  /-- CLZ (R164). -/
  | clz (h : Hdr) (d : BitVec 6) (a : BitVec 6)
  /-- CTZ (R164). -/
  | ctz (h : Hdr) (d : BitVec 6) (a : BitVec 6)
  /-- POPC (R164). -/
  | popc (h : Hdr) (d : BitVec 6) (a : BitVec 6)
  /-- SHL (R165). -/
  | shl (h : Hdr) (d : BitVec 6) (a : BitVec 6) (b : BitVec 6)
  /-- SHR (R165). -/
  | shr (h : Hdr) (d : BitVec 6) (a : BitVec 6) (b : BitVec 6)
  /-- SAR (R165). -/
  | sar (h : Hdr) (d : BitVec 6) (a : BitVec 6) (b : BitVec 6)
  /-- ROL (R165). -/
  | rol (h : Hdr) (d : BitVec 6) (a : BitVec 6) (b : BitVec 6)
  /-- SHLW (R165). -/
  | shlw (h : Hdr) (d : BitVec 6) (a : BitVec 6) (b : BitVec 6)
  /-- SHRW (R165). -/
  | shrw (h : Hdr) (d : BitVec 6) (a : BitVec 6) (b : BitVec 6)
  /-- SARW (R165). -/
  | sarw (h : Hdr) (d : BitVec 6) (a : BitVec 6) (b : BitVec 6)
  /-- BREV (R165). -/
  | brev (h : Hdr) (d : BitVec 6) (a : BitVec 6)
  /-- SHIFTI_SHL (R165). -/
  | shiftiShl (h : Hdr) (d : BitVec 6) (a : BitVec 6) (i : BitVec 6)
  /-- SHIFTI_SHR (R165). -/
  | shiftiShr (h : Hdr) (d : BitVec 6) (a : BitVec 6) (i : BitVec 6)
  /-- SHIFTI_SAR (R165). -/
  | shiftiSar (h : Hdr) (d : BitVec 6) (a : BitVec 6) (i : BitVec 6)
  /-- SHIFTI_ROL (R165). -/
  | shiftiRol (h : Hdr) (d : BitVec 6) (a : BitVec 6) (i : BitVec 6)
  /-- SHIFTI_SHLW (R165). -/
  | shiftiShlw (h : Hdr) (d : BitVec 6) (a : BitVec 6) (i : BitVec 6)
  /-- SHIFTI_SHRW (R165). -/
  | shiftiShrw (h : Hdr) (d : BitVec 6) (a : BitVec 6) (i : BitVec 6)
  /-- SHIFTI_SARW (R165). -/
  | shiftiSarw (h : Hdr) (d : BitVec 6) (a : BitVec 6) (i : BitVec 6)
  /-- MUL (R166). -/
  | mul (h : Hdr) (d : BitVec 6) (a : BitVec 6) (b : BitVec 6)
  /-- MULH (R166). -/
  | mulh (h : Hdr) (d : BitVec 6) (a : BitVec 6) (b : BitVec 6)
  /-- MULHU (R166). -/
  | mulhu (h : Hdr) (d : BitVec 6) (a : BitVec 6) (b : BitVec 6)
  /-- MULW (R166). -/
  | mulw (h : Hdr) (d : BitVec 6) (a : BitVec 6) (b : BitVec 6)
  /-- DIV (R166). -/
  | div (h : Hdr) (d : BitVec 6) (a : BitVec 6) (b : BitVec 6)
  /-- DIVU (R166). -/
  | divu (h : Hdr) (d : BitVec 6) (a : BitVec 6) (b : BitVec 6)
  /-- REM (R166). -/
  | rem (h : Hdr) (d : BitVec 6) (a : BitVec 6) (b : BitVec 6)
  /-- REMU (R166). -/
  | remu (h : Hdr) (d : BitVec 6) (a : BitVec 6) (b : BitVec 6)
  /-- LEA0 (R167). -/
  | lea0 (h : Hdr) (d : BitVec 6) (a : BitVec 6) (b : BitVec 6)
  /-- LEA1 (R167). -/
  | lea1 (h : Hdr) (d : BitVec 6) (a : BitVec 6) (b : BitVec 6)
  /-- LEA2 (R167). -/
  | lea2 (h : Hdr) (d : BitVec 6) (a : BitVec 6) (b : BitVec 6)
  /-- LEA3 (R167). -/
  | lea3 (h : Hdr) (d : BitVec 6) (a : BitVec 6) (b : BitVec 6)
  /-- CMP_EQ (R168). -/
  | cmpEq (h : Hdr) (p : BitVec 3) (c : BitVec 3) (a : BitVec 6) (b : BitVec 6)
  /-- CMP_NE (R168). -/
  | cmpNe (h : Hdr) (p : BitVec 3) (c : BitVec 3) (a : BitVec 6) (b : BitVec 6)
  /-- CMP_LT (R168). -/
  | cmpLt (h : Hdr) (p : BitVec 3) (c : BitVec 3) (a : BitVec 6) (b : BitVec 6)
  /-- CMP_LE (R168). -/
  | cmpLe (h : Hdr) (p : BitVec 3) (c : BitVec 3) (a : BitVec 6) (b : BitVec 6)
  /-- CMP_LTU (R168). -/
  | cmpLtu (h : Hdr) (p : BitVec 3) (c : BitVec 3) (a : BitVec 6) (b : BitVec 6)
  /-- CMP_LEU (R168). -/
  | cmpLeu (h : Hdr) (p : BitVec 3) (c : BitVec 3) (a : BitVec 6) (b : BitVec 6)
  /-- CMP_TST (R168). -/
  | cmpTst (h : Hdr) (p : BitVec 3) (c : BitVec 3) (a : BitVec 6) (b : BitVec 6)
  /-- CMP_NTST (R168). -/
  | cmpNtst (h : Hdr) (p : BitVec 3) (c : BitVec 3) (a : BitVec 6) (b : BitVec 6)
  /-- CMPI_EQ (R168). -/
  | cmpiEq (h : Hdr) (p : BitVec 3) (c : BitVec 3) (a : BitVec 6) (i : BitVec 6)
  /-- CMPI_NE (R168). -/
  | cmpiNe (h : Hdr) (p : BitVec 3) (c : BitVec 3) (a : BitVec 6) (i : BitVec 6)
  /-- CMPI_LT (R168). -/
  | cmpiLt (h : Hdr) (p : BitVec 3) (c : BitVec 3) (a : BitVec 6) (i : BitVec 6)
  /-- CMPI_LE (R168). -/
  | cmpiLe (h : Hdr) (p : BitVec 3) (c : BitVec 3) (a : BitVec 6) (i : BitVec 6)
  /-- CMPI_LTU (R168). -/
  | cmpiLtu (h : Hdr) (p : BitVec 3) (c : BitVec 3) (a : BitVec 6) (i : BitVec 6)
  /-- CMPI_LEU (R168). -/
  | cmpiLeu (h : Hdr) (p : BitVec 3) (c : BitVec 3) (a : BitVec 6) (i : BitVec 6)
  /-- CMPI_TST (R168). -/
  | cmpiTst (h : Hdr) (p : BitVec 3) (c : BitVec 3) (a : BitVec 6) (i : BitVec 6)
  /-- CMPI_NTST (R168). -/
  | cmpiNtst (h : Hdr) (p : BitVec 3) (c : BitVec 3) (a : BitVec 6) (i : BitVec 6)
  /-- PAND (R169). -/
  | pand (h : Hdr) (d : BitVec 3) (a : BitVec 3) (b : BitVec 3)
  /-- POR (R169). -/
  | por (h : Hdr) (d : BitVec 3) (a : BitVec 3) (b : BitVec 3)
  /-- PXOR (R169). -/
  | pxor (h : Hdr) (d : BitVec 3) (a : BitVec 3) (b : BitVec 3)
  /-- PNOT (R169). -/
  | pnot (h : Hdr) (d : BitVec 3) (a : BitVec 3)
  /-- PWGET (R169). -/
  | pwget (h : Hdr) (d : BitVec 6)
  /-- PWSET (R169). -/
  | pwset (h : Hdr) (a : BitVec 6)
  /-- LI (R170). -/
  | li (h : Hdr) (d : BitVec 6) (i : BitVec 15)
  /-- SEL (R171). -/
  | sel (h : Hdr) (p : BitVec 3) (d : BitVec 6) (a : BitVec 6) (b : BitVec 6)
  /-- GETSR (R172). -/
  | getsr (h : Hdr) (d : BitVec 6) (a : BitVec 6)
  /-- SETSR (R172). -/
  | setsr (h : Hdr) (a : BitVec 6) (b : BitVec 6)
  /-- GETK (R172). -/
  | getk (h : Hdr) (d : BitVec 6) (k : BitVec 12)
  /-- PUTK (R172). -/
  | putk (h : Hdr) (d : BitVec 6) (k : BitVec 12)
  /-- ADD_B (R201). -/
  | addB (h : Hdr) (d : BitVec 6) (a : BitVec 6) (b : BitVec 6)
  /-- ADD_H (R201). -/
  | addH (h : Hdr) (d : BitVec 6) (a : BitVec 6) (b : BitVec 6)
  /-- ADD_W (R201). -/
  | addW (h : Hdr) (d : BitVec 6) (a : BitVec 6) (b : BitVec 6)
  /-- ADDS_B (R201). -/
  | addsB (h : Hdr) (d : BitVec 6) (a : BitVec 6) (b : BitVec 6)
  /-- ADDS_H (R201). -/
  | addsH (h : Hdr) (d : BitVec 6) (a : BitVec 6) (b : BitVec 6)
  /-- ADDSU_B (R201). -/
  | addsuB (h : Hdr) (d : BitVec 6) (a : BitVec 6) (b : BitVec 6)
  /-- ADDSU_H (R201). -/
  | addsuH (h : Hdr) (d : BitVec 6) (a : BitVec 6) (b : BitVec 6)
  /-- AVGR_H (R201). -/
  | avgrH (h : Hdr) (d : BitVec 6) (a : BitVec 6) (b : BitVec 6)
  /-- SUB_B (R201). -/
  | subB (h : Hdr) (d : BitVec 6) (a : BitVec 6) (b : BitVec 6)
  /-- SUB_H (R201). -/
  | subH (h : Hdr) (d : BitVec 6) (a : BitVec 6) (b : BitVec 6)
  /-- SUB_W (R201). -/
  | subW (h : Hdr) (d : BitVec 6) (a : BitVec 6) (b : BitVec 6)
  /-- SUBS_B (R201). -/
  | subsB (h : Hdr) (d : BitVec 6) (a : BitVec 6) (b : BitVec 6)
  /-- SUBS_H (R201). -/
  | subsH (h : Hdr) (d : BitVec 6) (a : BitVec 6) (b : BitVec 6)
  /-- SUBSU_B (R201). -/
  | subsuB (h : Hdr) (d : BitVec 6) (a : BitVec 6) (b : BitVec 6)
  /-- SUBSU_H (R201). -/
  | subsuH (h : Hdr) (d : BitVec 6) (a : BitVec 6) (b : BitVec 6)
  /-- ABSDF_H (R201). -/
  | absdfH (h : Hdr) (d : BitVec 6) (a : BitVec 6) (b : BitVec 6)
  /-- MULL_H (R202). -/
  | mullH (h : Hdr) (d : BitVec 6) (a : BitVec 6) (b : BitVec 6)
  /-- MULH_H (R202). -/
  | mulhH (h : Hdr) (d : BitVec 6) (a : BitVec 6) (b : BitVec 6)
  /-- MULHR_H (R202). -/
  | mulhrH (h : Hdr) (d : BitVec 6) (a : BitVec 6) (b : BitVec 6)
  /-- MULL_W (R202). -/
  | mullW (h : Hdr) (d : BitVec 6) (a : BitVec 6) (b : BitVec 6)
  /-- DOT2_H (R202). -/
  | dot2H (h : Hdr) (d : BitVec 6) (a : BitVec 6) (b : BitVec 6)
  /-- DOT4_B (R202). -/
  | dot4B (h : Hdr) (d : BitVec 6) (a : BitVec 6) (b : BitVec 6)
  /-- DOT2U_B (R202). -/
  | dot2uB (h : Hdr) (d : BitVec 6) (a : BitVec 6) (b : BitVec 6)
  /-- MADL_H (R202). -/
  | madlH (h : Hdr) (d : BitVec 6) (a : BitVec 6) (b : BitVec 6)
  /-- SHL_H (R203). -/
  | shlH (h : Hdr) (d : BitVec 6) (a : BitVec 6) (b : BitVec 6)
  /-- SHR_H (R203). -/
  | shrH (h : Hdr) (d : BitVec 6) (a : BitVec 6) (b : BitVec 6)
  /-- SAR_H (R203). -/
  | sarH (h : Hdr) (d : BitVec 6) (a : BitVec 6) (b : BitVec 6)
  /-- SARR_H (R203). -/
  | sarrH (h : Hdr) (d : BitVec 6) (a : BitVec 6) (b : BitVec 6)
  /-- SHL_W (R203). -/
  | shlW (h : Hdr) (d : BitVec 6) (a : BitVec 6) (b : BitVec 6)
  /-- SAR_W (R203). -/
  | sarW (h : Hdr) (d : BitVec 6) (a : BitVec 6) (b : BitVec 6)
  /-- SARR_W (R203). -/
  | sarrW (h : Hdr) (d : BitVec 6) (a : BitVec 6) (b : BitVec 6)
  /-- NARROWS_WH (R203). -/
  | narrowsWh (h : Hdr) (d : BitVec 6) (a : BitVec 6) (b : BitVec 6)
  /-- VSHIFTI_SHL_H (R203). -/
  | vshiftiShlH (h : Hdr) (d : BitVec 6) (a : BitVec 6) (i : BitVec 6)
  /-- VSHIFTI_SHR_H (R203). -/
  | vshiftiShrH (h : Hdr) (d : BitVec 6) (a : BitVec 6) (i : BitVec 6)
  /-- VSHIFTI_SAR_H (R203). -/
  | vshiftiSarH (h : Hdr) (d : BitVec 6) (a : BitVec 6) (i : BitVec 6)
  /-- VSHIFTI_SARR_H (R203). -/
  | vshiftiSarrH (h : Hdr) (d : BitVec 6) (a : BitVec 6) (i : BitVec 6)
  /-- VSHIFTI_SHL_W (R203). -/
  | vshiftiShlW (h : Hdr) (d : BitVec 6) (a : BitVec 6) (i : BitVec 6)
  /-- VSHIFTI_SAR_W (R203). -/
  | vshiftiSarW (h : Hdr) (d : BitVec 6) (a : BitVec 6) (i : BitVec 6)
  /-- VSHIFTI_SARR_W (R203). -/
  | vshiftiSarrW (h : Hdr) (d : BitVec 6) (a : BitVec 6) (i : BitVec 6)
  /-- VSHIFTI_NARROWS_WH (R203). -/
  | vshiftiNarrowsWh (h : Hdr) (d : BitVec 6) (a : BitVec 6) (i : BitVec 6)
  /-- MIN_H (R204). -/
  | minH (h : Hdr) (d : BitVec 6) (a : BitVec 6) (b : BitVec 6)
  /-- MAX_H (R204). -/
  | maxH (h : Hdr) (d : BitVec 6) (a : BitVec 6) (b : BitVec 6)
  /-- MIN_B (R204). -/
  | minB (h : Hdr) (d : BitVec 6) (a : BitVec 6) (b : BitVec 6)
  /-- MAX_B (R204). -/
  | maxB (h : Hdr) (d : BitVec 6) (a : BitVec 6) (b : BitVec 6)
  /-- MINU_B (R204). -/
  | minuB (h : Hdr) (d : BitVec 6) (a : BitVec 6) (b : BitVec 6)
  /-- MAXU_B (R204). -/
  | maxuB (h : Hdr) (d : BitVec 6) (a : BitVec 6) (b : BitVec 6)
  /-- MIN_W (R204). -/
  | minW (h : Hdr) (d : BitVec 6) (a : BitVec 6) (b : BitVec 6)
  /-- MAX_W (R204). -/
  | maxW (h : Hdr) (d : BitVec 6) (a : BitVec 6) (b : BitVec 6)
  /-- EQ_B (R204). -/
  | eqB (h : Hdr) (d : BitVec 6) (a : BitVec 6) (b : BitVec 6)
  /-- EQ_H (R204). -/
  | eqH (h : Hdr) (d : BitVec 6) (a : BitVec 6) (b : BitVec 6)
  /-- EQ_W (R204). -/
  | eqW (h : Hdr) (d : BitVec 6) (a : BitVec 6) (b : BitVec 6)
  /-- GT_B (R204). -/
  | gtB (h : Hdr) (d : BitVec 6) (a : BitVec 6) (b : BitVec 6)
  /-- GT_H (R204). -/
  | gtH (h : Hdr) (d : BitVec 6) (a : BitVec 6) (b : BitVec 6)
  /-- GT_W (R204). -/
  | gtW (h : Hdr) (d : BitVec 6) (a : BitVec 6) (b : BitVec 6)
  /-- GTU_B (R204). -/
  | gtuB (h : Hdr) (d : BitVec 6) (a : BitVec 6) (b : BitVec 6)
  /-- GTU_H (R204). -/
  | gtuH (h : Hdr) (d : BitVec 6) (a : BitVec 6) (b : BitVec 6)
  /-- SHUF_H (R205). -/
  | shufH (h : Hdr) (d : BitVec 6) (a : BitVec 6) (b : BitVec 6)
  /-- ZIPLO_H (R205). -/
  | ziploH (h : Hdr) (d : BitVec 6) (a : BitVec 6) (b : BitVec 6)
  /-- ZIPHI_H (R205). -/
  | ziphiH (h : Hdr) (d : BitVec 6) (a : BitVec 6) (b : BitVec 6)
  /-- UNZIP_H (R205). -/
  | unzipH (h : Hdr) (d : BitVec 6) (a : BitVec 6) (b : BitVec 6)
  /-- EXTZ_B (R205). -/
  | extzB (h : Hdr) (d : BitVec 6) (a : BitVec 6) (b : BitVec 6)
  /-- EXTS_B (R205). -/
  | extsB (h : Hdr) (d : BitVec 6) (a : BitVec 6) (b : BitVec 6)
  /-- BCAST_H (R205). -/
  | bcastH (h : Hdr) (d : BitVec 6) (a : BitVec 6) (b : BitVec 6)
  /-- INS_H (R205). -/
  | insH (h : Hdr) (d : BitVec 6) (a : BitVec 6) (b : BitVec 6)
  /-- ADD_S2 (R206). -/
  | addS2 (h : Hdr) (d : BitVec 6) (a : BitVec 6) (b : BitVec 6)
  /-- ADD_H4 (R206). -/
  | addH4 (h : Hdr) (d : BitVec 6) (a : BitVec 6) (b : BitVec 6)
  /-- ADD_BH4 (R206). -/
  | addBh4 (h : Hdr) (d : BitVec 6) (a : BitVec 6) (b : BitVec 6)
  /-- SUB_S2 (R206). -/
  | subS2 (h : Hdr) (d : BitVec 6) (a : BitVec 6) (b : BitVec 6)
  /-- SUB_H4 (R206). -/
  | subH4 (h : Hdr) (d : BitVec 6) (a : BitVec 6) (b : BitVec 6)
  /-- SUB_BH4 (R206). -/
  | subBh4 (h : Hdr) (d : BitVec 6) (a : BitVec 6) (b : BitVec 6)
  /-- MUL_S2 (R206). -/
  | mulS2 (h : Hdr) (d : BitVec 6) (a : BitVec 6) (b : BitVec 6)
  /-- MUL_H4 (R206). -/
  | mulH4 (h : Hdr) (d : BitVec 6) (a : BitVec 6) (b : BitVec 6)
  /-- MUL_BH4 (R206). -/
  | mulBh4 (h : Hdr) (d : BitVec 6) (a : BitVec 6) (b : BitVec 6)
  /-- FMA_S2 (R206). -/
  | fmaS2 (h : Hdr) (d : BitVec 6) (a : BitVec 6) (b : BitVec 6)
  /-- FMA_H4 (R206). -/
  | fmaH4 (h : Hdr) (d : BitVec 6) (a : BitVec 6) (b : BitVec 6)
  /-- FMA_BH4 (R206). -/
  | fmaBh4 (h : Hdr) (d : BitVec 6) (a : BitVec 6) (b : BitVec 6)
  /-- FMS_S2 (R206). -/
  | fmsS2 (h : Hdr) (d : BitVec 6) (a : BitVec 6) (b : BitVec 6)
  /-- FNMA_S2 (R206). -/
  | fnmaS2 (h : Hdr) (d : BitVec 6) (a : BitVec 6) (b : BitVec 6)
  /-- MIN_S2 (R207). -/
  | minS2 (h : Hdr) (d : BitVec 6) (a : BitVec 6) (b : BitVec 6)
  /-- MAX_S2 (R207). -/
  | maxS2 (h : Hdr) (d : BitVec 6) (a : BitVec 6) (b : BitVec 6)
  /-- MIN_H4 (R207). -/
  | minH4 (h : Hdr) (d : BitVec 6) (a : BitVec 6) (b : BitVec 6)
  /-- MAX_H4 (R207). -/
  | maxH4 (h : Hdr) (d : BitVec 6) (a : BitVec 6) (b : BitVec 6)
  /-- MIN_BH4 (R207). -/
  | minBh4 (h : Hdr) (d : BitVec 6) (a : BitVec 6) (b : BitVec 6)
  /-- MAX_BH4 (R207). -/
  | maxBh4 (h : Hdr) (d : BitVec 6) (a : BitVec 6) (b : BitVec 6)
  /-- ABS_S2 (R207). -/
  | absS2 (h : Hdr) (d : BitVec 6) (a : BitVec 6)
  /-- NEG_S2 (R207). -/
  | negS2 (h : Hdr) (d : BitVec 6) (a : BitVec 6)
  /-- EQ_S2 (R208). -/
  | eqS2 (h : Hdr) (d : BitVec 6) (a : BitVec 6) (b : BitVec 6)
  /-- LT_S2 (R208). -/
  | ltS2 (h : Hdr) (d : BitVec 6) (a : BitVec 6) (b : BitVec 6)
  /-- LE_S2 (R208). -/
  | leS2 (h : Hdr) (d : BitVec 6) (a : BitVec 6) (b : BitVec 6)
  /-- UN_S2 (R208). -/
  | unS2 (h : Hdr) (d : BitVec 6) (a : BitVec 6) (b : BitVec 6)
  /-- EQ_H4 (R208). -/
  | eqH4 (h : Hdr) (d : BitVec 6) (a : BitVec 6) (b : BitVec 6)
  /-- LT_H4 (R208). -/
  | ltH4 (h : Hdr) (d : BitVec 6) (a : BitVec 6) (b : BitVec 6)
  /-- LE_H4 (R208). -/
  | leH4 (h : Hdr) (d : BitVec 6) (a : BitVec 6) (b : BitVec 6)
  /-- UN_H4 (R208). -/
  | unH4 (h : Hdr) (d : BitVec 6) (a : BitVec 6) (b : BitVec 6)
  /-- CVT_S2_H4LO (R209). -/
  | cvtS2H4lo (h : Hdr) (d : BitVec 6) (a : BitVec 6)
  /-- CVT_S2_H4HI (R209). -/
  | cvtS2H4hi (h : Hdr) (d : BitVec 6) (a : BitVec 6)
  /-- CVT_H4_S2 (R209). -/
  | cvtH4S2 (h : Hdr) (d : BitVec 6) (a : BitVec 6) (b : BitVec 6)
  /-- CVT_BH4_S2 (R209). -/
  | cvtBh4S2 (h : Hdr) (d : BitVec 6) (a : BitVec 6) (b : BitVec 6)
  /-- CVT_E4M3_S2 (R209). -/
  | cvtE4m3S2 (h : Hdr) (d : BitVec 6) (a : BitVec 6) (b : BitVec 6)
  /-- CVT_S2_E4M3 (R209). -/
  | cvtS2E4m3 (h : Hdr) (d : BitVec 6) (a : BitVec 6) (b : BitVec 6)
  /-- CVT_S2_W (R209). -/
  | cvtS2W (h : Hdr) (d : BitVec 6) (a : BitVec 6)
  /-- CVT_W_S2 (R210). -/
  | cvtWS2 (h : Hdr) (d : BitVec 6) (a : BitVec 6)
  /-- CVT_E5M2_S2 (R209). -/
  | cvtE5m2S2 (h : Hdr) (d : BitVec 6) (a : BitVec 6) (b : BitVec 6)
  /-- CVT_S2_E5M2 (R209). -/
  | cvtS2E5m2 (h : Hdr) (d : BitVec 6) (a : BitVec 6) (b : BitVec 6)
  /-- CVT_S2_BH4LO (R209). -/
  | cvtS2Bh4lo (h : Hdr) (d : BitVec 6) (a : BitVec 6)
  /-- CVT_S2_BH4HI (R209). -/
  | cvtS2Bh4hi (h : Hdr) (d : BitVec 6) (a : BitVec 6)
  /-- CVT_H4_E4M3 (R209). -/
  | cvtH4E4m3 (h : Hdr) (d : BitVec 6) (a : BitVec 6) (b : BitVec 6)
  /-- CVT_E4M3_H4 (R209). -/
  | cvtE4m3H4 (h : Hdr) (d : BitVec 6) (a : BitVec 6)
  /-- TRUNC_W_S2 (R210). -/
  | truncWS2 (h : Hdr) (d : BitVec 6) (a : BitVec 6)
  /-- CVT_S2_WZ (R209). -/
  | cvtS2Wz (h : Hdr) (d : BitVec 6) (a : BitVec 6)
  /-- RCP_S2 (R212). -/
  | rcpS2 (h : Hdr) (d : BitVec 6) (a : BitVec 6)
  /-- RSQ_S2 (R212). -/
  | rsqS2 (h : Hdr) (d : BitVec 6) (a : BitVec 6)
  /-- SQRT_S2 (R212). -/
  | sqrtS2 (h : Hdr) (d : BitVec 6) (a : BitVec 6)
  /-- EXP2_S2 (R212). -/
  | exp2S2 (h : Hdr) (d : BitVec 6) (a : BitVec 6)
  /-- LOG2_S2 (R212). -/
  | log2S2 (h : Hdr) (d : BitVec 6) (a : BitVec 6)
  /-- SIN_S2 (R212). -/
  | sinS2 (h : Hdr) (d : BitVec 6) (a : BitVec 6)
  /-- COS_S2 (R212). -/
  | cosS2 (h : Hdr) (d : BitVec 6) (a : BitVec 6)
  /-- TANH_S2 (R212). -/
  | tanhS2 (h : Hdr) (d : BitVec 6) (a : BitVec 6)
  /-- EXPR (R215). -/
  | expr (h : Hdr) (x : BitVec 3) (d : BitVec 6) (a : BitVec 6) (b : BitVec 6)
  /-- BR (R173). -/
  | br (h : Gd) (i : BitVec 21)
  /-- CALL (R173). -/
  | call (h : Gd) (i : BitVec 21)
  /-- JR (R176). -/
  | jr (h : Gd) (a : BitVec 6)
  /-- JRL (R176). -/
  | jrl (h : Gd) (a : BitVec 6)
  /-- RET (R176). -/
  | ret (h : Gd)
  /-- TRAP (R176). -/
  | trap (h : Gd) (t : BitVec 12)
  /-- RTT (R176). -/
  | rtt (h : Gd)
  /-- BRK (R176). -/
  | brk (h : Hdr)
  /-- SPAWN (R178). -/
  | spawn (h : Gd) (d : BitVec 6) (a : BitVec 6) (b : BitVec 6)
  /-- SPAWNT (R178). -/
  | spawnt (h : Gd) (d : BitVec 6) (a : BitVec 6) (b : BitVec 6)
  /-- END (R179). -/
  | endFibre (h : Gd) (a : BitVec 6) (s : BitVec 3)
  /-- YIELD (R181). -/
  | yield (h : Gd)
  /-- SLEEPT (R180). -/
  | sleept (h : Gd) (a : BitVec 6)
  /-- STEP (R120). -/
  | step (h : Gd)
  /-- ROPEBAR (R182). -/
  | ropebar (h : Gd)
  /-- NOP (R183). -/
  | nop (h : Hdr)
  /-- FENCE_REL (R87). -/
  | fenceRel (h : Gd) (s : BitVec 3)
  /-- FENCE_ACQ (R88). -/
  | fenceAcq (h : Hdr) (s : BitVec 3)
  /-- FENCE_AR (R89). -/
  | fenceAr (h : Gd) (s : BitVec 3)
  /-- LDAQ (R262). -/
  | ldaq (h : Hdr) (d : BitVec 6) (a : BitVec 6) (b : BitVec 6)
  /-- STREL (R262). -/
  | strel (h : Hdr) (d : BitVec 6) (a : BitVec 6) (b : BitVec 6)
  /-- WAITG (R262). -/
  | waitg (h : Gd) (d : BitVec 6)
  /-- PREF (R262). -/
  | pref (h : Hdr) (a : BitVec 6) (b : BitVec 6)
  /-- CLWB (R262). -/
  | clwb (h : Hdr) (a : BitVec 6) (b : BitVec 6)
  /-- LDB (R257). -/
  | ldb (h : Hdr) (d : BitVec 6) (a : BitVec 6) (o : BitVec 6)
  /-- LDBZ (R257). -/
  | ldbz (h : Hdr) (d : BitVec 6) (a : BitVec 6) (o : BitVec 6)
  /-- LDH (R257). -/
  | ldh (h : Hdr) (d : BitVec 6) (a : BitVec 6) (o : BitVec 6)
  /-- LDHZ (R257). -/
  | ldhz (h : Hdr) (d : BitVec 6) (a : BitVec 6) (o : BitVec 6)
  /-- LDW (R257). -/
  | ldw (h : Hdr) (d : BitVec 6) (a : BitVec 6) (o : BitVec 6)
  /-- LDWZ (R257). -/
  | ldwz (h : Hdr) (d : BitVec 6) (a : BitVec 6) (o : BitVec 6)
  /-- LDD (R257). -/
  | ldd (h : Hdr) (d : BitVec 6) (a : BitVec 6) (o : BitVec 6)
  /-- LDQ (R257). -/
  | ldq (h : Hdr) (d : BitVec 6) (a : BitVec 6) (o : BitVec 6)
  /-- STB (R258). -/
  | stb (h : Hdr) (d : BitVec 6) (a : BitVec 6) (o : BitVec 6)
  /-- STH (R258). -/
  | sth (h : Hdr) (d : BitVec 6) (a : BitVec 6) (o : BitVec 6)
  /-- STW (R258). -/
  | stw (h : Hdr) (d : BitVec 6) (a : BitVec 6) (o : BitVec 6)
  /-- STD (R258). -/
  | std (h : Hdr) (d : BitVec 6) (a : BitVec 6) (o : BitVec 6)
  /-- STQ (R258). -/
  | stq (h : Hdr) (d : BitVec 6) (a : BitVec 6) (o : BitVec 6)
  /-- LDB_L (R257). -/
  | ldbL (h : Hdr) (d : BitVec 6) (a : BitVec 6) (o : BitVec 6)
  /-- LDBZ_L (R257). -/
  | ldbzL (h : Hdr) (d : BitVec 6) (a : BitVec 6) (o : BitVec 6)
  /-- LDH_L (R257). -/
  | ldhL (h : Hdr) (d : BitVec 6) (a : BitVec 6) (o : BitVec 6)
  /-- LDHZ_L (R257). -/
  | ldhzL (h : Hdr) (d : BitVec 6) (a : BitVec 6) (o : BitVec 6)
  /-- LDW_L (R257). -/
  | ldwL (h : Hdr) (d : BitVec 6) (a : BitVec 6) (o : BitVec 6)
  /-- LDWZ_L (R257). -/
  | ldwzL (h : Hdr) (d : BitVec 6) (a : BitVec 6) (o : BitVec 6)
  /-- LDD_L (R257). -/
  | lddL (h : Hdr) (d : BitVec 6) (a : BitVec 6) (o : BitVec 6)
  /-- LDQ_L (R257). -/
  | ldqL (h : Hdr) (d : BitVec 6) (a : BitVec 6) (o : BitVec 6)
  /-- STB_L (R258). -/
  | stbL (h : Hdr) (d : BitVec 6) (a : BitVec 6) (o : BitVec 6)
  /-- STH_L (R258). -/
  | sthL (h : Hdr) (d : BitVec 6) (a : BitVec 6) (o : BitVec 6)
  /-- STW_L (R258). -/
  | stwL (h : Hdr) (d : BitVec 6) (a : BitVec 6) (o : BitVec 6)
  /-- STD_L (R258). -/
  | stdL (h : Hdr) (d : BitVec 6) (a : BitVec 6) (o : BitVec 6)
  /-- STQ_L (R258). -/
  | stqL (h : Hdr) (d : BitVec 6) (a : BitVec 6) (o : BitVec 6)
  /-- AMIN (R259). -/
  | amin (h : Hdr) (d : BitVec 6) (a : BitVec 6) (b : BitVec 6)
  /-- AMAX (R259). -/
  | amax (h : Hdr) (d : BitVec 6) (a : BitVec 6) (b : BitVec 6)
  /-- AMINU (R259). -/
  | aminu (h : Hdr) (d : BitVec 6) (a : BitVec 6) (b : BitVec 6)
  /-- AMAXU (R259). -/
  | amaxu (h : Hdr) (d : BitVec 6) (a : BitVec 6) (b : BitVec 6)
  /-- AOR (R259). -/
  | aor (h : Hdr) (d : BitVec 6) (a : BitVec 6) (b : BitVec 6)
  /-- AAND (R259). -/
  | aand (h : Hdr) (d : BitVec 6) (a : BitVec 6) (b : BitVec 6)
  /-- AADD (R259). -/
  | aadd (h : Hdr) (d : BitVec 6) (a : BitVec 6) (b : BitVec 6)
  /-- ASWAP (R259). -/
  | aswap (h : Hdr) (d : BitVec 6) (a : BitVec 6) (b : BitVec 6)
  /-- AMIN_W (R259). -/
  | aminW (h : Hdr) (d : BitVec 6) (a : BitVec 6) (b : BitVec 6)
  /-- AMAX_W (R259). -/
  | amaxW (h : Hdr) (d : BitVec 6) (a : BitVec 6) (b : BitVec 6)
  /-- AMINU_W (R259). -/
  | aminuW (h : Hdr) (d : BitVec 6) (a : BitVec 6) (b : BitVec 6)
  /-- AMAXU_W (R259). -/
  | amaxuW (h : Hdr) (d : BitVec 6) (a : BitVec 6) (b : BitVec 6)
  /-- AOR_W (R259). -/
  | aorW (h : Hdr) (d : BitVec 6) (a : BitVec 6) (b : BitVec 6)
  /-- AAND_W (R259). -/
  | aandW (h : Hdr) (d : BitVec 6) (a : BitVec 6) (b : BitVec 6)
  /-- AADD_W (R259). -/
  | aaddW (h : Hdr) (d : BitVec 6) (a : BitVec 6) (b : BitVec 6)
  /-- ASWAP_W (R259). -/
  | aswapW (h : Hdr) (d : BitVec 6) (a : BitVec 6) (b : BitVec 6)
  /-- CAS (R260). -/
  | cas (h : Hdr) (d : BitVec 6) (a : BitVec 6) (b : BitVec 6)
  /-- CASW (R260). -/
  | casw (h : Hdr) (d : BitVec 6) (a : BitVec 6) (b : BitVec 6)
  /-- FADD_S (R260). -/
  | faddS (h : Hdr) (d : BitVec 6) (a : BitVec 6) (b : BitVec 6)
  /-- FMAX_S (R260). -/
  | fmaxS (h : Hdr) (d : BitVec 6) (a : BitVec 6) (b : BitVec 6)
  /-- AMIN_L (R259). -/
  | aminL (h : Hdr) (d : BitVec 6) (a : BitVec 6) (b : BitVec 6)
  /-- AMAX_L (R259). -/
  | amaxL (h : Hdr) (d : BitVec 6) (a : BitVec 6) (b : BitVec 6)
  /-- AMINU_L (R259). -/
  | aminuL (h : Hdr) (d : BitVec 6) (a : BitVec 6) (b : BitVec 6)
  /-- AMAXU_L (R259). -/
  | amaxuL (h : Hdr) (d : BitVec 6) (a : BitVec 6) (b : BitVec 6)
  /-- AOR_L (R259). -/
  | aorL (h : Hdr) (d : BitVec 6) (a : BitVec 6) (b : BitVec 6)
  /-- AAND_L (R259). -/
  | aandL (h : Hdr) (d : BitVec 6) (a : BitVec 6) (b : BitVec 6)
  /-- AADD_L (R259). -/
  | aaddL (h : Hdr) (d : BitVec 6) (a : BitVec 6) (b : BitVec 6)
  /-- ASWAP_L (R259). -/
  | aswapL (h : Hdr) (d : BitVec 6) (a : BitVec 6) (b : BitVec 6)
  /-- ARM (R287). -/
  | arm (h : Hdr) (l : BitVec 5) (a : BitVec 6)
  /-- SIGN (R290). -/
  | sign (h : Hdr) (l : BitVec 5) (w : Bool) (a : BitVec 6) (d : BitVec 6)
  /-- VOTE (R293). -/
  | vote (h : Hdr) (l : BitVec 5) (w : Bool) (a : BitVec 6) (d : BitVec 6)
  /-- SCAN (R293). -/
  | scan (h : Hdr) (l : BitVec 5) (w : Bool) (a : BitVec 6) (d : BitVec 6)
  /-- XCHG (R294). -/
  | xchg (h : Hdr) (l : BitVec 5) (w : Bool) (a : BitVec 6) (d : BitVec 6)
  /-- BAR (R298). -/
  | bar (h : Gd) (l : BitVec 5) (w : Bool) (d : BitVec 6)
  /-- REDMAX (R293). -/
  | redmax (h : Hdr) (l : BitVec 5) (w : Bool) (a : BitVec 6) (d : BitVec 6)
  /-- REDADD (R293). -/
  | redadd (h : Hdr) (l : BitVec 5) (w : Bool) (a : BitVec 6) (d : BitVec 6)
  /-- MMA_E4M3 (R353). -/
  | mmaE4m3 (h : Hdr) (l : BitVec 5) (r : Bool) (a : BitVec 6) (b : BitVec 6)
  /-- MMAP_E4M3 (R353). -/
  | mmapE4m3 (h : Hdr) (l : BitVec 5) (r : Bool) (a : BitVec 6) (b : BitVec 6)
  /-- MMA_H (R354). -/
  | mmaH (h : Hdr) (l : BitVec 5) (r : Bool) (a : BitVec 6) (b : BitVec 6)
  /-- MMA_BH (R354). -/
  | mmaBh (h : Hdr) (l : BitVec 5) (r : Bool) (a : BitVec 6) (b : BitVec 6)
  /-- MMA_I8 (R355). -/
  | mmaI8 (h : Hdr) (l : BitVec 5) (r : Bool) (a : BitVec 6) (b : BitVec 6)
  /-- ABALLOC (R341). -/
  | aballoc (h : Gd) (d : BitVec 6) (a : BitVec 6)
  /-- ABFREE (R342). -/
  | abfree (h : Hdr)
  /-- DRAIN (R361). -/
  | drain (h : Gd) (d : BitVec 6) (a : BitVec 6) (b : BitVec 6)
  /-- ACCZ (R359). -/
  | accz (h : Hdr) (a : BitVec 6)
  /-- ACCLD (R360). -/
  | accld (h : Hdr) (a : BitVec 6)
  /-- TDSET (R338). -/
  | tdset (h : Hdr) (t : BitVec 6) (a : BitVec 6)
  /-- TDINV (R338). -/
  | tdinv (h : Hdr) (t : BitVec 6)
  /-- TBLD (R363). -/
  | tbld (h : Hdr) (t : BitVec 4) (a : BitVec 6)
  /-- CPY (R273). -/
  | cpy (h : Gd) (s : BitVec 3) (o : BitVec 2) (a : BitVec 6) (b : BitVec 6)
  /-- CPY2D (R273). -/
  | cpy2d (h : Gd) (s : BitVec 3) (o : BitVec 2) (a : BitVec 6) (b : BitVec 6)
  /-- FILL (R273). -/
  | fill (h : Gd) (s : BitVec 3) (o : BitVec 2) (a : BitVec 6) (b : BitVec 6)
  /-- CPYFP (R279). -/
  | cpyfp (h : Gd) (s : BitVec 3) (o : BitVec 2) (a : BitVec 6) (b : BitVec 6)
  /-- CMPB (R273). -/
  | cmpb (h : Gd) (s : BitVec 3) (o : BitVec 2) (a : BitVec 6) (b : BitVec 6)
  /-- SPMAP (R275). -/
  | spmap (h : Gd) (s : BitVec 3) (o : BitVec 2) (a : BitVec 6) (b : BitVec 6)
  /-- SPFILL (R275). -/
  | spfill (h : Gd) (s : BitVec 3) (o : BitVec 2) (a : BitVec 6) (b : BitVec 6)
  /-- SPWB (R275). -/
  | spwb (h : Gd) (s : BitVec 3) (o : BitVec 2) (a : BitVec 6) (b : BitVec 6)
  /-- SPUNMAP (R275). -/
  | spunmap (h : Gd) (s : BitVec 3) (o : BitVec 2) (a : BitVec 6) (b : BitVec 6)
  /-- GATHER (R322). -/
  | gather (h : Gd) (s : BitVec 3) (o : BitVec 2) (a : BitVec 6) (b : BitVec 6)
  /-- GSUM (R321). -/
  | gsum (h : Gd) (s : BitVec 3) (o : BitVec 2) (a : BitVec 6) (b : BitVec 6)
  /-- GMAX (R321). -/
  | gmax (h : Gd) (s : BitVec 3) (o : BitVec 2) (a : BitVec 6) (b : BitVec 6)
  /-- SCATTER (R325). -/
  | scatter (h : Gd) (s : BitVec 3) (o : BitVec 2) (a : BitVec 6) (b : BitVec 6)
  /-- SCADD (R326). -/
  | scadd (h : Gd) (s : BitVec 3) (o : BitVec 2) (a : BitVec 6) (b : BitVec 6)
  /-- HAMD (R329). -/
  | hamd (h : Gd) (s : BitVec 3) (o : BitVec 2) (a : BitVec 6) (b : BitVec 6)
  /-- WPUSH (R392). -/
  | wpush (h : Gd) (w : BitVec 3) (a : BitVec 6) (b : BitVec 6)
  /-- WPUSHS (R392). -/
  | wpushs (h : Gd) (w : BitVec 3) (a : BitVec 6) (b : BitVec 6)
  /-- WPOP (R393). -/
  | wpop (h : Hdr) (w : BitVec 3) (d : BitVec 6) (k : Bool)
  /-- WPOPW (R393). -/
  | wpopw (h : Gd) (w : BitVec 3) (d : BitVec 6) (k : Bool)
  /-- WDONE (R394). -/
  | wdone (h : Gd) (w : BitVec 3)
  /-- WBOUND (R395). -/
  | wbound (h : Hdr) (w : BitVec 3) (a : BitVec 6)
  /-- WTERM (R396). -/
  | wterm (h : Gd) (w : BitVec 3) (d : BitVec 6)
  /-- WSTAT (R397). -/
  | wstat (h : Hdr) (w : BitVec 3) (d : BitVec 6) (b : BitVec 6)
  /-- LAUNCH (R131). -/
  | launch (h : Gd) (s : BitVec 3) (o : BitVec 2) (a : BitVec 6)
  /-- EVSIG (R131). -/
  | evsig (h : Gd) (s : BitVec 3) (o : BitVec 2) (a : BitVec 6) (b : BitVec 6)
  /-- EVWAIT (R131). -/
  | evwait (h : Gd) (s : BitVec 3) (o : BitVec 2) (a : BitVec 6) (b : BitVec 6)
  /-- GSET (R184). -/
  | gset (h : Gd) (d : BitVec 6) (q : BitVec 6)
  /-- GCLR (R184). -/
  | gclr (h : Gd) (d : BitVec 6) (q : BitVec 6)
  /-- GRST (R184). -/
  | grst (h : Hdr) (q : BitVec 6)
  /-- HINT_LIT (R49). -/
  | hintLit (i : BitVec 22)
  /-- HINT_LITH (R49). -/
  | hintLith (i : BitVec 22)
  /-- HINT_VEC (R197). -/
  | hintVec (m : BitVec 3) (v : Bool) (r : BitVec 2) (z : Bool) (s : Bool) (o : BitVec 6)
  /-- HINT_MEMO (R91). -/
  | hintMemo (s : BitVec 3) (a : Bool) (r : Bool) (c : BitVec 2)
  /-- HINT_GUARD (R30). -/
  | hintGuard (q : BitVec 6) (p : Bool)
  /-- HINT_SCHED (R149). -/
  | hintSched (y : Bool) (b : Bool)
  /-- HINT_KSRC (R50). -/
  | hintKsrc (k : BitVec 9) (x : Bool)
  /-- RUN_SELECTION (R147): A free issue slot forms a batch of eligible fibres and starts its run, delivering pending posted causes. -/
  | runSelection (core part slot tie : Nat)
  /-- COMMAND_ACCEPTANCE (R19): A stalled engine command obtains queue and calendar room and receives its PCT. -/
  | commandAcceptance (cmd : Nat)
  /-- COPY_COMMAND_COMPLETE (R273): The copy engine completes a command's reads, writes and release by its PCT. -/
  | copyCommandComplete (cmd : Nat)
  /-- LNCH_COMMAND_COMPLETE (R131): A LAUNCH descriptor is in its device queue or an EVSIG addition is performed. -/
  | lnchCommandComplete (cmd : Nat)
  /-- PROMISE_MISSED (R24): An engine detects a missed promise, settles the command and posts the trap. -/
  | promiseMissed (cmd : Nat) (why : MissCause)
  /-- SLEEP_WAKE (R180): FTIME reaches a sleeping fibre's wake time and it becomes eligible. -/
  | sleepWake (f : FKey)
  /-- FENCE_WAIT_END (R87): FTIME reaches the wait value of a release fence or WAITG and the word completes. -/
  | fenceWaitEnd (f : FKey)
  /-- RELEASE_HOLD_ISSUE (R264): A held release store or atomic issues when FTIME reaches its wait value. -/
  | releaseHoldIssue (f : FKey)
  /-- L1_FILL (R231): A miss-status entry's fill arrives, installs the line and serves its loads. -/
  | l1Fill (entry lease : Nat)
  /-- LONG_LATENCY_RESULT (R144): A long-latency result is written to its g register and marked ready. -/
  | longLatencyResult (res : Nat)
  /-- WRITE_ARRIVAL (R77): A write reaches its level and is given a GWCT. -/
  | writeArrival (wr latency : Nat)
  /-- GWCT_PASSED (R77): A pending write's GWCT passes and its bytes become the line's value. -/
  | gwctPassed (pend : Nat)
  /-- ATOMIC_EXECUTION (R94): An atomic reaches its executing level and acts indivisibly. -/
  | atomicExecution (atom latency : Nat)
  /-- REPLICATED_WRITE_SEQUENCE (R99): The sequencer stamps a write to a replicated page and multicasts it to the replicas. -/
  | replicatedWriteSequence (wr latency : Nat)
  /-- WRITE_MERGE_WINDOW (R232): The coalescer's 8-clock window closes and merged writes are sent. -/
  | writeMergeWindow (core : Nat)
  /-- REMOTE_SCRATCHPAD_ACCESS (R223): An access to a rope-mate's scratchpad takes effect at the target. -/
  | remoteScratchpadAccess (acc : Nat)
  /-- CHUNK_FILL_COMPLETE (R225): A first-touch fill of a mapped chunk completes and the chunk becomes FILLED. -/
  | chunkFillComplete (launch team chunk : Nat)
  /-- FAULT_REQUEST (R248): The fault service merges a page fault into a request on the function's fault ring. -/
  | faultRequest (fault : Nat)
  /-- FRESP_RETRY (R248): Host answers a fault request with retry and parked fibres and tasks become eligible. -/
  | frespRetry (fn : Nat) (v : BitVec 64)
  /-- FRESP_DENY (R248): Host answers a fault request with deny and a denial is cached for the page. -/
  | frespDeny (fn : Nat) (v : BitVec 64)
  /-- TINVCMD (R251): A write starts or queues an invalidation of a virtual range. -/
  | tinvcmd (fn : Nat) (v : BitVec 64)
  /-- INVALIDATION_COMPLETE (R251): An invalidation's conditions hold and TINVDONE advances. -/
  | invalidationComplete (fn : Nat)
  /-- FQCFG_WRITE (R249): Writes fault ring configuration, ignoring invalid enabling values. -/
  | fqcfgWrite (fn : Nat) (v : BitVec 64)
  /-- PEER_TRANSLATION_RECALL (R253): A target's recall makes the source drop a peer translation and confirm. -/
  | peerTranslationRecall (head : PktHead) (frame : Nat)
  /-- PEER_LEASE_EXPIRY (R253): A peer translation lease ends and the source walks again. -/
  | peerLeaseExpiry (peer frame : Nat)
  /-- MATRIX_QUEUE_ENTRY_COMPLETE (R344): A matrix queue entry finishes updating or draining its tile. -/
  | matrixQueueEntryComplete (entry : Nat)
  /-- ABALLOC_GRANT (R341): The head ABALLOC request finds enough free banks and is granted. -/
  | aballocGrant (core : Nat)
  /-- EVWAIT_SATISFIED (R131): A waiting EVWAIT observes its counter at the value and resumes. -/
  | evwaitSatisfied (f : FKey)
  /-- HOST_QUEUE_SLOT_READ (R110): The launch engine reads and copies a host-queue descriptor, advancing QHEAD. -/
  | hostQueueSlotRead (q : Nat)
  /-- DEVICE_QUEUE_HEAD_TAKE (R432): The engine takes a device-queue head for checking and gives it a launch identifier. -/
  | deviceQueueHeadTake (p : Nat)
  /-- LAUNCH_CHECK (R116): The engine checks a launch's image and descriptor before its wait. -/
  | launchCheck (launch : Nat)
  /-- LAUNCH_START (R113): An eligible queue head is chosen, placed on cores and its fibres started. -/
  | launchStart (launch : Nat) (place : List TeamPlace)
  /-- PREEMPTION (R123): A lower-priority launch is stopped and its context saved. -/
  | preemption (launch : Nat)
  /-- LAUNCH_RESTORE (R125): A pre-empted launch is restored onto its cores. -/
  | launchRestore (launch : Nat)
  /-- DIE_SET_CHANGE (R121): At STEP the engine adds or withdraws dies and moves teams, then releases the step. -/
  | dieSetChange (launch : Nat) (moves : List TeamPlace)
  /-- LAUNCH_COMPLETION (R128): All fibres ended and commands settled; the record is written and DONE added. -/
  | launchCompletion (launch : Nat)
  /-- CORE_UNCORRECTABLE_ERROR (R126): An uncorrectable error ends a core's teams and loses their ropes. -/
  | coreUncorrectableError (core struct : Nat) (addr : Nat)
  /-- ROPE_LOSS_TIMEOUT (R126): 10 µs after the error the engine ends remaining fibres of lost ropes. -/
  | ropeLossTimeout (launch rope : Nat)
  /-- ROPE_RESTART (R127): A lost rope of a restartable launch is placed and started at the current step. -/
  | ropeRestart (launch rope : Nat) (place : List TeamPlace)
  /-- GATHER_SPLIT (R317): The requesting switch die folds, translates and splits a gather command by home. -/
  | gatherSplit (cmd : Nat)
  /-- MSE_PART_SERVICE (R320): A home die's memory-side engines fetch, pool or update the rows of a part. -/
  | msePartService (cmd home : Nat)
  /-- SCADD_CONTRIBUTION_APPLY (R327): A home applies scatter contributions of one core in sequence order. -/
  | scaddContributionApply (contrib latency : Nat)
  /-- GATHER_MERGE (R322): Replies are merged into scratchpad with the mask and the command completes. -/
  | gatherMerge (cmd : Nat)
  /-- GATHER_GRANT_REQUEST (R411): A target package grants inbound gather calendar granules in arrival order. -/
  | gatherGrantRequest (head : PktHead) (bytes : Nat)
  /-- GATHER_GRANT (R411): A grant reaches the requesting switch die, letting acceptance proceed. -/
  | gatherGrant (cmd : Nat) (head : PktHead) (granules : List (Nat × Nat))
  /-- PUSH_ACCEPTANCE (R374): A waiting push obtains a slice entry or spill chunk and is accepted. -/
  | pushAcceptance (push : Nat)
  /-- INVERSION_PUSH_ANNOUNCED (R378): An inversion push's announcement reaches every core's horizon. -/
  | inversionPushAnnounced (push : Nat)
  /-- HORIZON_BROADCAST (R375): The directory recomputes the floor and broadcasts the horizon. -/
  | horizonBroadcast (wl : Nat)
  /-- WPOPW_DELIVERY (R393): A blocked WPOPW receives an eligible task and begins its task region. -/
  | wpopwDelivery (f : FKey) (pick : Nat)
  /-- IDLE_REQUEST (R386): The directory names the core with the lowest eligible bucket to send tasks. -/
  | idleRequest (wl core : Nat)
  /-- TASK_TRANSFER_ARRIVAL (R386): Tasks in transit arrive in the requesting slice. -/
  | taskTransferArrival (wl core : Nat)
  /-- TERMINATION_SWEEP (R387): The directory's periodic sweep may declare TERMINATED and release waiters. -/
  | terminationSweep (wl : Nat)
  /-- PACKET_DATA_FLIT (R404): A packet data flit is received and checked by FEC and CRC. -/
  | packetDataFlit (port : Nat) (flit : Flit)
  /-- TIME_SYNC_FLIT (R412): A time sync flit adjusts fabric time to stay within skew. -/
  | timeSyncFlit (port : Nat) (flit : Flit) (fabricTime : Nat)
  /-- CONTROL_FLIT (R404): A control flit is received on a port. -/
  | controlFlit (port : Nat) (flit : Flit)
  /-- IDLE_FLIT (R404): An idle flit is received, carrying acknowledgements and credits. -/
  | idleFlit (port : Nat) (flit : Flit)
  /-- FLIT_REPLAY (R404): A failed flit is replayed from the retry buffer in SEQ order. -/
  | flitReplay (port : Nat)
  /-- FLIT_IDLE_TIMER (R404): A port that has sent nothing for 400 ticks sends a flit. -/
  | flitIdleTimer (port : Nat)
  /-- TIME_SYNC_TIMER (R412): Time-sync flits are sent on every up port at least every 25,000 ticks. -/
  | timeSyncTimer (port : Nat)
  /-- PORT_RETRAIN (R405): Sixteen replays in 25,000 ticks or excess lane errors start a retrain. -/
  | portRetrain (port : Nat) (laneErrors : Bool)
  /-- RETRAIN_COMPLETE (R405): A retrain ends with the port on four or two lanes, or down. -/
  | retrainComplete (port : Nat) (failed : BitVec 4)
  /-- LOSS_OF_SIGNAL (R405): Loss of signal on every lane marks the port down and may signal a departure. -/
  | lossOfSignal (port : Nat)
  /-- FLOWLET_GAP_EXPIRY (R407): A flow idle longer than FLOWGAP may move to another port. -/
  | flowletGapExpiry (sw peer port : Nat)
  /-- D2D_LINK_FAILURE (R408): A failed die-to-die link is rerouted through a third die. -/
  | d2dLinkFailure (a b : Nat)
  /-- FABRIC_JOIN (R412): A package joins the fabric, takes an incarnation and steps FTIME. -/
  | fabricJoin (id lastInc : Nat) (first : Bool) (fabricTime : Nat)
  /-- JOIN_NOTICE (R412): A member records a joining package's new incarnation. -/
  | joinNotice (peer inc : Nat)
  /-- DEPARTURE_NOTICE (R413): A member marks a peer departed and completes its outstanding accesses with failure values. -/
  | departureNotice (peer : Nat)
  /-- REMOTE_REQUEST (R415): A fabric request arrives at a target and is served or refused by incarnation. -/
  | remoteRequest (req : RemoteReq)
  /-- REMOTE_REPLY (R415): A fabric reply arrives and is used or dropped by incarnation. -/
  | remoteReply (rep : RemoteRep)
  /-- HOST_SURPRISE_DOWN (R417): The host link drops without request; queues stop and launches are saved or aborted. -/
  | hostSurpriseDown
  /-- ATS_INVALIDATION_REQUEST (R416): A host ATS invalidation drops cached translations. -/
  | atsInvalidationRequest (iova bytes : Nat)
  /-- BAR2_WRITE (R416): A host write through BAR2 is performed at the home as a DEVICE-scope store. -/
  | bar2Write (pa : Nat) (data : List (BitVec 8))
  /-- BAR2_READ (R416): A host read through BAR2 is served at the home. -/
  | bar2Read (pa n : Nat)
  /-- QTAIL_DOORBELL (R110): A write to QTAIL rings a host queue's doorbell or is ignored. -/
  | qtailDoorbell (fn q : Nat) (v : BitVec 64)
  /-- QCFG_WRITE (R109): Writes a host queue's configuration under its EN rules. -/
  | qcfgWrite (fn q : Nat) (v : BitVec 64)
  /-- FABCFG_WRITE (R400): Writes fabric configuration while not joined. -/
  | fabcfgWrite (v : BitVec 64)
  /-- MCDATA_WRITE (R409): Stores a multicast group entry at MCIDX. -/
  | mcdataWrite (v : BitVec 64)
  /-- ERRCFG_WRITE (R420): Sets the error ring size, ignoring invalid values. -/
  | errcfgWrite (v : BitVec 64)
  /-- ERRLOST_CLEAR (R420): Clears the count of dropped error records. -/
  | errlostClear (v : BitVec 64)
  /-- MSTAT_REASON_CLEAR (R425): Clears replacement-request reason bits. -/
  | mstatReasonClear (v : BitVec 64)
  /-- REGISTER_WRITE (R6): A host write to a register with no behaviour of its own. -/
  | registerWrite (fn off : Nat) (v : BitVec 64)
  /-- GETSTAT (R418): Management command returning MSTAT and the reason mask. -/
  | getstat
  /-- QUIESCE (R419): Stops queues, saves or aborts launches and answers when no fibre runs. -/
  | quiesce
  /-- RESUME (R418): Queues are read again and saved launches resume. -/
  | resume
  /-- RETIRE (R424): Marks a named core for retirement. -/
  | retire (core : Nat)
  /-- PORTEN (R405): Enables a fabric port that is down. -/
  | porten (port : Nat)
  /-- KEYSET (R428): Loads a key pair into an empty key slot; `session` says that an authenticated MCTP session carries it. -/
  | keyset (slot : Nat) (key : KeyLoad)
  /-- KEYERASE (R428): Writes back and drops lines under a key slot, then empties it. -/
  | keyerase (slot : Nat)
  /-- ATTEST (R427): Returns a signed attestation report. -/
  | attest (nonce : List (BitVec 8))
  /-- FWLOAD (R427): Stages a firmware image for the next reset if it verifies. -/
  | fwload (version digest : Nat) (verifies : Bool)
  /-- COUNTERS (R422): Returns the soft-error counts. -/
  | counters
  /-- CORE_RETIREMENT (R424): A marked core with no team placed is retired and a spare takes its place. -/
  | coreRetirement (core : Nat)
  /-- HBM_ROW_REMAP (R424): A failing HBM row starts copying to a spare row. -/
  | hbmRowRemap (stack row : Nat) (corrected : Nat)
  /-- ROW_REMAP_COMPLETE (R424): A row copy finishes and the spare row replaces the old row. -/
  | rowRemapComplete (stack row : Nat)
  /-- CORRECTED_ERROR (R422): A corrected ECC error raises its structure's count and may mark a core. -/
  | correctedError (struct die : Nat) (core : Option Nat)
  /-- UNCORRECTABLE_MEMORY_ERROR (R423): Uncorrectable L2 or HBM data is written back poisoned. -/
  | uncorrectableMemoryError (pa : Nat)
  /-- FATAL_ERROR (R426): A fatal error stops all engines and cores and writes the dump. -/
  | fatalError (unit struct : Nat) (addr detail : Nat)
  /-- PACKAGE_POWER_LIMIT (R429): Package power over its limit lowers core and matrix clocks. -/
  | packagePowerLimit (exceeded : Bool)
  /-- DIE_TEMPERATURE_LIMIT (R429): A die at 105 °C lowers clocks. -/
  | dieTemperatureLimit (die : Nat)
  /-- POWER_TRIP (R429): Module power above 5.6 kW for 10 ms causes a fatal error. -/
  | powerTrip
  /-- THERMAL_TRIP (R429): A die at 115 °C causes a fatal error. -/
  | thermalTrip (die : Nat)
  /-- COOLANT_OUT_OF_RANGE (R429): Coolant outside its range sets REASON bit 22. -/
  | coolantOutOfRange
  /-- MODULE_RESET (R429): Module reset runs bring-up and sets READY. -/
  | moduleReset (cores : List Nat)
  /-- FQHEAD_WRITE (R248): Host software advances FQHEAD, freeing room in a full fault ring so that the waiting fault service posts its requests. -/
  | fqheadWrite (fn : Nat) (v : BitVec 64)
  /-- HOST_LINK_TRAINED (R417): The host link trains again after a surprise down, so that host-memory accesses are no longer refused and host software can re-enable the queues. -/
  | hostLinkTrained
  /-- PORT_TRAINING_COMPLETE (R405): A fabric port that was down finishes training after PORTEN or at bring-up, and PORTSTAT moves from training to up on four or two lanes, or to down. -/
  | portTrainingComplete (port : Nat) (failed : BitVec 4)
  /-- QUIESCE_COMPLETE (R419): Once every launch is saved or ended and no fibre runs, the controller sets QUIESCED and sends the QUIESCE response. -/
  | quiesceComplete
  /-- FATAL_DUMP_COMPLETE (R426): The fatal dump is fully written, COMPLETE is set, MSI-X vector 1 is raised and the MCTP notice is sent. -/
  | fatalDumpComplete (partial_ : List Nat)
  deriving DecidableEq, Repr

end Sys2Proof
end

