-- ==== Sys2Proof/Machine/State.lean ====
section
/-! DEFINITION. The state of a VG8 module: everything spec/ gives the machine, as plain data, and State.reset.
Names and reset values are listed in INVENTORY.md under State, with the rule that names each. -/

namespace Sys2Proof.Machine

/-! ### How a step can stop -/

/-- Why a step stops. -/
inductive Fault where
  /-- Raised by a word when no fibre of a batch stands at it, and by nothing else: a word acts only for a fibre (R162).
  Safe: no hardware executes a word outside a fibre. -/
  | noFibre
  deriving DecidableEq, Repr

/-- What the model does not give a meaning. -/
inductive Refusal where
  /-- Raised by exec for an instruction without a meaning in this model. Safe. -/
  | notModelled (mnemonic : String)
  deriving DecidableEq, Repr

/-! ### Memory -/

/-- Sparse memory: (address, byte) pairs with strictly rising addresses and no zero byte; an unlisted address reads 0. -/
abbrev Memory := List Host.Cell

/-- Where a global byte or line lives (R75, R98, R244, R403): a local physical address, a replicated page by its replica
in stacks 0-2, an address of a peer's exported window, or host memory. -/
inductive Place where
  | dram (pa : Nat)
  | repl (pa : Nat)
  | peer (id addr : Nat)
  | host (addr : Nat)
  deriving DecidableEq, Repr

/-- A leaf translation of one 64 KiB page (R244, R242): where the page begins, and its fields. -/
structure Leaf where
  base : Place
  w : Bool
  cmp : Nat
  key : Nat
  deriving DecidableEq, Repr

/-- Who keeps a cached translation (R246, R251). -/
inductive Holder where
  | core (c : Nat)
  | engine (e : Nat)
  deriving DecidableEq, Repr

/-- The number under which the host stands beside the peers' identifiers: its ATS translations are kept, by function and
page, as those of a peer (R416). -/
def atsPeer : Nat := 4096

/-- What a peer's export table said of an exported frame (R253, R402): the class of its refusal or 0, whether writes are
allowed, and the end of the lease. For `atsPeer` what ATS said of a page, by 2^26 × function + page, without an end. -/
structure PeerXlat where
  peer : Nat
  frame : Nat
  cls : Nat
  w : Bool
  until_ : Time
  /-- Whether the access that asked for it has used it. -/
  used : Bool
  /-- Whether its target has recalled it and still lacks the confirmation. -/
  recalled : Bool
  /-- Of a refusal of class 3 or 4 the physical address of the export entry, which the record gives (R431). -/
  entry : Nat
  deriving DecidableEq, Repr

/-- A lease on the translation of an exported frame, granted to a peer (R253). -/
structure PeerLease where
  peer : Nat
  frame : Nat
  until_ : Time
  recalled : Bool
  deriving DecidableEq, Repr

/-- A cached translation: holder, function, 64 KiB virtual page number, leaf, and the predicted number of sectors of a
block of the page (R239). -/
structure TlbEnt where
  holder : Holder
  fn : Nat
  vpn : Nat
  leaf : Leaf
  g : Nat
  deriving DecidableEq, Repr

/-- Part of an access that lies in one 128 B line (R235): where it starts, how many bytes, the page's fields, and its
virtual address. -/
structure Piece where
  place : Place
  n : Nat
  leaf : Leaf
  va : Nat
  deriving DecidableEq, Repr

/-- Levels at which a write is performed (R77, R79, R99). -/
inductive Level where
  | l1 (core : Nat)
  | l2 (die : Nat)
  | home
  | replica (die : Nat)
  deriving DecidableEq, Repr

/-- On whose behalf a pending write was issued (R78): a core, every core of a die (a write-back of the die's L2), or no
core (an engine, the host or a peer). -/
inductive Issuer where
  | core (c : Nat)
  | die (d : Nat)
  | none
  deriving DecidableEq, Repr

/-- A write that has arrived at a level and whose GWCT may not have passed (R77, R78). `bad` holds the offsets it writes
poisoned (R281, R423), `pack` the metadata that the block takes: 0 raw, else its compressed sectors (R238, R240), `cmp`
the CMP of its page. `full` is the GWCT of the write as a whole: of a replicated page that of its last replica (R99). -/
structure Pending where
  uid : Nat
  level : Level
  line : Place
  bytes : List (Nat × Byte)
  gwct : Time
  issuer : Issuer
  key : Nat
  bad : List Nat
  pack : Nat
  full : Time
  cmp : Nat
  deriving DecidableEq, Repr

/-- The latest end of the leases a level has granted on a line, and of those held on other packages (R76, R77). -/
structure Horizon where
  level : Level
  line : Place
  until_ : Time
  remote : Time
  deriving DecidableEq, Repr

/-- A line in a core's L1 (R228). `snap` is the copy, empty when none was fetched; `dirty` holds the bytes written while
the tag is TEAM, by offset. Lines stand in order of use, the most recent first (R230). -/
structure L1Line where
  core : Nat
  line : Place
  lease : Time
  snap : List Byte
  dirty : List (Nat × Byte)
  streaming : Bool
  key : Nat
  cmp : Nat
  deriving DecidableEq, Repr

/-- A copy in the L2 of a die that is not the line's home, with the bytes written while its tag is DIE (R79, R81). -/
structure L2Line where
  die : Nat
  line : Place
  lease : Time
  snap : List Byte
  dirty : List (Nat × Byte)
  key : Nat
  cmp : Nat
  deriving DecidableEq, Repr

/-- What a write on its way to its level is for, and what becomes of its GWCT. -/
inductive WriteKind where
  /-- A store of fibres. -/
  | store
  /-- A write-back on behalf of a fence, an acquire or CLWB. -/
  | fenceWb
  /-- A write-back of an eviction: its GWCT goes to the write-back horizon of an L1 or L2 (R81). -/
  | evictL1 (core : Nat)
  | evictL2 (die : Nat)
  deriving DecidableEq, Repr

/-- A write that has left a core (or an L2) and has not arrived at its level (R232). `fibres` receive its GWCT in GWMAX;
`open_` says it may still merge in the coalescer's window. -/
structure OutWrite where
  uid : Nat
  core : Nat
  level : Level
  line : Place
  bytes : List (Nat × Byte)
  scope : Nat
  policy : Nat
  kind : WriteKind
  issuer : Issuer
  fibres : List FKey
  cmds : List Nat
  cmp : Nat
  key : Nat
  release : Bool
  born : Time
  open_ : Bool
  /-- The virtual address of each fibre's store, which REMOTE_ERROR reports (R414). -/
  vas : List (FKey × Nat)
  /-- Whether the line is written back from the die's L2 once this write is there, and as what: a release or a store at
  DEVICE or wider found the write on its way (R79, R87, R103); and the fibres and commands on whose behalf. -/
  pushOn : Option WriteKind
  backFor : List FKey
  backCmds : List Nat
  deriving DecidableEq, Repr

/-- A miss-status entry (R231): the line wanted by a core and when it was allocated. -/
structure Mshr where
  uid : Nat
  core : Nat
  line : Place
  born : Time
  policy : Nat
  key : Nat
  prefetch : Bool
  remoteReq : Option Nat
  deriving DecidableEq, Repr

/-- How a loaded value becomes register values (R257): the size in bytes and whether it is sign-extended. -/
structure LoadForm where
  size : Nat
  signed : Bool
  deriving DecidableEq, Repr

/-- One half of a load (R235): the bytes once they are in, else the entry, remote access or chunk it waits for. -/
structure LoadPart where
  place : Place
  n : Nat
  key : Nat
  entry : Option Nat
  got : Option (List Byte)
  va : Nat
  deriving DecidableEq, Repr

/-- Where the bytes of a load go: registers (numbers above 63 stand for the return stack and for the word of a TBLD), the data
of an ACCLD in the matrix queue (R360), or a pattern table (R363). -/
inductive LoadDst where
  | regs (d : Nat)
  | acc (entry : Nat)
  | pattern (pt : Nat)
  deriving DecidableEq, Repr

/-- A load of a fibre on its way (R144). `newer` holds the fibre's own buffered store bytes by offset (R82). -/
structure LoadReq where
  uid : Nat
  fibre : FKey
  form : LoadForm
  dst : LoadDst
  parts : List LoadPart
  newer : List (Nat × Byte)
  rerr : Bool
  va : Nat
  deriving DecidableEq, Repr

/-- Where an atomic executes (R94, R97). -/
inductive AtomAt where
  | level (lv : Level) (place : Place)
  | spad (launch team off : Nat)
  deriving DecidableEq, Repr

/-- An atomic on its way (R94, R259, R260). `dst` none writes no register (END's counter). -/
structure AtomReq where
  uid : Nat
  fibre : FKey
  core : Nat
  at_ : AtomAt
  width : Nat
  op : AtomOp
  operand : BitVec 64
  compare : BitVec 64
  signed : Bool
  dst : Option Nat
  scope : Nat
  key : Nat
  va : Nat
  remote : Bool
  /-- Its place among its core's writes, given when it leaves (R95). -/
  ord : Nat
  deriving DecidableEq, Repr

/-- An access to a rope-mate's scratchpad on its way (R223): a load (`bytes` empty, into `load`) or a store. -/
structure SpadReq where
  uid : Nat
  fibre : FKey
  launch : Nat
  team : Nat
  off : Nat
  n : Nat
  bytes : List Byte
  load : Option Nat
  deriving DecidableEq, Repr

/-- A write of a rope-mate in a 128 B block of a team's scratchpad, by block number, with its GWCT (R223, R259). -/
structure SpadWrite where
  launch : Nat
  team : Nat
  block : Nat
  gwct : Time
  deriving DecidableEq, Repr

/-- A long-latency result that has its value and is not yet written to its registers (R144): register, value and the
FST flags it merges (R133). -/
structure Result where
  uid : Nat
  fibre : FKey
  writes : List (Nat × Word)
  flags : Word
  deriving DecidableEq, Repr

/-! ### Fibres -/

/-- The bypass latches of a run (R44, R132); none is unwritten. -/
structure Latches where
  b0 : Option Word
  b1 : Option Word
  b2 : Option Word
  b3 : Option Word
  deriving DecidableEq, Repr

/-- Four unwritten latches. -/
def Latches.none : Latches := ⟨.none, .none, .none, .none⟩

/-- VEC hint fields (R47). -/
structure VecHint where
  mask : BitVec 3
  neg : Bool
  round : BitVec 2
  zero : Bool
  sat : Bool
  op4 : BitVec 6
  deriving DecidableEq, Repr

/-- MEMO hint fields (R47). -/
structure MemoHint where
  scope : BitVec 3
  acq : Bool
  rel : Bool
  policy : BitVec 2
  deriving DecidableEq, Repr

/-- The pending hint group of a fibre (R46): at most one hint of each kind, and the address and word of its first. -/
structure Hints where
  start : Option Word
  lit : Option (BitVec 22)
  lith : Option (BitVec 22)
  vec : Option VecHint
  memo : Option MemoHint
  guard : Option (BitVec 6 × Bool)
  sched : Option (Bool × Bool)
  ksrc : Option (BitVec 9 × Bool)
  /-- The hint words of the group with their addresses. -/
  words : List (Word × W32)
  deriving DecidableEq, Repr

/-- No pending hint. -/
def Hints.none : Hints := ⟨.none, .none, .none, .none, .none, .none, .none, .none, []⟩

/-- An entry of the region buffer (R151). -/
inductive RegionEnt where
  /-- A store to global memory, translated (R154, R258); spills of the return stack are such stores. -/
  | store (va : Nat) (pieces : List Piece) (bytes : List Byte) (scope policy : Nat)
  /-- A store to scratchpad: the team addressed and the offset in its allocation. -/
  | spad (team off : Nat) (bytes : List Byte)
  /-- CLWB of a line, or none where it writes back nothing (R262). -/
  | clwb (va : Nat) (line : Option Place) (scope : Nat)
  /-- A worklist push inside a task (R151). -/
  | push (wl : Nat) (prio entry : W32) (payload : Word)
  deriving DecidableEq, Repr

/-- A cause posted to a fibre (R24): TCAUSE code, TVAL, and the FTIME of posting. -/
structure Posted where
  cause : Nat
  tval : Word
  at_ : Time
  deriving DecidableEq, Repr

/-- What a release hold keeps in the core until its release is done (R264). -/
inductive Held where
  | store (ent : RegionEnt)
  | atomic (a : AtomReq)
  deriving DecidableEq, Repr

/-- A release store or atomic of a fibre that has ended while it held it (R161, R264): its commit is done, so it issues when
its release is. `gwmax` gathers the GWCTs that the release waits for. -/
structure HeldOp where
  fibre : FKey
  core : Nat
  scope : Nat
  gwmax : Time
  what : Held
  deriving DecidableEq, Repr

/-- Why a fibre is blocked (R146). -/
inductive Wait where
  /-- FENCE.rel, FENCE.ar (none) and WAITG (its destination). -/
  | fence (scope : Nat) (waitg : Option Nat)
  /-- END, after it has been presented: its counter and scope (R179). -/
  | ending (scope : Nat) (counter : Option AtomReq)
  /-- END after its release, with a held task: waiting as WDONE does. -/
  | endingTask (counter : Option AtomReq)
  /-- END whose increment is on its way. -/
  | counting
  /-- Stalled at acceptance with the command it presented (R20). -/
  | accept (cmd : Nat)
  | belay (bl : Nat)
  | step
  | ropebar
  /-- EVWAIT: the counter's address, the value to reach, whether it acquires, the scope of its release until that
  is done, and whether a fault of class 3 or 4 has been recorded while it waits (R431). -/
  | evwait (va : Nat) (value : Word) (acq : Bool) (fencing : Option Nat) (told : Bool)
  | wpopw (wl d : Nat) (dispatch : Bool)
  /-- A blocked worklist push (R380). -/
  | push (push : Nat)
  | wdone (wl : Nat)
  | wterm (wl d : Nat)
  | aballoc (mask : Nat) (d : Nat)
  | drain (entry : Nat) (d : Nat)
  /-- DRAIN whose writes and atomics are on their way, with its count. -/
  | drained (d count : Nat)
  /-- GSET and GCLR, with the largest PCT admitted so far (R31). -/
  | guard (slot d : Nat) (best : Time)
  deriving DecidableEq, Repr

/-- Whether a fibre can issue (R146). -/
inductive Status where
  | eligible
  | parked (fn page : Nat)
  | sleeping (until_ : Word)
  | blocked (why : Wait)
  | ended
  deriving DecidableEq, Repr

/-- A task's number in its worklist, held by a fibre. -/
structure HeldTask where
  wl : Nat
  uid : Nat
  prio : Word
  entry : Word
  payload : Word
  d : Nat
  dispatch : Bool
  deriving DecidableEq, Repr

/-- A fibre (R132, R119). -/
structure Fibre where
  key : FKey
  core : Nat
  part : Nat
  role : Nat
  window : Nat
  pc : Word
  spc : Word
  pw : BitVec 8
  g : List Word
  /-- Registers not ready, each with the number of the access that produces it (R144). -/
  notReady : List (Nat × Nat)
  lat : Latches
  slotTeam : Latches
  slotSys : Latches
  fst : Word
  ft : Time
  gwmax : Time
  /-- Hardware return-stack entries, the newest first (R175). -/
  rstack : List Word
  depth : Nat
  /-- The return stack at the region's start (R150). -/
  rstart : List Word
  rstartDepth : Nat
  region : List RegionEnt
  tpc : Word
  tcause : Word
  tval : Word
  hints : Hints
  runCount : Nat
  /-- The word being issued (R53 reports it). -/
  ir : W32
  /-- What SCHED words of the run ask for at its end (R149). -/
  yieldAtEnd : Bool
  boostAtEnd : Bool
  status : Status
  age : Time
  passes : Nat
  boost : Bool
  /-- Engine commands presented (R25). -/
  seq : Nat
  posted : List Posted
  serving : Option Posted
  acqHold : Bool
  relHold : Option (Nat × Held)
  task : Option HeldTask
  /-- A task kept for the WPOP that a restored or rolled-back fibre executes again (R385). -/
  keptTask : Option HeldTask
  arrivedStep : Bool
  arrivedRope : Bool
  /-- The 8 bytes that a TBLD of an expression entry waited for (R363). -/
  tableWord : Option Word
  /-- The address after the commit point that the fibre carried out last, until it issues another word (R153, log 23). -/
  afterCommit : Option Word
  /-- Whether the word after the one being issued is a marked safe point (R71, R153). -/
  nextSafe : Bool
  /-- Whether its context is saved (R123). -/
  saved : Bool
  deriving DecidableEq, Repr

/-! ### Teams -/

/-- A guard slot (R29). -/
inductive Slot where
  | unresolved
  | true_
  | false_
  deriving DecidableEq, Repr

/-- A sign of the open generation of a belay (R283): the member, its fibre, the value sent, the destination, D as read
at an XCHG, and whether the fibre waits (W = 1). An MMA sign keeps SB in `value` and RU in bit 0 of `old`. -/
structure Sign where
  member : Nat
  fid : Nat
  uid : Nat
  value : Word
  d : Nat
  old : Word
  waits : Bool
  deriving DecidableEq, Repr

/-- A belay (R283), with the fibres that started while its generation was open (R292) and its matrix side (R348):
the recorded A fragments by member, and the latched fragment registers. -/
structure Belay where
  armed : Bool
  config : Word
  pattern : List Byte
  gen : BitVec 32
  signed : List Sign
  op : Nat
  late : List Nat
  aFrag : List (Nat × List Word)
  aLatch : Option (List (List Word))
  deriving DecidableEq, Repr

/-- A belay at launch (R119, R283). -/
def Belay.initial : Belay := ⟨false, 0, [], 0, [], 0, [], [], none⟩

/-- A mapped scratchpad chunk (R224); an unlisted chunk is PLAIN. `written` lists the written 128 B lines; `fill` names
the fibre whose access began a fill that is under way; `stale` says that an invalidation in progress has dropped the
translation of that fill (R251 step 4, R265). -/
structure Chunk where
  idx : Nat
  va : Nat
  filled : Bool
  fill : Option FKey
  written : List Nat
  leaf : Option Leaf
  stale : Bool
  deriving DecidableEq, Repr

/-- A team of a running or saved launch (R117, R119). -/
structure Team where
  launch : Nat
  idx : Nat
  core : Nat
  ended : Bool
  k : List Word
  tvec : Word
  guards : List Slot
  belays : List Belay
  /-- Tensor descriptors td0-td63 (R334): the 64 bytes, and the home map of a loaded one. -/
  tds : List (Option (List Byte))
  /-- Expression entries x0-x7 (R213). -/
  exprs : List (Option Word)
  /-- Pattern tables pt0-pt7 (R296). -/
  patterns : List (Option (List Byte))
  spad : Memory
  /-- Poisoned 8-byte words of the scratchpad, by number (R281, R423). -/
  bad : List Nat
  chunks : List Chunk
  deriving DecidableEq, Repr

/-! ### Launches -/

/-- Where a launch stands (R113, R116, R122, R128). -/
inductive Phase where
  /-- A copied descriptor at its queue, not checked. -/
  | queued
  /-- Waits for a verdict on a page of its image, descriptor or counter, with the status that a denial completes it with, and whether
  it has been checked (R70, R112). -/
  | faultWait (va status : Nat) (checked : Bool)
  /-- Checked; waits for its WAIT counter, its worklist, and room (R113). -/
  | checked
  | running
  /-- Stops issue and saves (R123). -/
  | saving
  | saved
  /-- Its fibres have ended, or none started: it completes (R128). -/
  | complete
  /-- Completing: the record written or not, and the latest GWCT of what it has written (R128 steps 3 to 5). -/
  | closing (record : Bool) (due : Time)
  deriving DecidableEq, Repr

/-- A lost rope (R126, R127): when, in which step, and whether it has been restarted in that step. -/
structure LostRope where
  rope : Nat
  at_ : Time
  step : Nat
  forced : Bool
  restarted : Bool
  counted : Bool
  deriving DecidableEq, Repr

/-- An entry of a completion record (R129). -/
structure RecEntry where
  typ : Nat
  cause : Nat
  fid : Nat
  team : Nat
  value : Word
  deriving DecidableEq, Repr

/-- Which queue a launch came from (R108, R111). -/
inductive QueueId where
  | host (q : Nat)
  | device (p : Nat)
  deriving DecidableEq, Repr

/-- A launch (R115): its descriptor, the image as checked (R70), and what it is doing. -/
structure Launch where
  id : Nat
  fn : Nat
  queue : QueueId
  prio : Nat
  desc : List Byte
  phase : Phase
  text : Nat
  textSize : Nat
  safeAt : Nat
  safeCount : Nat
  liveAt : Nat
  stepn : Nat
  start : Time
  order : Nat
  dies : List Nat
  status : Nat
  entries : List RecEntry
  ropesLost : Nat
  lost : List LostRope
  /-- .spadinit as read with the image (R70, R119). -/
  spadinit : List Byte
  /-- A head that was passed over because it did not fit, by the order in which that happened (R113). -/
  passed : Option Nat
  /-- The moves of a die change at STEP that is in progress (R121, R130). -/
  moving : List TeamPlace
  deriving DecidableEq, Repr

/-- A host queue (R108, R109): QBASE, QCFG, QHEAD and QTAIL, the page its slot read waits for (R110), and the function in
whose BAR0 its block appears. -/
structure HostQueue where
  base : Word
  cfg : Word
  head : Nat
  tail : Nat
  wait : Option Nat
  shown : Nat
  deriving DecidableEq, Repr

/-! ### Functions and the fault service -/

/-- An open fault request (R248, R250). -/
structure FaultReq where
  id : Nat
  page : Nat
  cls : Nat
  access : Nat
  launch : Nat
  at_ : Time
  posted : Bool
  deriving DecidableEq, Repr

/-- An invalidation (R251): first page and number of pages, 0 meaning the whole space; once it has started, the number
below which accesses began before it, and the frames whose translations it dropped (R254). -/
structure Inval where
  page : Nat
  count : Nat
  mark : Option Nat
  frames : List Place
  deriving DecidableEq, Repr

/-- A PCI Express function's translation block (R249), its fault requests, denials and invalidations. -/
structure Fn where
  troot : Word
  fqbase : Word
  fqcfg : Word
  fqtail : Nat
  fqhead : Nat
  tinvva : Word
  tinvdone : Nat
  faults : List FaultReq
  denials : List Nat
  invals : List Inval
  /-- Multicast windows (R410): virtual base and size, group index. -/
  mcwin : List (Word × Word)
  deriving DecidableEq, Repr

/-! ### Engine commands -/

/-- Where an engine command stands (R19, R30, R31). A settled command is no longer listed. -/
inductive CmdState where
  /-- Presented: waits for a queue entry, behind earlier commands of its team, or for calendar room. -/
  | presented
  /-- Held under an undecided guard. -/
  | held
  /-- Its guard has resolved in its favour; waits for the calendar. -/
  | admitting
  | accepted
  /-- Its work is done: its reads and writes have been carried out. -/
  | done
  deriving DecidableEq, Repr

/-- An operand of an engine command: a global range, a range of a team's scratchpad, or exported frames at every member
of a multicast group (R220, R410). -/
inductive Spot where
  | none
  | global (va : Nat)
  | spad (team off : Nat)
  | cast (group frame off : Nat)
  deriving DecidableEq, Repr

/-- What a GATH word captures at its presentation (R314): the table and allow-bitmap descriptors with the home map, the
index list, the bag offsets and the HAMD query. -/
structure GatherAsk where
  desc : List Byte
  adesc : List Byte
  list : List Nat
  offs : List Nat
  query : List Byte
  deriving DecidableEq, Repr

/-- A part of an operand of a copy command: the number of its first byte among the command's data, its offset from the
operand's address, its length. -/
structure CopyPart where
  idx : Nat
  off : Nat
  n : Nat
  deriving DecidableEq, Repr

/-- An engine command (R19 to R33): engine code of R25 and unit, the issuing fibre, its ticket, form and operands as
read at presentation, ordering flags, guard, acquire wait and promise. `leaves` holds its translations by page (R272),
`src` and `dst` its ranges, `buf` the bytes of its remote reads and of its map command by address, `due` the latest GWCT of its writes,
`grants` the granules of peers' inbound calendars with the bytes granted in each (R411). -/
structure Cmd where
  uid : Nat
  engine : Nat
  unit : Nat
  issuer : FKey
  core : Nat
  fn : Nat
  ticket : Word
  form : Nat
  regs : List Word
  scope : Nat
  ord : Nat
  guard : Option (Nat × Bool)
  /-- The fibre whose GSET or GCLR waits for the admission (R31). -/
  resolver : Option FKey
  state : CmdState
  /-- The stamp of its arrival at the engine (R19), 0 before; from its acceptance on, the stamp of that. -/
  arrival : Nat
  acqWait : Time
  tEnd : Time
  pct : Time
  src : Spot
  dst : Spot
  leaves : List (Nat × Leaf)
  far : Bool
  asked : Bool
  missed : Bool
  due : Time
  buf : List (Nat × Byte)
  /-- The device queue in which an accepted LAUNCH has its entry (R131). -/
  dq : Nat
  gather : Option GatherAsk
  grants : List (Nat × List (Nat × Nat))
  /-- Of a gather command: the peers that have departed or rejoined since its acceptance (R323, R332). -/
  stale : List Nat
  /-- Addresses among `buf` that came poisoned (R281). -/
  bad : List Nat
  /-- Of a copy command: the parts it has not read, the bytes it has read by their number with those that are poisoned, the
  parts it has not written (R273, R274). -/
  todo : List CopyPart
  got : List (Nat × Byte)
  gotBad : List Nat
  out : List CopyPart
  /-- Whether a CPYFP has begun its probe phase, and the writes that it has still to make, in their order (R274, R279, R280). -/
  probing : Bool
  plan : Option (List (Nat × List Byte))
  deriving DecidableEq, Repr

/-- A bandwidth calendar (R19): engine code and unit, and the cost placed in each granule, by granule number. -/
structure Calendar where
  engine : Nat
  unit : Nat
  /-- The resource within the unit: for gather a die, or 4 for the fabric (R315). -/
  res : Nat
  used : List (Nat × Nat)
  deriving DecidableEq, Repr

/-! ### The matrix engine -/

/-- An accumulator element that is not all zero (R340): V, P and the NaN mark. -/
structure AccElem where
  v : W32
  p : Word
  mark : Bool
  deriving DecidableEq, Repr

/-- Accumulator banks held by a team (R341), or being returned while queue entries still use them (R342). -/
structure BankHold where
  core : Nat
  launch : Nat
  team : Nat
  banks : List Nat
  freed : Bool
  deriving DecidableEq, Repr

/-- A waiting ABALLOC (R341). -/
structure AbReq where
  core : Nat
  fibre : FKey
  n : Nat
  d : Nat
  deriving DecidableEq, Repr

/-- What an entry of a matrix queue does (R344): an MMA with its A rows by participating member, row scales, form, slice,
and the bytes of its B slice and block scale, each once it has been read (R345); ACCZ; ACCLD with its data; DRAIN. -/
inductive MatOp where
  | mma (fn : Nat) (rows : List (Nat × List Word)) (sa : List (Nat × W32)) (k0 n0 : Nat) (got : List (Option Byte))
  | accz
  | accld (data : Option (List Byte))
  | drain (fibre : FKey) (d : Nat) (maxAddr : Word) (m0 n0 : Nat) (z : Bool) (leaves : List (Nat × Leaf))
  deriving DecidableEq, Repr

/-- An entry of a core's matrix queue (R344): the banks its team held, the first team slot and width of its tile. -/
structure MatEntry where
  uid : Nat
  core : Nat
  launch : Nat
  team : Nat
  banks : List Nat
  slot : Nat
  width : Nat
  desc : List Byte
  op : MatOp
  deriving DecidableEq, Repr

/-! ### Agents' moves, batches and what the device tells the outside -/

/-- A request to the controller (R418). -/
inductive Request where
  | getstat
  | quiesce
  | resume
  | retire (core : Nat)
  | porten (port : Nat)
  | keyset (slot : Nat) (key : KeyLoad)
  | keyerase (slot : Nat)
  | attest (nonce : List Byte)
  | fwload (version digest : Nat) (verifies : Bool)
  | counters
  deriving DecidableEq, Repr

/-- What moves next: an event of the opcode table (an engine, the memory pipe, the fabric, the host or the physical
world), or the word of the head of one batch. -/
inductive Move where
  | event (i : Instr)
  | issue (core part slot : Nat)
  /-- A request to the controller that has waited behind another one (R418). -/
  | request (r : Request)
  /-- A host's read of a register in BAR0 of a function (R6, R416). -/
  | read (fn off : Nat)
  /-- The controller goes on with what it has begun: a KEYERASE (R428), error records whose writes stand (R420). -/
  | tend
  deriving DecidableEq, Repr

/-- A line of an i-cache (R71): core, launch, the number of the 128 B line, and the word offsets into .text that its fill
marked as safe points. -/
structure CodeLine where
  core : Nat
  launch : Nat
  line : Nat
  marks : List Nat
  deriving DecidableEq, Repr

/-- A batch in an issue slot (R138). Its members execute each word in turn, the first one next. `finished` holds those that the last
word of the run has not kept waiting: while that word holds the slot for others, their run is not over (R263). -/
structure Batch where
  core : Nat
  part : Nat
  slot : Nat
  members : List FKey
  finished : List FKey
  deriving DecidableEq, Repr

/-- What a request of this package to a peer or to host memory is for. -/
inductive RemoteWhy where
  /-- A fill of a miss-status entry, a write on its way, an atomic on its way. -/
  | fill (entry : Nat)
  | write (wr : Nat)
  | atomic (atom : Nat)
  /-- A read of an engine command, into its buffer at an offset; a write of one. -/
  | cmdRead (cmd off : Nat)
  | cmdWrite (cmd : Nat)
  /-- A walk of a peer's export table (R402). -/
  | walk (frame : Nat)
  /-- A piece of a contribution of SCATTER or SCADD (R319). -/
  | contrib (uid : Nat)
  /-- A line for the launch engine or an instruction fetch. -/
  | far (line : Place)
  /-- A write of a launch that completes (R128). -/
  | launch (id : Nat)
  /-- Nothing waits for its answer. -/
  | none
  deriving DecidableEq, Repr

/-- A request of this package that has no answer yet (R413): to a peer or to host memory. -/
structure RemoteOp where
  uid : Nat
  peer : Nat
  host : Bool
  ask : RemoteAsk
  why : RemoteWhy
  born : Time
  deriving DecidableEq, Repr

/-- What the device tells the host or a peer. -/
inductive Out where
  | msix (fn vector : Nat)
  /-- A host's read of BAR2: its bytes, and which of them are poisoned (R416, R423). -/
  | bar2 (data : List Byte) (bad : List Nat)
  | bar0 (fn off : Nat) (value : Word)
  /-- Bytes to exported frames at every member of a multicast group, on egress ports of the switch die (R409, R410), and which of them
  are poisoned. -/
  | cast (group : Nat) (ports : List Nat) (frame off : Nat) (bytes : List Byte) (bad : List Nat)
  | mctp (code status : Nat) (body : List Nat)
  /-- A flit sent on a port (R404): its header fields and payload. -/
  | flit (port seq ack typ credit : Nat) (payload : List Byte)
  | request (id peer : Nat) (host : Bool) (ask : RemoteAsk)
  /-- The answer to a peer's request, with the offsets of the bytes that are poisoned (R423). -/
  | reply (peer tag : Nat) (bytes : List Byte) (gwct lease cls : Nat) (bad : List Nat)
  /-- A grant of inbound gather granules, a recall of a translation lease, a confirmation (R253, R411). -/
  | grant (peer : Nat) (granules : List (Nat × Nat))
  | grantAsk (peer bytes : Nat)
  | recall (peer frame : Nat)
  | confirm (peer frame : Nat)
  /-- An ATS invalidation has completed (R416). -/
  | atsDone (iova bytes : Nat)
  /-- An error reported to the host through AER: an uncorrectable device error, or poison forwarded to it (R416, R423). -/
  | aer
  deriving DecidableEq, Repr

/-! ### The parts of the module -/

/-- Memory and the memory pipe (03, 07). -/
structure MemState where
  /-- HBM contents by local physical address (R245). -/
  mem : Memory
  /-- Block metadata by block number, unlisted 0 (R238). -/
  blockMeta : List (Nat × Nat)
  /-- Poisoned 32 B sectors, by sector number (R423). -/
  poison : List Nat
  /-- Key slot under which a sector's bytes were written, unlisted the device key 0 (R428). -/
  keys : List (Nat × Nat)
  pend : List Pending
  horizons : List Horizon
  l1 : List L1Line
  l2 : List L2Line
  /-- Write-back horizons by core and by die, unlisted 0 (R81). -/
  wbL1 : List (Nat × Time)
  wbL2 : List (Nat × Time)
  /-- The largest GWCT of the write-backs of fences, acquires and CLWB, by core and by die, unlisted 0 (log 14). -/
  fenceL1 : List (Nat × Time)
  fenceL2 : List (Nat × Time)
  mshrs : List Mshr
  loads : List LoadReq
  results : List Result
  outs : List OutWrite
  atoms : List AtomReq
  spads : List SpadReq
  /-- GWCTs of writes that rope-mates have made in a team's scratchpad, not passed (R223, R259). -/
  spadPend : List SpadWrite
  held : List HeldOp
  /-- The last stamp of the sequencer of replicated pages (R99). -/
  stamp : Nat
  deriving DecidableEq, Repr

/-- Translation: cached entries, the functions' blocks, the fault service (07). -/
structure XlatState where
  tlb : List TlbEnt
  fns : List Fn
  faultId : Nat
  /-- Translations of peer pages held here, and leases on exported frames granted to peers (R253). -/
  peers : List PeerXlat
  leases : List PeerLease
  deriving DecidableEq, Repr

/-- The launch engine's queues (R108 to R114). A device-queue entry is the descriptor with its function and its
issuer's priority; the launch identifier of a head taken for checking is in `launches`. -/
structure QueueState where
  host : List HostQueue
  device : List (List (Nat × Nat × List Byte))
  nextLaunch : Nat
  /-- The queue last started from, by priority, numbered 0-71 (R113). -/
  lastQueue : List (Nat × Nat)
  stopped : Bool
  /-- Saved launches wait for a QCFG write after the host link was lost (R417). -/
  held : Bool
  deriving DecidableEq, Repr

/-- The matrix engines (11). Accumulator elements are numbered ((core * 16 + bank) * 16 + slot) * 256 + row * 16 + column
within the slot; an unlisted one is all zero. -/
structure MatState where
  acc : List (Nat × AccElem)
  holds : List BankHold
  abFifo : List AbReq
  queue : List MatEntry
  deriving DecidableEq, Repr

/-- A fabric port (R400, R404, R405): PORTSTAT, the link layer's sequence numbers and retry buffer, the times of recent
replays, and when it last sent anything and a time-sync flit. -/
structure Port where
  state : Nat
  lanes : Nat
  failed : Nat
  retrains : Nat
  replays : Nat
  rxSeq : Nat
  txSeq : Nat
  acked : Nat
  credit : Nat
  retry : List (Nat × Nat × List Byte)
  replayAt : List Time
  retrainAt : Time
  lastSent : Time
  lastSync : Time
  /-- The payload of the last flit of packet data, of time sync or of control accepted. -/
  rx : List Byte
  deriving DecidableEq, Repr

/-- A flow from a switch die to a package (R407): its port and when it last carried a packet. -/
structure Flow where
  sw : Nat
  peer : Nat
  port : Nat
  last : Time
  deriving DecidableEq, Repr

/-- What is known of another package (R412, R413): its current incarnation, and when it departed. -/
structure PeerInfo where
  id : Nat
  inc : Nat
  departed : Option Time
  deriving DecidableEq, Repr

/-- The fabric side and the host link (13). -/
structure FabState where
  /-- FABID (R400). -/
  id : Nat
  inc : Nat
  joined : Bool
  /-- FABCFG, EXPBASE, MCIDX (R400, R402, R409). -/
  cfg : Word
  expbase : Word
  mcidx : Word
  /-- Group tables (R409): entries by 65,536 × switch die + group, unlisted 0. -/
  groups : List (Nat × Word)
  ports : List Port
  flows : List Flow
  peers : List PeerInfo
  /-- Requests without an answer, and lines read over the fabric or the host link for the launch engine and for
  instruction fetches (log 17). -/
  remote : List RemoteOp
  far : List (Place × List Byte)
  /-- The lines among `far` that came poisoned (R423). -/
  farBad : List Place
  /-- Die-to-die links that have failed (R408), each by its two dies. -/
  cutLinks : List (Nat × Nat)
  /-- The inbound gather calendar (R411): bytes granted by granule; and the requests that wait for room in it, peer and bytes, in their
  order of arrival. -/
  inbound : List (Nat × Nat)
  inboundWaits : List (Nat × Nat)
  /-- Whether FTIME is ahead of fabric time and is being slowed, and by how much (R17). -/
  ahead : Nat
  /-- Whether the host link is up (R417), and the ATS invalidations, by I/O virtual address and bytes, not yet complete
  (R416). -/
  hostUp : Bool
  ats : List (Nat × Nat)
  deriving DecidableEq, Repr

/-- Errors counted towards a threshold (R422, R424): of what and where, and their times within 2^32 ticks. -/
structure ErrCount where
  struct : Nat
  place : Nat
  times : List Time
  deriving DecidableEq, Repr

/-- The fatal-error dump (R426): the time, the record that caused it, whether every section is written, and which of the
six are partial. -/
structure Dump where
  at_ : Time
  cause : List Byte
  written : Bool
  partial_ : List Nat
  deriving DecidableEq, Repr

/-- Management (14). -/
structure MgmtState where
  /-- Loaded key slots other than slot 0, each with its 512-bit key (R428). -/
  keySlots : List (Nat × Nat)
  /-- The slot that a KEYERASE without an answer erases, and the number of its key. -/
  erasing : Option (Nat × Nat)
  /-- Ranges whose contents the spec leaves undefined: each is kept under a number that no key has (log 6). -/
  deadKeys : Nat
  /-- MSTAT.FATAL, READY, QUIESCED (R425). -/
  fatal : Bool
  ready : Bool
  quiesced : Bool
  /-- MSTAT.REASON, its bits numbered from 0 for [16] (R425). -/
  reason : Nat
  /-- The error-record ring (R420). -/
  errbase : Word
  errcfg : Word
  errtail : Nat
  errhead : Nat
  errlost : Nat
  /-- The GWCTs of the records written that TAIL does not count yet (R420). -/
  errDue : List Time
  /-- Soft-error counts by structure and die (R422): saturating, 64 × structure + die. -/
  soft : List (Nat × Nat)
  /-- Counts towards thresholds, of cores' structures (R422) and of HBM rows (R424). -/
  softCore : List ErrCount
  rowErr : List ErrCount
  /-- Cores marked for retirement, cores the dies run without, spare cores left by die (R8, R424). -/
  marked : List Nat
  absent : List Nat
  spares : List Nat
  /-- HBM rows being copied, rows remapped, by stack and row (R424). -/
  rowCopies : List (Nat × Nat)
  rowsMapped : List (Nat × Nat)
  /-- The clock of cores and matrix engines in MHz (R429). -/
  clock : Nat
  /-- The active and the staged firmware: version and digest (R427). Kept across a module reset. -/
  firmware : Nat × Nat
  staged : Option (Nat × Nat)
  /-- One-time attestation signatures left (R427). -/
  signatures : Nat
  /-- A QUIESCE not yet answered, and the requests that wait behind it (R418, R419). -/
  quiescing : Bool
  waiting : List Request
  dump : Option Dump
  deriving DecidableEq, Repr

/-- Where an accepted task is (R372), with the core of its slice or chunk. -/
inductive TaskAt where
  | queued (core : Nat)
  | spilled (core : Nat)
  /-- To a core's slice. -/
  | transit (core : Nat)
  /-- After an abort for a page (R384). -/
  | parked (core fn page : Nat)
  | running (fibre : FKey)
  deriving DecidableEq, Repr

/-- A task (R371, R372) with its visibility time VT (R379). -/
structure Task where
  uid : Nat
  prio : W32
  entry : W32
  payload : Word
  vt : Time
  at_ : TaskAt
  deriving DecidableEq, Repr

/-- A worklist push presented and not yet accepted (R374, R378), or accepted and not yet announced. -/
structure Push where
  uid : Nat
  wl : Nat
  issuer : FKey
  core : Nat
  prio : W32
  entry : W32
  payload : Word
  vt : Time
  inversion : Bool
  accepted : Bool
  acceptedAt : Time
  /-- WPUSHS's ticket (R392). -/
  ticket : Option Word
  /-- Its promise has been missed (R22). -/
  missed : Bool
  deriving DecidableEq, Repr

/-- A worklist (R367 to R369): its binding launch, Δ with the older ones not yet replaced everywhere (R376, R395), the
shift, handler offsets and spill area, its tasks and counts, what the last sweep saw and when it was (R387), the window
bases of the slices (`base` for cores not listed), the horizon last broadcast, and the cores with an idle request. -/
structure Worklist where
  bound : Option Nat
  terminated : Bool
  delta : Nat
  oldDeltas : List Nat
  shift : Nat
  handlers : List Nat
  spill : Nat
  spillSize : Nat
  tasks : List Task
  accepted : Nat
  completed : Nat
  lost : Nat
  terminations : Nat
  sweep : Option (Nat × Nat)
  sweptAt : Time
  base : Nat
  windows : List (Nat × Nat)
  horizon : Option Nat
  idle : List Nat
  deriving DecidableEq, Repr

/-- An unbound worklist. -/
def Worklist.initial : Worklist :=
  { bound := none, terminated := false, delta := 0, oldDeltas := [], shift := 0, handlers := [], spill := 0, spillSize := 0,
    tasks := [], accepted := 0, completed := 0, lost := 0, terminations := 0, sweep := none, sweptAt := 0, base := 0,
    windows := [], horizon := none, idle := [] }

/-- Cairn (12). -/
structure CairnState where
  wls : List Worklist
  pushes : List Push
  deriving DecidableEq, Repr

/-! ### The gather path (10) -/

/-- A row of a part (R317, R319): its number, the positions it serves, its translated pieces, or none where its page
fails, and its bytes once read. -/
structure GRow where
  row : Nat
  poss : List Nat
  pieces : Option (List Piece)
  data : Option (List Byte)
  /-- The liveness word (R329): its piece, or none where its page fails; unused with LIVE = 0. -/
  live : Option Piece
  /-- The row's liveness once its word has been read, before the row (R330); none where it cannot be read. -/
  alive : Option Bool
  deriving DecidableEq, Repr

/-- A part of a gather command for one home (R319): index in the home map, its die, its package if another. -/
structure GPart where
  home : Nat
  die : Nat
  peer : Option Nat
  rows : List GRow
  /-- 0 split, 1 its liveness words are asked for, 2 its rows are, 3 served. -/
  stage : Nat
  /-- The pooled values of the home's MSE by bag (R320, R321). -/
  pooled : List (Nat × List Byte)
  deriving DecidableEq, Repr

/-- A gather command being served (R317 to R323): its parts, the positions that failed, those HAMD refused, and the
distances of HAMD by position. -/
structure GJob where
  cmd : Nat
  parts : List GPart
  failed : List Nat
  refused : List Nat
  dist : List (Nat × Nat)
  rerr : Bool
  deriving DecidableEq, Repr

/-- A contribution of SCATTER or SCADD on its way to its home (R325 to R327): the command and its positions, the issuing
core, the home die, the sequence number, the row's pieces and bytes; `lost` is the marker of a lost one. -/
structure Contrib where
  uid : Nat
  cmd : Nat
  poss : List Nat
  core : Nat
  die : Nat
  seq : Nat
  peer : Option Nat
  pieces : List Piece
  bytes : List Byte
  add : Bool
  lost : Bool
  deriving DecidableEq, Repr

/-- The gather engine: commands in service, contributions, and the sequence numbers of cores and home dies, next given
and next applied, by 4 × (8,192 × core + package + 1, or 0 for this one) + die (R327). -/
structure GatherState where
  jobs : List GJob
  contribs : List Contrib
  given : List (Nat × Nat)
  applied : List (Nat × Nat)
  /-- Contributions of other packages that wait for the gap before them (R327, R332). -/
  waiting : List RemoteReq
  deriving DecidableEq, Repr

/-! ### The whole module -/

/-- The state of a VG8 module. -/
structure State where
  /-- Fabric time (R15). -/
  ftime : Time
  /-- The model's own: index of the next free value. -/
  fresh : Nat
  /-- The model's own: the next number of an access, command, entry or message. -/
  uid : Nat
  /-- The model's own: which agent moves next. -/
  agenda : List Move
  /-- The model's own: what the device has told the outside. -/
  outbox : List Out
  fibres : List Fibre
  teams : List Team
  launches : List Launch
  batches : List Batch
  /-- The lines that the i-caches hold (R71). -/
  icache : List CodeLine
  /-- Commands of the copy, gather and launch engines and their calendars. -/
  cmds : List Cmd
  calendars : List Calendar
  m : MemState
  x : XlatState
  q : QueueState
  mat : MatState
  gat : GatherState
  cairn : CairnState
  fab : FabState
  mg : MgmtState
  deriving DecidableEq, Repr

/-! ### Reset -/

/-- A function's translation block at module reset (R249). -/
def Fn.initial : Fn := ⟨0, 0, 0, 0, 0, 0, 0, [], [], [], []⟩

/-- A host queue at module reset (R108, R109). -/
def HostQueue.initial : HostQueue := ⟨0, 0, 0, 0, none, 0⟩

/-- Cairn at module reset. -/
def CairnState.reset : CairnState := ⟨List.replicate 8 Worklist.initial, []⟩

/-- A fabric port at module reset (R400). -/
def Port.initial : Port := ⟨0, 0, 0, 0, 0, 0, 0, 0, 0, [], [], 0, 0, 0, []⟩

/-- The fabric side at module reset (R400, R402, R407, R409): MEMBERS is 1 and the flowlet gap 1,250; the host link is
down until bring-up (R429). -/
def FabState.reset : FabState :=
  { id := 0, inc := 0, joined := false, cfg := 0x10000, expbase := 0, mcidx := 0, groups := [],
    ports := List.replicate 48 Port.initial, flows := [], peers := [], remote := [], far := [], farBad := [], cutLinks := [], inbound := [], inboundWaits := [],
    ahead := 0, hostUp := false, ats := [] }

/-- Management at module reset (R420, R425, R428), before bring-up: no spare is assigned, the clock is the nominal one. -/
def MgmtState.reset : MgmtState :=
  { keySlots := [], erasing := none, deadKeys := 0, fatal := false, ready := false, quiesced := false, reason := 0,
    errbase := 0, errcfg := 0, errtail := 0, errhead := 0, errlost := 0, errDue := [], soft := [], softCore := [], rowErr := [],
    marked := [], absent := [], spares := [2, 2, 2, 2], rowCopies := [], rowsMapped := [], clock := 2500,
    firmware := (0, 0), staged := none, signatures := 32768, quiescing := false, waiting := [], dump := none }

/-- Memory right after module reset: nothing listed anywhere. -/
def MemState.reset : MemState :=
  { mem := [], blockMeta := [], poison := [], keys := [], pend := [], horizons := [], l1 := [], l2 := [], wbL1 := [],
    wbL2 := [], fenceL1 := [], fenceL2 := [], mshrs := [], loads := [], results := [], outs := [], atoms := [], spads := [],
    spadPend := [], held := [], stamp := 0 }

/-- The module right after module reset. -/
def State.reset : State :=
  { ftime := 0, fresh := 0, uid := 1, agenda := [], outbox := [], fibres := [], teams := [], launches := [],
    batches := [], icache := [], cmds := [], calendars := [], m := MemState.reset,
    x := ⟨[], List.replicate 64 Fn.initial, 1, [], []⟩,
    q := ⟨List.replicate 64 HostQueue.initial, List.replicate 8 [], 1, [], false, false⟩, mat := ⟨[], [], [], []⟩,
    gat := ⟨[], [], [], [], []⟩, cairn := CairnState.reset, fab := FabState.reset, mg := MgmtState.reset }

end Sys2Proof.Machine
end

