-- ==== Sys2Proof/Machine/Base.lean ====
section
/-! DEFINITION. Access to the parts of State by key: fibres, teams, launches, list and bit helpers. -/

namespace Sys2Proof.Machine

/-! ### Numbers, bytes and lists -/

/-- The low `n` bytes of a number, little-endian. -/
def bytesLE : Nat → Nat → List Byte
  | 0, _ => []
  | n + 1, v => BitVec.ofNat 8 v :: bytesLE n (v / 256)

/-- The number whose little-endian bytes these are. -/
def natLE : List Byte → Nat
  | [] => 0
  | b :: r => b.toNat + 256 * natLE r

/-- Sign extension of the low `n` bits of a number to 64 bits (R162). -/
def sextNat (n v : Nat) : Word :=
  let x := v % 2 ^ n
  if x < 2 ^ (n - 1) then BitVec.ofNat 64 x else BitVec.ofNat 64 (2 ^ 64 + x - 2 ^ n)

/-- Zero extension of the low `n` bits of a number to 64 bits (R162). -/
def zextNat (n v : Nat) : Word := BitVec.ofNat 64 (v % 2 ^ n)

/-- The bits [hi:lo] of a register value. -/
def bitsOf (w : Word) (hi lo : Nat) : Nat := w.toNat / 2 ^ lo % 2 ^ (hi + 1 - lo)

/-- Bit `n` of a register value. -/
def bitOf (w : Word) (n : Nat) : Bool := w.toNat / 2 ^ n % 2 == 1

/-- The numbers from `a`, `n` of them. -/
def upFrom (a : Nat) : Nat → List Nat
  | 0 => []
  | n + 1 => a :: upFrom (a + 1) n

/-- Element `i` of a list, or `d` past its end. -/
def nth {α : Type} (d : α) : List α → Nat → α
  | [], _ => d
  | x :: _, 0 => x
  | _ :: r, i + 1 => nth d r i

/-- The list with element `i` replaced; one that is too short is filled up with `d`. -/
def setNth {α : Type} (d : α) : List α → Nat → α → List α
  | [], 0, v => [v]
  | [], i + 1, v => d :: setNth d [] i v
  | _ :: r, 0, v => v :: r
  | x :: r, i + 1, v => x :: setNth d r i v

/-- The value a sparse list of numbered values gives `k`, or `d`. -/
def lookupD {α : Type} (d : α) : List (Nat × α) → Nat → α
  | [], _ => d
  | (i, v) :: r, k => if i = k then v else lookupD d r k

/-- The sparse list with the value of `k` replaced. -/
def putNat {α : Type} (l : List (Nat × α)) (k : Nat) (v : α) : List (Nat × α) := (k, v) :: l.filter (fun p => p.1 != k)

/-- The members of `l`, each once, the first occurrence kept. -/
def dedup {α : Type} [DecidableEq α] : List α → List α
  | [] => []
  | x :: r => x :: (dedup r).filter (fun y => decide (y ≠ x))

/-- The largest of a list of numbers, or 0. -/
def maxList (l : List Nat) : Nat := l.foldl Nat.max 0

/-! ### Geography (R7, R8, R245) -/

/-- The shader die of a logical core. -/
def dieOfCore (c : Nat) : Nat := c / Config.coresPerDie

/-- The cluster of a logical core, numbered over the package. -/
def clusterOfCore (c : Nat) : Nat := c / 8

/-- The stack of a local physical address (R245). -/
def stackOf (pa : Nat) : Nat := pa / 2 ^ 36 % 16

/-- The home die of a local physical address (R245). -/
def homeDie (pa : Nat) : Nat := stackOf pa / 3

/-- The physical address of a replicated address on a die (R245). -/
def replicaPa (pa die : Nat) : Nat := pa + 3 * die * 2 ^ 36

/-! ### Fibres, teams and launches -/

/-- The fibre of a key. -/
def State.fibre? (s : State) (k : FKey) : Option Fibre := s.fibres.find? (fun f => decide (f.key = k))

/-- The state with a fibre replaced by its key. -/
def State.setFibre (s : State) (f : Fibre) : State :=
  { s with fibres := s.fibres.map fun x => if x.key = f.key then f else x }

/-- The state with the fibre of a key changed by `g`. -/
def State.onFibre (s : State) (k : FKey) (g : Fibre → Fibre) : State :=
  { s with fibres := s.fibres.map fun x => if x.key = k then g x else x }

/-- The team of a launch by its index. -/
def State.team? (s : State) (launch idx : Nat) : Option Team :=
  s.teams.find? fun t => t.launch == launch && t.idx == idx

/-- The state with the team of an index changed by `g`. -/
def State.onTeam (s : State) (launch idx : Nat) (g : Team → Team) : State :=
  { s with teams := s.teams.map fun t => if t.launch == launch && t.idx == idx then g t else t }

/-- The launch of an identifier. -/
def State.launch? (s : State) (id : Nat) : Option Launch := s.launches.find? fun l => l.id == id

/-- The state with a launch changed by `g`. -/
def State.onLaunch (s : State) (id : Nat) (g : Launch → Launch) : State :=
  { s with launches := s.launches.map fun l => if l.id == id then g l else l }

/-- A state with the memory pipe changed. -/
def State.onMem (s : State) (g : MemState → MemState) : State := { s with m := g s.m }

/-- The state with its next number taken. -/
def State.takeUid (s : State) : State := { s with uid := s.uid + 1 }

/-- The state with its next free value taken. -/
def State.takeFresh (s : State) : State := { s with fresh := s.fresh + 1 }

/-- The descriptor field of `n` bytes at an offset (R115). -/
def Launch.field (l : Launch) (off n : Nat) : Nat := natLE ((l.desc.drop off).take n)

/-- Teams per rope (R115). -/
def Launch.rope (l : Launch) : Nat := l.field 44 1

/-- Fibres of a role per team (R115). -/
def Launch.fibresOf (l : Launch) (r : Nat) : Nat := l.field (24 + 2 * r) 2

/-- Fibres in a team (R117). -/
def Launch.nfib (l : Launch) : Nat := l.fibresOf 0 + l.fibresOf 1 + l.fibresOf 2 + l.fibresOf 3

/-- The first FID of a role (R117). -/
def Launch.firstFid (l : Launch) (r : Nat) : Nat := (upFrom 0 r).foldl (fun n i => n + l.fibresOf i) 0

/-- The role of a FID (R117). -/
def Launch.roleOf (l : Launch) (fid : Nat) : Nat :=
  if fid < l.firstFid 1 then 0 else if fid < l.firstFid 2 then 1 else if fid < l.firstFid 3 then 2 else 3

/-- Scratchpad bytes of a team (R115). -/
def Launch.spadBytes (l : Launch) : Nat := 4096 * l.field 36 2

/-- The launch of a fibre. -/
def State.launchOf (s : State) (f : Fibre) : Option Launch := s.launch? f.key.launch

/-- The team of a fibre. -/
def State.teamOf (s : State) (f : Fibre) : Option Team := s.team? f.key.launch f.key.team

/-- The function whose address space a fibre uses (R219). -/
def State.fnOf (s : State) (f : Fibre) : Nat := (s.launchOf f).elim 0 (·.fn)

/-- Team register k[i] of a fibre's team (R50). -/
def State.kreg (s : State) (f : Fibre) (i : Nat) : Word := (s.teamOf f).elim 0 fun t => nth 0 t.k i

/-- A function's block. -/
def State.fn (s : State) (n : Nat) : Fn := nth Fn.initial s.x.fns n

/-- The state with a function's block changed. -/
def State.onFn (s : State) (n : Nat) (g : Fn → Fn) : State :=
  { s with x := { s.x with fns := setNth Fn.initial s.x.fns n (g (s.fn n)) } }

/-! ### The current fibre -/

/-- The current fibre: the head member of the first batch. -/
def State.cur (s : State) : Option Fibre :=
  match s.batches with
  | [] => none
  | b :: _ => b.members.head?.bind s.fibre?

/-- A free choice among a list: some of it, one at least, and the rest. -/
def chosen {α : Type} (n : Nat) (l : List α) : List α :=
  let k := n % l.length
  (l.drop k ++ l.take k).take (1 + n / l.length % l.length)

end Sys2Proof.Machine
end

