-- ==== Sys2Proof/Machine/Slices.lean ====
section
/-! DEFINITION. The slices of Cairn with their windows and spill chunks, and where the tasks of a worklist are (R371 to R374,
R384). -/

namespace Sys2Proof.Machine

/-! ### Slices and chunks (R373, R374) -/

/-- The bucket of a task. -/
def Worklist.bucket (w : Worklist) (prio : W32) : Nat := prio.toNat / 2 ^ w.shift

/-- The least of a list of numbers. -/
def minOf : List Nat → Option Nat
  | [] => none
  | x :: r => some ((minOf r).elim x (Nat.min x))

/-- Whether a task has an entry of a core's slice. -/
def Task.inSlice (t : Task) (core : Nat) : Bool :=
  match t.at_ with
  | .queued c => c == core
  | .parked c _ _ => c == core
  | _ => false

/-- Whether a task is in a chunk of a core. -/
def Task.spilledBy (t : Task) (core : Nat) : Bool := decide (t.at_ = .spilled core)

/-- The window base of a core's slice. -/
def Worklist.window (w : Worklist) (core : Nat) : Nat := lookupD w.base w.windows core

/-- Entries used in a core's slice, of 8,192: those of its QUEUED and of its PARKED tasks (R372, R373, R384). -/
def Worklist.sliceUsed (w : Worklist) (core : Nat) : Nat := (w.tasks.filter fun t => t.inSlice core).length

/-- Chunks a core uses: one for each 255 tasks of a bucket, or part of them. -/
def Worklist.chunksOfCore (w : Worklist) (core : Nat) : Nat :=
  let bs := (w.tasks.filter fun t => t.spilledBy core).map fun t => w.bucket t.prio
  (dedup bs).foldl (fun n b => n + ((bs.filter (· == b)).length + 254) / 255) 0

/-- The cores that have spilled tasks. -/
def Worklist.spillCores (w : Worklist) : List Nat :=
  dedup (w.tasks.filterMap fun t => match t.at_ with | .spilled c => some c | _ => none)

/-- Chunks in use in a die's quarter. -/
def Worklist.dieChunks (w : Worklist) (die : Nat) : Nat :=
  (w.spillCores.filter fun c => dieOfCore c == die).foldl (fun n c => n + w.chunksOfCore c) 0

/-- Whether a task of a bucket fits a chunk of a core: one not full of that bucket, or a free one of the quarter. -/
def Worklist.chunkRoom (w : Worklist) (core bucket : Nat) : Bool :=
  ((w.tasks.filter fun t => t.spilledBy core && w.bucket t.prio == bucket).length % 255 != 0) ||
    decide (w.dieChunks (dieOfCore core) < w.spillSize * 4)

/-- A worklist with a task put elsewhere. -/
def Worklist.put (w : Worklist) (uid : Nat) (dest : TaskAt) : Worklist :=
  { w with tasks := w.tasks.map fun t => if t.uid == uid then { t with at_ := dest } else t }

/-- The QUEUED task of a slice with the highest bucket, of those that a test lets through. -/
def Worklist.highest (w : Worklist) (core : Nat) (ok : Task → Bool) : Option Task :=
  (w.tasks.filter fun t => decide (t.at_ = .queued core) && ok t).foldl
    (fun acc t => match acc with
      | none => some t
      | some x => if w.bucket x.prio < w.bucket t.prio then some t else some x) none

/-- Tasks above the window of a slice spilled, the highest first, each for which a chunk has room (R373). -/
def Worklist.spillAbove (w : Worklist) (core : Nat) : Nat → Worklist
  | 0 => w
  | n + 1 =>
    match w.highest core fun t => decide (w.window core + 63 < w.bucket t.prio) && w.chunkRoom core (w.bucket t.prio) with
    | some t => (w.put t.uid (.spilled core)).spillAbove core n
    | none => w

/-- Room for one task in a slice: its highest-bucket task is spilled when it is full; none without a chunk. -/
def Worklist.sliceRoom (w : Worklist) (core : Nat) : Option Worklist :=
  if w.sliceUsed core < 8192 then some w
  else
    match w.highest core fun _ => true with
    | some t => if w.chunkRoom core (w.bucket t.prio) then some (w.put t.uid (.spilled core)) else none
    | none => none

/-- Chunks refilled into a slice, the lowest bucket first, as room allows (R373). -/
def Worklist.refill (w : Worklist) (core : Nat) : Nat → Worklist
  | 0 => w
  | n + 1 =>
    let mine := w.tasks.filter fun t => t.spilledBy core && decide (w.bucket t.prio ≤ w.window core + 63)
    if 8192 ≤ w.sliceUsed core then w
    else
      match minOf (mine.map fun t => w.bucket t.prio) with
      | none => w
      | some b =>
        match mine.find? fun t => w.bucket t.prio == b with
        | some t => (w.put t.uid (.queued core)).refill core n
        | none => w

/-- What stands above the windows of the slices spilled, as far as chunks are free (R373). -/
def Worklist.spillLate (w : Worklist) : Worklist :=
  let cores := dedup (w.tasks.filterMap fun t => match t.at_ with | .queued c => some c | _ => none)
  cores.foldl (fun w c => w.spillAbove c w.tasks.length) w

/-- A task placed by a push at a core (R373): none while acceptance waits. A task above the window without a free chunk takes
an entry of the slice, where there is one (R374; log 49). -/
def Worklist.place (w : Worklist) (core : Nat) (t : Task) : Option Worklist :=
  let b := w.bucket t.prio
  let base := w.window core
  let add := fun (w : Worklist) (dest : TaskAt) => { w with tasks := w.tasks ++ [{ t with at_ := dest }] }
  if b < base then
    let w := { w with windows := putNat w.windows core b }
    ((w.spillAbove core w.tasks.length).sliceRoom core).map fun w => add w (.queued core)
  else if base + 63 < b then
    if w.chunkRoom core b then some (add w (.spilled core))
    else if w.sliceUsed core < 8192 then some (add w (.queued core))
    else none
  else (w.sliceRoom core).map fun w => add w (.queued core)

/-! ### Tasks held by fibres (R372, R384) -/

/-- A worklist's block. -/
def State.wl (s : State) (n : Nat) : Worklist := nth Worklist.initial s.cairn.wls n

/-- The state with a worklist changed. -/
def State.onWl (s : State) (n : Nat) (g : Worklist → Worklist) : State :=
  { s with cairn := { s.cairn with wls := setNth Worklist.initial s.cairn.wls n (g (s.wl n)) } }

/-- The slice in which a task at a place has an entry. -/
def TaskAt.slice : TaskAt → Option Nat
  | .queued core => some core
  | .parked core _ _ => some core
  | _ => none

/-- A task moved. One that goes to a slice takes an entry there, for which a full slice spills (R373); while no chunk is free
either, it is IN TRANSIT to that slice. -/
def Worklist.moveTo (w : Worklist) (uid : Nat) (dest : TaskAt) : Worklist :=
  match dest.slice with
  | some core =>
    match w.sliceRoom core with
    | some w => w.put uid dest
    | none => w.put uid (.transit core)
  | none => w.put uid dest

/-- Tasks in transit to a core held by its slice, as far as it has room (R373, R386). -/
def Worklist.arrive (w : Worklist) (core : Nat) : Worklist :=
  (w.tasks.filter fun t => decide (t.at_ = .transit core)).foldl (fun w t => w.moveTo t.uid (.queued core)) w

/-- Tasks parked on a page of a function QUEUED again in the entries that they have (R384). -/
def Worklist.unpark (w : Worklist) (fn page : Nat) : Worklist :=
  w.tasks.foldl (fun w t => match t.at_ with
    | .parked c f p => if f = fn ∧ p = page then w.put t.uid (.queued c) else w
    | _ => w) w

/-- The state with a task moved. -/
def State.moveTask (s : State) (wl uid : Nat) (dest : TaskAt) : State := s.onWl wl fun w => w.moveTo uid dest

/-- A held task aborted: back in the slice of the core where it ran, or parked on a page (R384 step 3). -/
def State.abortTask (s : State) (f : Fibre) (dest : TaskAt) : State :=
  match f.task with
  | some t => s.moveTask t.wl t.uid dest
  | none => s

end Sys2Proof.Machine
end

