-- ==== Sys2Proof/Machine/Mem.lean ====
section
/-! DEFINITION. Memory: bytes in canonical form, the levels at which writes are performed and loads served (chapter 03),
the L1 and L2 copies, write-backs and the coalescer (chapter 07). -/

namespace Sys2Proof.Machine

/-! ### Bytes -/

/-- The byte at an address; an unlisted address reads 0 (log 1). -/
def memGet : Memory → Nat → Byte
  | [], _ => 0
  | (k, v) :: r, a => if k = a then v else if a < k then 0 else memGet r a

/-- A byte written, in canonical form: a zero byte is removed. -/
def memPut : Memory → Nat → Byte → Memory
  | [], a, b => if b = 0 then [] else [(a, b)]
  | (k, v) :: r, a, b =>
    if a < k then (if b = 0 then (k, v) :: r else (a, b) :: (k, v) :: r)
    else if a = k then (if b = 0 then r else (a, b) :: r)
    else (k, v) :: memPut r a b

/-- Several bytes written, the first first. -/
def memPutAll : Memory → List (Nat × Byte) → Memory
  | m, [] => m
  | m, (a, b) :: r => memPutAll (memPut m a b) r

/-- `n` bytes from an address. -/
def memRead (m : Memory) (a n : Nat) : List Byte := (upFrom a n).map (memGet m)

/-- The bytes with their addresses. -/
def withAddr (a : Nat) : List Byte → List (Nat × Byte)
  | [] => []
  | b :: r => (a, b) :: withAddr (a + 1) r

/-- Bytes written from an address. -/
def memWrite (m : Memory) (a : Nat) (bs : List Byte) : Memory := memPutAll m (withAddr a bs)

/-- The canonical form above a bound: addresses at least `lo` and strictly rising, no zero byte. -/
def Memory.wfFrom : Nat → Memory → Bool
  | _, [] => true
  | lo, (k, v) :: r => decide (lo ≤ k) && v != 0 && Memory.wfFrom (k + 1) r

/-- The canonical form of a memory. -/
def Memory.wf (m : Memory) : Bool := Memory.wfFrom 0 m

/-! ### Places -/

/-- A place moved by `n` bytes. -/
def Place.add : Place → Nat → Place
  | .dram p, n => .dram (p + n)
  | .repl p, n => .repl (p + n)
  | .peer i p, n => .peer i (p + n)
  | .host p, n => .host (p + n)

/-- A place moved back by `n` bytes. -/
def Place.sub : Place → Nat → Place
  | .dram p, n => .dram (p - n)
  | .repl p, n => .repl (p - n)
  | .peer i p, n => .peer i (p - n)
  | .host p, n => .host (p - n)

/-- The offset of a place in its 128 B line. -/
def Place.off : Place → Nat
  | .dram p => p % 128
  | .repl p => p % 128
  | .peer _ p => p % 128
  | .host p => p % 128

/-- The line of a place. -/
def Place.line : Place → Place
  | .dram p => .dram (p - p % 128)
  | .repl p => .repl (p - p % 128)
  | .peer i p => .peer i (p - p % 128)
  | .host p => .host (p - p % 128)

/-- The address within its space. -/
def Place.addr : Place → Nat
  | .dram p => p
  | .repl p => p
  | .peer _ p => p
  | .host p => p

/-- Whether a place lies on another package or in host memory. -/
def Place.away : Place → Bool
  | .peer _ _ => true
  | .host _ => true
  | _ => false

/-- The level that is the home of a line for a die (R75, R98). -/
def homeLevel (p : Place) (die : Nat) : Level :=
  match p with
  | .repl _ => .replica die
  | _ => .home

/-- The shader die whose replicas the engines of the front-end die read, and the one for a switch die (R98, R315): free
values of the implementation (log 60). -/
def frontDie : Nat := Config.nearDie 2 % 4
def switchReadDie (u : Nat) : Nat := 2 * (u % 2) + Config.nearDie (u % 2) % 2

/-- Whether a line's home is the L2 of this die (R75); a replica is a home for its die (R98). -/
def homedOn (p : Place) (die : Nat) : Bool :=
  match p with
  | .dram pa => homeDie pa == die
  | .repl _ => true
  | _ => false

/-- The local physical address behind a place at a level. -/
def backing (lv : Level) (p : Place) : Nat :=
  match lv, p with
  | .replica d, .repl pa => replicaPa pa d
  | _, q => q.addr

/-! ### Stored bytes: keys and poison -/

/-- A byte read under a key: what was written when the key is the one it was written under, else a free byte (R428,
log 6). Keys are numbered by what they are, not by their slots (State.keyId). -/
def underKey (written asked pa : Nat) (b : Byte) : Byte :=
  if written = asked then b else Config.freeByte (((pa * 2 ^ 520 + asked) * 2 ^ 520 + written) * 256 + b.toNat)

/-- The number of the key under which the sector of an address was written. -/
def MemState.keyAt (m : MemState) (pa : Nat) : Nat := lookupD 0 m.keys (pa / 32)

/-- The stored byte of a local physical address under a key. -/
def MemState.stored (m : MemState) (key pa : Nat) : Byte := underKey (m.keyAt pa) key pa (memGet m.mem pa)

/-- A sector made to carry a key: what it held is afterwards what the new key makes of it (R428). -/
def MemState.rekey (m : MemState) (key sector : Nat) : MemState :=
  if lookupD 0 m.keys sector = key then m
  else
    let old := lookupD 0 m.keys sector
    let bs := (upFrom (sector * 32) 32).map fun a => (a, underKey old key a (memGet m.mem a))
    { m with mem := memPutAll m.mem bs,
             keys := if key = 0 then m.keys.filter (fun p => p.1 != sector) else putNat m.keys sector key }

/-- A range of whole sectors whose contents the manual leaves undefined: they read as free bytes (log 22). -/
def MemState.scramble (m : MemState) (pa n id : Nat) : MemState :=
  let lo := pa / 32
  let inside := fun x => decide (lo ≤ x) && decide (x < lo + n / 32)
  { m with keys := (upFrom lo (n / 32)).map (fun x => (x, id)) ++ m.keys.filter (fun p => !(inside p.1)),
           poison := m.poison.filter fun x => !(inside x) }

/-- Whether these bytes, by address, cover all of a sector. -/
def coversSector (bs : List (Nat × Byte)) (sector : Nat) : Bool :=
  (upFrom (sector * 32) 32).all fun a => bs.any fun p => p.1 == a

/-- Bytes stored at local physical addresses under a key; a sector overwritten in full is poisoned no longer (R423). -/
def MemState.store (m : MemState) (key : Nat) (bs : List (Nat × Byte)) : MemState :=
  let sectors := dedup (bs.map fun p => p.1 / 32)
  let m := sectors.foldl (fun m x => m.rekey key x) m
  { m with mem := memPutAll m.mem bs, poison := m.poison.filter fun x => !(coversSector bs x) }

/-- Whether a sector of these bytes is poisoned (R423), their block has reserved metadata (R238), or a write on its way to
its GWCT will poison it (R281). -/
def MemState.poisoned (m : MemState) (lv : Level) (p : Place) (n : Nat) : Bool :=
  match p with
  | .dram _ | .repl _ =>
    let a := backing lv p
    (m.blockMeta.any fun x => decide (8 ≤ x.2) && decide (a / 256 ≤ x.1) && decide (x.1 * 256 < a + n)) ||
    (m.poison.any fun x => decide (a / 32 ≤ x) && decide (x * 32 < a + n)) ||
    (m.pend.any fun w => decide (w.level = lv) && decide (w.line = p.line) &&
      w.bad.any fun o => decide (p.off ≤ o) && decide (o < p.off + n))
  | _ => false

/-! ### The value of a line at a level (R77, R78) -/

/-- Whether a write was issued on behalf of a core (R78). -/
def Issuer.covers : Issuer → Option Nat → Bool
  | .core c, some r => c == r
  | .die d, some r => d == dieOfCore r
  | _, _ => false

/-- The pending writes to a line at a level, in arrival order. -/
def MemState.pendingAt (m : MemState) (lv : Level) (line : Place) : List Pending :=
  m.pend.filter fun p => decide (p.level = lv) && decide (p.line = line)

/-- The writes that a reader sees: those whose GWCT has passed, and, when the reader's core issued one, all up to the
last it issued (R78). -/
def seen (now : Time) (reader : Option Nat) (ps : List Pending) : List Pending :=
  (ps.reverse.dropWhile fun p => !(decide (p.gwct ≤ now) || p.issuer.covers reader)).reverse

/-- The largest GWCT, not passed, among the writes a reader sees (R78); 0 if none. Its core's own write to a replicated
page counts until the last replica has it (R99). -/
def seenGwct (now : Time) (reader : Option Nat) (ps : List Pending) : Time :=
  maxList ((seen now reader ps).map fun p =>
    if (if p.issuer.covers reader then p.full else p.gwct) ≤ now then 0 else p.full)

/-- The newest value that writes give the byte at an offset, with its key. -/
def newest : List Pending → Nat → Option (Byte × Nat)
  | [], _ => none
  | p :: r, off =>
    match newest r off with
    | some x => some x
    | none => (p.bytes.reverse.find? fun q => q.1 == off).map fun q => (q.2, p.key)

/-- The byte at an offset of a line at a home, as a reader sees it under a key. -/
def MemState.homeByte (m : MemState) (now : Time) (lv : Level) (line : Place) (reader : Option Nat) (key off : Nat) : Byte :=
  match newest (seen now reader (m.pendingAt lv line)) off with
  | some (b, k) => underKey k key (backing lv line + off) b
  | none => m.stored key (backing lv line + off)

/-- `n` bytes of a line at a home. -/
def MemState.homeBytes (m : MemState) (now : Time) (lv : Level) (line : Place) (reader : Option Nat)
    (key off n : Nat) : List Byte :=
  (upFrom off n).map fun o => m.homeByte now lv line reader key o

/-- The newest bytes of a line at a home, pending or not (R78: writes and atomics act on the newest value). -/
def MemState.homeNewest (m : MemState) (lv : Level) (line : Place) (key off n : Nat) : List Byte :=
  (upFrom off n).map fun o =>
    match newest (m.pendingAt lv line) o with
    | some (b, k) => underKey k key (backing lv line + o) b
    | none => m.stored key (backing lv line + o)

/-! ### Leases and GWCTs (R76, R77) -/

/-- The lease horizon of a line at a level: the end of its leases, and of those held on other packages. -/
def MemState.horizon (m : MemState) (lv : Level) (line : Place) : Time × Time :=
  match m.horizons.find? fun h => decide (h.level = lv) && decide (h.line = line) with
  | some h => (h.until_, h.remote)
  | none => (0, 0)

/-- A lease granted: the horizon becomes the latest end. -/
def MemState.grant (m : MemState) (lv : Level) (line : Place) (until_ : Time) (remote : Bool) : MemState :=
  let (u, r) := m.horizon lv line
  { m with horizons := ⟨lv, line, Nat.max u until_, if remote then Nat.max r until_ else r⟩ ::
      m.horizons.filter fun h => !(decide (h.level = lv) && decide (h.line = line)) }

/-- The guard of a line: 32 ticks while a lease on it is held on another package, else 4 (R16, R77). -/
def MemState.guardOf (m : MemState) (now : Time) (lv : Level) (line : Place) : Time :=
  if now < (m.horizon lv line).2 then Config.guardFabric else Config.guardLocal

/-- The latest time to which a lease may be granted now, to another package or not: at most 10,000 ticks, and below every
GWCT not yet passed by the guard (R76, R77). -/
def MemState.leaseEnd (m : MemState) (now : Time) (lv : Level) (line : Place) (lease : Nat) (remote : Bool) : Time :=
  let guard := if remote then Config.guardFabric else m.guardOf now lv line
  (m.pendingAt lv line).foldl
    (fun e p => if p.gwct ≤ now then e else Nat.min e (p.gwct - guard)) (now + Nat.min lease Config.leaseMax)

/-- The GWCT a level gives a write that arrives now (R77); successive ones of a line never decrease (R78). -/
def MemState.gwctFor (m : MemState) (now : Time) (lv : Level) (line : Place) (latency : Nat) : Time :=
  let h := (m.horizon lv line).1
  let guard := m.guardOf now lv line
  let last := maxList ((m.pendingAt lv line).map (·.gwct))
  Nat.max (Nat.max (now + latency) (if h = 0 then 0 else h + guard)) last

/-- The latest GWCT not passed of the writes to a line at a level, or 0 (R259). -/
def MemState.latestPending (m : MemState) (now : Time) (lv : Level) (line : Place) : Time :=
  maxList ((m.pendingAt lv line).map fun p => if p.full ≤ now then 0 else p.full)

/-- The latest GWCT not passed of rope-mates' writes to the 128 B block of a scratchpad offset, or 0 (R223, R259). -/
def MemState.spadGwct (m : MemState) (now : Time) (launch team off : Nat) : Time :=
  maxList ((m.spadPend.filter fun x => x.launch == launch && x.team == team && x.block == off / 128 && decide (now < x.gwct)).map
    (·.gwct))

/-- The GWCT that the replica of a die gives a write to a replicated page: its writes are applied in stamp order, so none
precedes an earlier one of another line (R99). -/
def MemState.replGwct (m : MemState) (now : Time) (die : Nat) (line : Place) (latency : Nat) : Time :=
  Nat.max (m.gwctFor now (.replica die) line latency)
    (maxList ((m.pend.filter fun p => decide (p.level = .replica die)).map (·.gwct)))

/-- A write that arrives at a level: it is pending until its GWCT. `full` is the GWCT of the whole write, where that is
later than this part's (R99). -/
def MemState.arrive (m : MemState) (uid : Nat) (lv : Level) (line : Place) (bytes : List (Nat × Byte)) (gwct : Time)
    (issuer : Issuer) (key : Nat) (bad : List Nat := []) (pack : Nat := 0) (full : Time := 0) (cmp : Nat := 0) : MemState :=
  { m with pend := m.pend ++ [⟨uid, lv, line, bytes, gwct, issuer, key, bad, pack, Nat.max gwct full, cmp⟩] }

/-! ### Copies -/

/-- The copy of a line in a core's L1. -/
def MemState.l1Line? (m : MemState) (core : Nat) (line : Place) : Option L1Line :=
  m.l1.find? fun l => l.core == core && decide (l.line = line)

/-- The copy of a line in a die's L2. -/
def MemState.l2Line? (m : MemState) (die : Nat) (line : Place) : Option L2Line :=
  m.l2.find? fun l => l.die == die && decide (l.line = line)

/-- An L1 without a line. -/
def MemState.dropL1 (m : MemState) (core : Nat) (line : Place) : MemState :=
  { m with l1 := m.l1.filter fun l => !(l.core == core && decide (l.line = line)) }

/-- An L2 without a line. -/
def MemState.dropL2 (m : MemState) (die : Nat) (line : Place) : MemState :=
  { m with l2 := m.l2.filter fun l => !(l.die == die && decide (l.line = line)) }

/-- Bytes by offset laid over others: the newer first. -/
def overlay (newer older : List (Nat × Byte)) : List (Nat × Byte) :=
  newer ++ older.filter fun p => !(newer.any fun q => q.1 == p.1)

/-- The value a list of bytes by offset gives an offset. -/
def byteIn (bs : List (Nat × Byte)) (off : Nat) : Option Byte := (bs.find? fun p => p.1 == off).map (·.2)

/-- Bytes of an L1 line, where it can serve them (R229): the written bytes, and the copy while its lease lasts. -/
def L1Line.serve (l : L1Line) (now : Time) (off n : Nat) : Option (List Byte) :=
  (upFrom off n).mapM fun o =>
    match byteIn l.dirty o with
    | some b => some b
    | none => if now < l.lease && o < l.snap.length then some (nth 0 l.snap o) else none

/-- Whether a core holds bytes of the line TEAM-tagged. -/
def L1Line.tagged (l : L1Line) : Bool := !l.dirty.isEmpty

/-! ### Writes on their way -/

/-- A write joins those on their way to their level. -/
def State.sendOut (s : State) (o : OutWrite) : State :=
  { s with m := { s.m with outs := s.m.outs ++ [{ o with uid := s.uid, born := s.ftime }] }, uid := s.uid + 1 }

/-- Whether an atomic executes at a place in a line. -/
def AtomReq.onLine (a : AtomReq) (line : Place) : Bool :=
  match a.at_ with
  | .level _ p => decide (p.line = line)
  | .spad .. => false

/-- Whether an atomic executes in an L1 or in an L2 that is not its line's home, and so leaves tagged bytes there (R94). -/
def AtomReq.narrow (a : AtomReq) : Bool :=
  match a.at_ with
  | .level (.l1 _) _ => true
  | .level (.l2 _) _ => true
  | _ => false

/-- Whether an atomic of a core that will leave tagged bytes of a line is on its way: until it has executed, the core's later accesses
to the line wait, so that they find those bytes (R79, R84, R95). -/
def MemState.narrowAtom (m : MemState) (core : Nat) (line : Place) : Bool :=
  m.atoms.any fun a => a.narrow && a.core == core && a.onLine line

/-- Whether such an atomic of a fibre is on its way: a release of the fibre waits for it, since it writes back its line (R87, R92). -/
def State.narrowOut (s : State) (fk : FKey) : Bool := s.m.atoms.any fun a => a.narrow && decide (a.fibre = fk)

/-- Whether an atomic may leave: none of its core that executes at another level is on its way to its line (R79, R95). -/
def State.atomMayLeave (s : State) (a : AtomReq) : Bool :=
  match a.at_ with
  | .level lv p => !(s.m.atoms.any fun x => x.narrow && x.core == a.core && x.onLine p.line &&
      (match x.at_ with | .level l _ => decide (l ≠ lv) | .spad .. => false))
  | .spad .. => true

/-- A write-back on its way: `fibres` receive its GWCT, an eviction's goes to a horizon (R81, R87). That of a core passes
the coalescer as a write of the scope of its level (R232); that of an L2 does not. -/
def wbOut (core : Nat) (level : Level) (line : Place) (bytes : List (Nat × Byte)) (kind : WriteKind) (issuer : Issuer)
    (fibres : List FKey) (cmds : List Nat) (key cmp : Nat) : OutWrite :=
  let fromCore := match issuer with | .core _ => true | _ => false
  { uid := 0, core := core, level := level, line := line, bytes := bytes,
    scope := match level with | .l2 _ => 2 | _ => 3,
    policy := 0, kind := kind, issuer := issuer, fibres := fibres, cmds := cmds, cmp := cmp, key := key, release := false,
    born := 0, open_ := fromCore, vas := [], pushOn := none, backFor := [], backCmds := [] }

/-- The other line of a 256 B block. -/
def buddy (line : Place) : Place :=
  let other := fun (p : Nat) => if p / 128 % 2 = 0 then p + 128 else p - 128
  match line with
  | .dram p => .dram (other p)
  | .repl p => .repl (other p)
  | .peer i p => .peer i (other p)
  | .host p => .host p

/-- The level to which a write of a scope goes from a core (R79, R99, R403). -/
def levelFor (scope : Nat) (p : Place) (core : Nat) : Level :=
  match p with
  | .repl _ => .home
  | .host _ => .home
  | _ => if 3 ≤ scope || homedOn p (dieOfCore core) then .home else .l2 (dieOfCore core)

/-- The bytes a die's L2 holds DIE-tagged of a line, those of writes not yet visible included: the newest first. -/
def MemState.dieBytes (m : MemState) (die : Nat) (line : Place) : List (Nat × Byte) :=
  let p := (m.pendingAt (.l2 die) line).foldl (fun acc w => overlay w.bytes.reverse acc) []
  overlay p ((m.l2Line? die line).elim [] (·.dirty))

/-- An L2 without a line and without its pending writes. -/
def MemState.clearDie (m : MemState) (die : Nat) (line : Place) : MemState :=
  let m := m.dropL2 die line
  { m with pend := m.pend.filter fun p => !(decide (p.level = .l2 die) && decide (p.line = line)) }

/-- The key and the CMP under which a die's L2 holds a line's tagged bytes: those of the newest write to them. -/
def MemState.dieTags (m : MemState) (die : Nat) (line : Place) : Nat × Nat :=
  match (m.pendingAt (.l2 die) line).getLast? with
  | some p => (p.key, p.cmp)
  | none => (m.l2Line? die line).elim (0, 0) fun l => (l.key, l.cmp)

/-- The die L2's tagged bytes of a line sent to its home under a given number, and the L2 copy removed (R79 order 1). -/
def State.pushDieAs (s : State) (uid core : Nat) (line : Place) (kind : WriteKind) (fibres : List FKey) (cmds : List Nat) :
    State :=
  let d := dieOfCore core
  let bs := s.m.dieBytes d line
  let tags := s.m.dieTags d line
  let s := s.onMem (·.clearDie d line)
  if bs.isEmpty then s
  else
    let o := { wbOut core .home line bs kind (.die d) fibres cmds tags.1 tags.2 with uid := uid, born := s.ftime }
    s.onMem fun m => { m with outs := m.outs ++ [o] }

/-- Whether a write of a core is on its way to its die's L2 copy of a line. -/
def MemState.toDie (m : MemState) (core : Nat) (line : Place) : Bool :=
  m.outs.any fun o => o.core == core && decide (o.level = .l2 (dieOfCore core)) && decide (o.line = line)

/-- A write on its way to a die's L2 whose line is written back once it is there. -/
def OutWrite.thenPush (o : OutWrite) (kind : WriteKind) (fibres : List FKey) (cmds : List Nat) : OutWrite :=
  { o with pushOn := some (o.pushOn.getD kind), backFor := dedup (o.backFor ++ fibres), backCmds := dedup (o.backCmds ++ cmds) }

/-- The die L2's tagged bytes of a line sent to its home: now, or, while a write of the core is on its way to that copy,
once that write is there, so that it goes ahead too (R79 order 1, R87). -/
def State.pushDieBytes (s : State) (core : Nat) (line : Place) (kind : WriteKind) (fibres : List FKey) (cmds : List Nat) :
    State :=
  if s.m.toDie core line then
    s.onMem fun m => { m with outs := m.outs.map fun o =>
      if o.core == core && decide (o.level = .l2 (dieOfCore core)) && decide (o.line = line) then o.thenPush kind fibres cmds
      else o }
  else ({ s with uid := s.uid + 1 }).pushDieAs s.uid core line kind fibres cmds

/-- A core's TEAM-tagged bytes of a line sent to a level, and the L1 copy removed (R79 order 2). -/
def State.pushTeamBytes (s : State) (core : Nat) (level : Level) (line : Place) (kind : WriteKind) (fibres : List FKey)
    (cmds : List Nat) : State :=
  match s.m.l1Line? core line with
  | none => s
  | some l =>
    let s := s.onMem (·.dropL1 core line)
    if l.dirty.isEmpty then s else s.sendOut (wbOut core level line l.dirty kind (.core core) fibres cmds l.key l.cmp)

/-- A core's copy of a line evicted, its TEAM-tagged bytes written back to the home behind those that the die's L2 holds
(R79, R81). -/
def State.evictL1 (s : State) (core : Nat) (line : Place) : State :=
  let tagged := (s.m.l1Line? core line).elim false (·.tagged)
  let s := if tagged && !(homedOn line (dieOfCore core)) then s.pushDieBytes core line (.evictL2 (dieOfCore core)) [] [] else s
  s.pushTeamBytes core .home line (.evictL1 core) [] []

/-- What goes ahead of a store or atomic of CLUSTER scope or wider, in the order of R79. These write-backs count as evictions for the
horizons of R81 (log 70). A line of another package that the core has asked for is asked for again behind the write (R84). -/
def State.clearAhead (s : State) (core scope : Nat) (line : Place) : State :=
  let s := if 3 ≤ scope then s.pushDieBytes core line (.evictL2 (dieOfCore core)) [] [] else s
  let s := s.pushTeamBytes core (levelFor scope line core) line (.evictL1 core) [] []
  s.onMem fun m => { m with mshrs := m.mshrs.map fun e =>
    if e.core == core && decide (e.line = line) then { e with remoteReq := none } else e }

/-- The set of a line in the L1 (R228): address bits [15:8]. -/
def l1Set (line : Place) : Nat := line.addr / 256 % 256

/-- The line that leaves a full set (R230): the least recently used whose lease has ended and that has no written bytes,
else the least recently used. -/
def victim (now : Time) (ways : List L1Line) : Option L1Line :=
  match ways.reverse.find? fun l => l.dirty.isEmpty && decide (l.lease ≤ now) with
  | some l => some l
  | none => ways.getLast?

/-- The ways of a core's L1 in the set of a line. -/
def MemState.ways (m : MemState) (core : Nat) (line : Place) : List L1Line :=
  m.l1.filter fun l => l.core == core && l1Set l.line == l1Set line

/-- Room for one more line in the set of a line; an evicted TEAM line is written back to its home (R81, R230). -/
def State.makeRoom (s : State) (core : Nat) (line : Place) : State :=
  if (s.m.ways core line).length < 16 then s
  else
    match victim s.ftime (s.m.ways core line) with
    | none => s
    | some v => s.evictL1 core v.line

/-- A line put into an L1 in its place of the recency order (R230). -/
def State.putL1 (s : State) (l : L1Line) : State :=
  let s := s.onMem (·.dropL1 l.core l.line)
  let s := s.makeRoom l.core l.line
  s.onMem fun m => { m with l1 := if l.streaming then m.l1 ++ [l] else l :: m.l1 }

/-- A line of the L1 becomes the most recently used (R230). -/
def State.touchL1 (s : State) (l : L1Line) : State :=
  s.onMem fun m => { m.dropL1 l.core l.line with l1 := l :: (m.dropL1 l.core l.line).l1 }

/-- A TEAM-scope store in the L1 (R79): visible at once to every fibre of the core. -/
def State.storeL1 (s : State) (core : Nat) (p : Place) (bs : List Byte) (policy key cmp : Nat) : State :=
  let bytes := withAddr p.off bs
  match s.m.l1Line? core p.line with
  | some l => s.touchL1 { l with dirty := overlay bytes.reverse l.dirty, cmp := cmp }
  | none => s.putL1 ⟨core, p.line, 0, [], bytes, policy == 1, key, cmp⟩

/-- A store of one piece, issued at its commit or, a release store, at the end of its hold (R79, R80, R99, R264): TEAM
stores are performed in the L1, the others go out through the coalescer. -/
def State.storePiece (s : State) (fk : FKey) (core scope policy va : Nat) (p : Piece) (bs : List Byte)
    (release : Bool := false) : State :=
  let team := scope == 0 && policy != 2 && (match p.place with | .repl _ => false | .host _ => false | _ => true)
  if team then s.storeL1 core p.place bs policy p.leaf.key p.leaf.cmp
  else
    let sc := Nat.max scope 2
    let sc := match p.place with | .host _ => 3 | .repl _ => 3 | _ => sc
    let s := s.clearAhead core sc p.place.line
    s.sendOut
      { uid := 0, core := core, level := levelFor sc p.place core, line := p.place.line,
        bytes := withAddr p.place.off bs, scope := scope, policy := policy, kind := .store, issuer := .core core,
        fibres := [fk], cmds := [], cmp := p.leaf.cmp, key := p.leaf.key, release := release, born := 0, open_ := true,
        vas := [(fk, va)], pushOn := none, backFor := [], backCmds := [] }

/-- The pieces of a store with their bytes. -/
def splitBytes : List Piece → List Byte → List (Piece × List Byte)
  | [], _ => []
  | p :: r, bs => (p, bs.take p.n) :: splitBytes r (bs.drop p.n)

/-- A global store at an address issued (R82, R235). -/
def State.issueStore (s : State) (fk : FKey) (core scope policy va : Nat) (pieces : List Piece) (bs : List Byte)
    (release : Bool := false) : State :=
  (splitBytes pieces bs).foldl (fun s x => s.storePiece fk core scope policy va x.1 x.2 release) s

/-! ### Write-backs of fences (R87) -/

/-- The lines of a core's L1 tagged TEAM. -/
def MemState.teamLines (m : MemState) (core : Nat) : List Place :=
  (m.l1.filter fun l => l.core == core && l.tagged).map (·.line)

/-- The lines of a die's L2 tagged DIE, written bytes that wait for their GWCT included. -/
def MemState.dieLines (m : MemState) (die : Nat) : List Place :=
  dedup ((m.l2.filter fun l => l.die == die && !l.dirty.isEmpty).map (·.line) ++
    (m.pend.filter fun p => decide (p.level = .l2 die)).map (·.line))

/-- The lines to which writes of a core are on their way to its die's L2. -/
def MemState.linesToDie (m : MemState) (core : Nat) : List Place :=
  (m.outs.filter fun o => o.core == core && decide (o.level = .l2 (dieOfCore core))).map (·.line)

/-- The write-backs of FENCE.rel at a scope on behalf of a fibre or commands: nothing at TEAM, the L1's lines to the
die's L2 or their homes otherwise, and the L2's lines ahead of them at DEVICE and wider, with those that writes of the core
are about to tag (R87). -/
def State.writeBacks (s : State) (core scope : Nat) (fibres : List FKey) (cmds : List Nat) : State :=
  if scope = 0 then s
  else
    let s := if 3 ≤ scope then
        (dedup (s.m.dieLines (dieOfCore core) ++ s.m.linesToDie core)).foldl
          (fun s l => s.pushDieBytes core l .fenceWb fibres cmds) s
      else s
    (s.m.teamLines core).foldl
      (fun s l => s.pushTeamBytes core (levelFor scope l core) l .fenceWb fibres cmds) s

/-- The write-backs of CLWB for one line (R262). -/
def State.writeBackLine (s : State) (core scope : Nat) (line : Place) (fibres : List FKey) : State :=
  if scope = 0 then s
  else
    let s := if 3 ≤ scope then s.pushDieBytes core line .fenceWb fibres [] else s
    s.pushTeamBytes core (levelFor scope line core) line .fenceWb fibres []

/-- The write-back horizons that a release at a scope waits for (R81, R87). -/
def State.wbHorizon (s : State) (core scope : Nat) : Time :=
  Nat.max (lookupD 0 s.m.wbL1 core) (if 3 ≤ scope then lookupD 0 s.m.wbL2 (dieOfCore core) else 0)

/-- The GWCTs of write-backs of other fences, acquires and CLWB, whose lines a release would else have found tagged and
waits for (R92; log 14). -/
def State.fenceHorizon (s : State) (core scope : Nat) : Time :=
  if scope = 0 then 0
  else Nat.max (lookupD 0 s.m.fenceL1 core) (if 3 ≤ scope then lookupD 0 s.m.fenceL2 (dieOfCore core) else 0)

/-- Write-backs of a core's L1, or at DEVICE of its die's L2, that have not arrived and have a GWCT to give to a horizon: a
release waits for evictions, and above TEAM for the write-backs of others too, whose bytes it would else have found tagged
(R87, R92; log 14). -/
def State.evictionsOut (s : State) (core scope : Nat) : Bool :=
  s.m.outs.any fun o =>
    match o.kind, o.issuer with
    | .store, _ => false
    | .fenceWb, .core c => decide (scope ≠ 0) && c == core
    | _, .core c => c == core
    | _, .die d => decide (3 ≤ scope) && d == dieOfCore core
    | _, .none => false

/-- Writes of a fibre that have not reached their level: their GWCTs are still to come into GWMAX. -/
def State.writesOut (s : State) (fk : FKey) : Bool :=
  (s.m.outs.any fun o => o.fibres.contains fk || o.backFor.contains fk) ||
  (s.m.atoms.any fun a => decide (a.fibre = fk)) ||
  (s.m.spads.any fun a => decide (a.fibre = fk) && a.load.isNone)

/-- Writes of a fibre with a number below a bound that have not reached their level: a push issued then has their GWCTs in its
VT (R379). -/
def State.writesBefore (s : State) (fk : FKey) (below : Nat) : Bool :=
  (s.m.outs.any fun o => decide (o.uid < below) && (o.fibres.contains fk || o.backFor.contains fk)) ||
  (s.m.atoms.any fun a => decide (a.uid < below) && decide (a.fibre = fk)) ||
  (s.m.spads.any fun a => decide (a.uid < below) && decide (a.fibre = fk) && a.load.isNone)

/-- Loads of a fibre that have not performed (R85). -/
def State.loadsOut (s : State) (fk : FKey) : Bool :=
  s.m.loads.any fun l => decide (l.fibre = fk)

/-- Loads and atomics of a fibre that have not performed. -/
def State.accessesOut (s : State) (fk : FKey) : Bool :=
  s.loadsOut fk || s.m.atoms.any fun a => decide (a.fibre = fk)

/-! ### Requests to peers and to host memory (R13, R401, R403) -/

/-- The flows to a package, used now (R407). -/
def FabState.usedFlows (b : FabState) (peer : Nat) (now : Time) : List Flow :=
  b.flows.map fun (f : Flow) => if f.peer == peer then { f with last := now } else f

/-- A packet put out to a package: its flows carry it (R407). -/
def State.sendPeer (s : State) (peer : Nat) (o : Out) : State :=
  { s with outbox := s.outbox ++ [o], fab := { s.fab with flows := s.fab.usedFlows peer s.ftime } }

/-- A request sent to a peer or over the host link; `why` says who gets its answer. -/
def State.sendRemote (s : State) (peer : Nat) (host : Bool) (ask : RemoteAsk) (why : RemoteWhy) : State :=
  { s with outbox := s.outbox ++ [.request s.uid peer host ask], uid := s.uid + 1,
           fab := { s.fab with remote := s.fab.remote ++ [⟨s.uid, peer, host, ask, why, s.ftime⟩],
                               flows := if host then s.fab.flows else s.fab.usedFlows peer s.ftime } }

/-- Whether a packet of a sender is taken at all: this domain, and not older than 250,000 ticks (R400, R412). -/
def State.takesPacket (s : State) (domain age : Nat) : Bool :=
  s.fab.joined && domain == bitsOf s.fab.cfg 15 0 && decide (age ≤ 250000)

/-- Whether an incarnation is the current one of a peer (R415). -/
def State.current (s : State) (peer inc : Nat) : Bool :=
  s.fab.peers.any fun p => p.id == peer && p.inc == inc && p.departed.isNone

/-- The frame and offset of an address of an exported window or of host memory (R401, R403). -/
def frameOf (a : Nat) : Nat × Nat := (a / 65536, a % 65536)

/-- A read of bytes of another package or of host memory requested; nothing for a local place. -/
def State.askBytes (s : State) (p : Place) (n : Nat) (why : RemoteWhy) : State :=
  match p with
  | .peer i a => s.sendRemote i false (.load (frameOf a).1 (frameOf a).2 n) why
  | .host a => s.sendRemote s.fab.id true (.load (frameOf a).1 (frameOf a).2 n) why
  | _ => s

/-- An error reported to the host through AER (R416). -/
def State.reportAer (s : State) : State := { s with outbox := s.outbox ++ [.aer] }

/-- A write of bytes of another package or of host memory sent, with the offsets of poisoned ones, which AER
reports on the host link (R423), and to a peer the stored form of a whole block (R240); nothing for a local place. -/
def State.askStore (s : State) (p : Place) (bs : List Byte) (why : RemoteWhy) (bad : List Nat := []) (pack : Nat := 0) : State :=
  match p with
  | .peer i a => s.sendRemote i false (.store (frameOf a).1 (frameOf a).2 bs bad pack) why
  | .host a =>
    let s := s.sendRemote s.fab.id true (.store (frameOf a).1 (frameOf a).2 bs bad 0) why
    if bad.isEmpty then s else s.reportAer
  | _ => s

/-- The line of an away place that the launch engine or a fetch has read, if it is here (log 17). -/
def FabState.farLine (b : FabState) (line : Place) : Option (List Byte) :=
  (b.far.find? fun x => decide (x.1 = line)).map (·.2)

/-- Whether a peer is marked as departed (R413). -/
def State.departed (s : State) (peer : Nat) : Bool := s.fab.peers.any fun p => p.id == peer && p.departed.isSome

/-- Whether an access to a place is answered as for a departed peer (R413, R417): nothing is sent. -/
def State.gone (s : State) : Place → Bool
  | .peer i _ => s.departed i
  | .host _ => !s.fab.hostUp
  | _ => false

/-- A line of an away place asked for on behalf of the launch engine or a fetch, once; of a departed
peer, or of host memory behind a lost link, it reads 0xFF (R413). -/
def State.askFar (s : State) (p : Place) : State :=
  if (s.fab.farLine p.line).isSome || s.fab.remote.any (fun r => decide (r.why = .far p.line)) then s
  else if s.gone p then { s with fab := { s.fab with far := (p.line, List.replicate 128 0xFF) :: s.fab.far } }
  else s.askBytes p.line 128 (.far p.line)

/-- The lines of a list dropped from those read. -/
def State.dropFar (s : State) (lines : List Place) : State :=
  { s with fab := { s.fab with far := s.fab.far.filter (fun x => !(lines.contains x.1)),
                               farBad := s.fab.farBad.filter fun x => !(lines.contains x) } }

/-! ### Engine and host accesses at the homes (R102) -/

/-- Bytes that an agent at DEVICE level reads of one line at its home; of another package or of host memory, the bytes
that were fetched. -/
def State.agentLine (s : State) (p : Place) (n key die : Nat) : List Byte :=
  if p.away then ((s.fab.farLine p.line).getD []).drop p.off |>.take n
  else s.m.homeBytes s.ftime (homeLevel p die) p.line none key p.off n

/-- Bytes of a write by line, from its first line on: those from offset 128 on are the next line's (R232). -/
def lineHalves (line : Place) (bytes : List (Nat × Byte)) : List (Place × List (Nat × Byte)) :=
  let hi := bytes.filter fun b => decide (128 ≤ b.1)
  (line, bytes.filter fun b => decide (b.1 < 128)) ::
    (if hi.isEmpty then [] else [(line.add 128, hi.map fun b => (b.1 - 128, b.2))])

/-- The offsets of a half of a write among those of the whole. -/
def halfOffs (line half : Place) (offs : List Nat) : List Nat :=
  if half = line then offs.filter fun o => decide (o < 128) else (offs.filter fun o => decide (128 ≤ o)).map (· - 128)

/-- A write of an agent performed at its home now: a GWCT of R77 with the given latency; a replicated page takes a stamp
and is written at all four replicas in one order (R99); a peer or the host gets a request. A whole block is one write under
one GWCT, with `pack` for its metadata (R240). `bad` lists the offsets in `bs` of bytes written poisoned. -/
def State.agentWrite (s : State) (p : Place) (bs : List Byte) (key latency : Nat) (issuer : Issuer)
    (why : RemoteWhy := .none) (bad : List Nat := []) (pack : Nat := 0) : State × Time :=
  let halves := lineHalves p.line (withAddr p.off bs)
  let offs := bad.map (· + p.off)
  match p with
  | .repl _ =>
    let at_ := fun (d : Nat) => maxList (halves.map fun h => s.m.replGwct s.ftime d h.1 latency)
    let g := maxList ((upFrom 0 4).map at_)
    let m := (upFrom 0 4).foldl (fun m d => halves.foldl (fun m h => m.arrive s.uid (.replica d) h.1 h.2
      (at_ d) issuer key (halfOffs p.line h.1 offs) pack g) m) s.m
    ({ s with m := { m with stamp := m.stamp + 1 }, uid := s.uid + 1 }, g)
  | .dram _ =>
    let g := maxList (halves.map fun h => s.m.gwctFor s.ftime .home h.1 latency)
    let m := halves.foldl (fun m h => m.arrive s.uid .home h.1 h.2 g issuer key (halfOffs p.line h.1 offs) pack) s.m
    ({ s with m := m, uid := s.uid + 1 }, g)
  | _ => (s.askStore p bs why bad pack, s.ftime)

end Sys2Proof.Machine
end

