-- ==== Sys2Proof/Machine/Flags.lean ====
section
/-! DEFINITION. FST (R133), the predicate word PW and the combine rules of the P format (R38). -/

namespace Sys2Proof.Machine

/-! ### FST bits (R133) -/

def fstIV : Word := 0x1#64
def fstDZ : Word := 0x2#64
def fstOF : Word := 0x4#64
def fstUF : Word := 0x8#64
def fstIX : Word := 0x10#64
def fstSAT : Word := 0x20#64
def fstRERR : Word := 0x40#64
def fstTM : Word := 0x80#64
def fstRTE : Word := 0x100#64
def fstSYS : Word := 0x200#64
def fstBKE : Word := 0x400#64

/-- The bits of FST that SETSR writes (R133): the sticky flags, RTE and BKE. -/
def fstWritable : Word := 0x57F#64

/-- FST.TM: the fibre runs its team trap handler. -/
def Fibre.tm (f : Fibre) : Bool := bitOf f.fst 7

/-- FST.RTE: a remote error also raises REMOTE_ERROR. -/
def Fibre.rte (f : Fibre) : Bool := bitOf f.fst 8

/-- FST.SYS: the fibre runs the launch system vector. -/
def Fibre.sys (f : Fibre) : Bool := bitOf f.fst 9

/-- FST.BKE: BRK traps. -/
def Fibre.bke (f : Fibre) : Bool := bitOf f.fst 10

/-- Trap mode: FST.TM or FST.SYS is 1 (R158). -/
def Fibre.trapMode (f : Fibre) : Bool := f.tm || f.sys

/-- The fibre with sticky flags set; instructions only ever set them (R133). -/
def Fibre.setFlags (f : Fibre) (fl : Word) : Fibre := { f with fst := f.fst ||| fl }

/-- The fibre with bits of FST cleared. -/
def Fibre.clearFst (f : Fibre) (fl : Word) : Fibre := { f with fst := f.fst &&& ~~~fl }

/-- FST after SETSR (R133): RW bits from the value, TM and SYS kept, the rest zero. -/
def fstWrite (old v : Word) : Word := (old &&& ~~~fstWritable) ||| (v &&& fstWritable)

/-! ### Predicates -/

/-- p[n]; p0 reads 1 (R132). -/
def Fibre.pred (f : Fibre) (n : BitVec 3) : Bool := n == 0 || f.pw.getLsbD n.toNat

/-- p[n] written; p0 discards (R38, R132). -/
def Fibre.setPred (f : Fibre) (n : BitVec 3) (v : Bool) : Fibre :=
  if n = 0 then f
  else
    let bit : BitVec 8 := 1#8 <<< n.toNat
    { f with pw := if v then f.pw ||| bit else f.pw &&& ~~~bit }

/-- Whether a word executes for a fibre (R36): p[PG] XOR PN. -/
def Fibre.guardOn (f : Fibre) (pg : BitVec 3) (pn : Bool) : Bool := f.pred pg != pn

/-- The combine rule CB applied to the condition c and the old predicate (R38). -/
def combine (cb : BitVec 3) (old c : Bool) : Bool :=
  match cb.toNat with
  | 0 => c
  | 1 => old && c
  | 2 => old || c
  | _ => !c

/-- PW read as a register: bit 0 reads 1 (R169). -/
def Fibre.pwRead (f : Fibre) : Word := (f.pw ||| 1#8).setWidth 64

/-- PW[7:1] := v[7:1]; bit 0 stays 1 (R169). -/
def Fibre.pwWrite (f : Fibre) (v : Word) : Fibre := { f with pw := v.setWidth 8 ||| 1#8 }

end Sys2Proof.Machine
end

