-- ==== Sys2Proof/Machine/Operands.lean ====
section
/-! DEFINITION. Operand codes, register groups, bypass latches, immediates and the checks of operands in their order
(R41 to R44, R49 to R54). -/

namespace Sys2Proof.Machine

/-! ### Registers and latches -/

/-- g[n]; g0 reads 0 (R41, R132). -/
def Fibre.readG (f : Fibre) (n : Nat) : Word := if n = 0 then 0 else nth 0 f.g n

/-- g[n] written; g0 discards (R41, R132). -/
def Fibre.writeG (f : Fibre) (n : Nat) (v : Word) : Fibre := if n = 0 then f else { f with g := setNth 0 f.g n v }

/-- Whether a code names a latch (R41). -/
def isLatch (c : BitVec 6) : Bool := decide (60 ≤ c.toNat)

/-- The latch a code names: 60 is b0, the newest. -/
def Fibre.latch (f : Fibre) (c : BitVec 6) : Option Word :=
  match c.toNat with
  | 60 => f.lat.b0
  | 61 => f.lat.b1
  | 62 => f.lat.b2
  | _ => f.lat.b3

/-- The value of a source code; a latch read has passed the check for unwritten latches. -/
def Fibre.src (f : Fibre) (c : BitVec 6) : Word := if isLatch c then (f.latch c).getD 0 else f.readG c.toNat

/-- Whether the value of a source code is there: a written latch, or a register that is ready. -/
def Fibre.known (f : Fibre) (c : BitVec 6) : Bool :=
  if isLatch c then (f.latch c).isSome else !(c.toNat != 0 && f.notReady.any fun p => p.1 == c.toNat)

/-- The latches after a fixed-latency word (R44): the result, or the mark unwritten, enters b0. -/
def Fibre.shift (f : Fibre) (v : Option Word) : Fibre := { f with lat := ⟨v, f.lat.b0, f.lat.b1, f.lat.b2⟩ }

/-- A fixed-latency result (R41, R44): into b0, and into its register unless the code names a latch. -/
def Fibre.writeFixed (f : Fibre) (d : BitVec 6) (v : Word) : Fibre :=
  let f' := f.shift (some v)
  if isLatch d then f' else f'.writeG d.toNat v

/-- A register marked not ready until access `uid` brings its value (R144). -/
def Fibre.await (f : Fibre) (d uid : Nat) : Fibre := { f with notReady := (d, uid) :: f.notReady }

/-- Whether a register is not ready. -/
def Fibre.waits (f : Fibre) (n : Nat) : Bool := n != 0 && f.notReady.any (fun p => p.1 == n)

/-! ### Operands of a word -/

/-- How a word uses an operand. Groups give their length; `long` destinations take no latch (R43). -/
inductive Use where
  | src
  | srcGroup (n : Nat)
  | dst
  | long
  | longGroup (n : Nat)
  deriving DecidableEq, Repr

/-- An operand: its FIELD code of R53, its code and its use. -/
structure Opd where
  field : Nat
  code : BitVec 6
  use : Use
  deriving DecidableEq, Repr

/-- R42, R43: a code outside the window; a group that starts at g0 or a latch, or runs past g59 or the window; a latch
as a long-latency destination. -/
def Opd.illegal (o : Opd) (window : Nat) : Bool :=
  let c := o.code.toNat
  let out := decide (1 ≤ c) && decide (c < 60) && decide (window ≤ c)
  match o.use with
  | .src => out
  | .dst => out
  | .long => out || decide (60 ≤ c)
  | .srcGroup n => c == 0 || decide (60 ≤ c) || decide (60 < c + n) || decide (window < c + n)
  | .longGroup n => c == 0 || decide (60 ≤ c) || decide (60 < c + n) || decide (window < c + n)

/-- R44: a source latch that is unwritten. -/
def Opd.unwritten (o : Opd) (f : Fibre) : Bool :=
  match o.use with
  | .src => isLatch o.code && (f.latch o.code).isNone
  | _ => false

/-- R144: a register of the operand that is not ready. -/
def Opd.notReady (o : Opd) (f : Fibre) : Bool :=
  match o.use with
  | .srcGroup n => (upFrom o.code.toNat n).any f.waits
  | .longGroup n => (upFrom o.code.toNat n).any f.waits
  | _ => !(isLatch o.code) && f.waits o.code.toNat

/-- What the checks of a word's operands find (R54): an illegal field, an unwritten latch, a register to wait for. -/
inductive OpdCheck where
  | illegal (field : Nat)
  | unwritten (field : Nat)
  | stall
  | ok
  deriving DecidableEq, Repr

/-- The least of a list of FIELD codes. -/
def leastField : List Nat → Option Nat
  | [] => none
  | x :: r =>
    match leastField r with
    | none => some x
    | some y => some (Nat.min x y)

/-- The checks in the order of R54: ILLEGAL_OPERAND with the lowest FIELD (`extra` are fields at fault for other
reasons than the register code), then LATCH_UNWRITTEN, then readiness (R141). -/
def checkOpds (f : Fibre) (opds : List Opd) (extra : List Nat) : OpdCheck :=
  match leastField (extra ++ (opds.filter (fun o => o.illegal f.window)).map (·.field)) with
  | some x => .illegal x
  | none =>
    match leastField ((opds.filter (fun o => o.unwritten f)).map (·.field)) with
    | some x => .unwritten x
    | none => if opds.any (fun o => o.notReady f) then .stall else .ok

/-- The FIELD of an operand whose value a word does not take; in a task a word that it may not hold is not checked so far
(R381). -/
def badValue (bad inTask : Bool) (field : Nat) : List Nat := if bad && !inTask then [field] else []

/-! ### Immediates (R49) -/

/-- An immediate of `n` bits, widened by LIT and LITH to its sign-extended concatenation. -/
def Fibre.widen (f : Fibre) (n imm : Nat) : Word :=
  match f.hints.lit, f.hints.lith with
  | some l, some h => sextNat (n + 44) (h.toNat * 2 ^ (n + 22) + l.toNat * 2 ^ n + imm)
  | some l, none => sextNat (n + 22) (l.toNat * 2 ^ n + imm)
  | none, _ => sextNat n imm

/-! ### KSRC (R50) -/

/-- Whether KSRC replaces SB. -/
def Fibre.ksrcB (f : Fibre) : Bool := f.hints.ksrc.isSome

/-- Whether KSRC also replaces SA. -/
def Fibre.ksrcA (f : Fibre) : Bool := f.hints.ksrc.elim false (·.2)

/-- The FIELD at fault for a KSRC index of 384 or more (R50). -/
def Fibre.ksrcBad (f : Fibre) : List Nat :=
  match f.hints.ksrc with
  | none => []
  | some (k, two) => if 384 ≤ k.toNat || (two && 384 ≤ k.toNat + 1) then [6] else []

/-- SA of a word that KSRC may replace. -/
def State.srcA (s : State) (f : Fibre) (a : BitVec 6) : Word :=
  match f.hints.ksrc with
  | some (k, true) => s.kreg f (k.toNat + 1)
  | _ => f.src a

/-- SB of a word that KSRC may replace. -/
def State.srcB (s : State) (f : Fibre) (b : BitVec 6) : Word :=
  match f.hints.ksrc with
  | some (k, _) => s.kreg f k.toNat
  | none => f.src b

/-- The source operands SA and SB of an A-format word, less those KSRC replaces. -/
def Fibre.srcsAB (f : Fibre) (a b : BitVec 6) : List Opd :=
  (if f.ksrcA then [] else [⟨2, a, .src⟩]) ++ (if f.ksrcB then [] else [⟨3, b, .src⟩])

/-! ### TVAL of the causes of R53 -/

/-- TVAL with FIELD and the offending word. -/
def tvalWord (field : Nat) (w : W32) : Word := BitVec.ofNat 64 (field * 2 ^ 32 + w.toNat)

end Sys2Proof.Machine
end

