-- ==== Sys2Proof/Machine/Rendezvous.lean ====
section
/-! DEFINITION. What the arrival or the end of a fibre brings about: generations of belays (chapter 09), the issue of a
matrix operation (R350), STEP and ROPEBAR (R120, R182). -/

namespace Sys2Proof.Machine

/-! ### Waking and results -/

/-- A fibre released from a wait: eligible, with its age set to now (R147). -/
def Fibre.wake (f : Fibre) (now : Time) : Fibre := { f with status := .eligible, age := now }

/-- The number that stands for the bottom hardware entry of the return stack among registers not ready (R175). -/
def rsReg : Nat := 64

/-- The number that stands for the word a TBLD of an expression entry reads (R363). -/
def tblReg : Nat := 65

/-- A value for a register that waited: a g register, the refilled entry of the return stack (R175), the word of a TBLD. -/
def Fibre.writeLong (f : Fibre) (n : Nat) (v : Word) : Fibre :=
  if n = rsReg then { f with rstack := f.rstack ++ [v] }
  else if n = tblReg then { f with tableWord := some v }
  else f.writeG n v

/-- A long-latency result written (R144): each register is written if it still waits for this access, and is ready;
flags merge into FST (R133). -/
def Fibre.deliver (f : Fibre) (uid : Nat) (writes : List (Nat × Word)) (flags : Word) : Fibre :=
  let f := writes.foldl (fun f w => if f.notReady.any (fun p => p.1 == w.1 && p.2 == uid) then f.writeLong w.1 w.2 else f) f
  { f.setFlags flags with notReady := f.notReady.filter (fun p => p.2 != uid) }

/-- A cause posted to a fibre (R24); dropped when the fibre has ended. -/
def State.post (s : State) (k : FKey) (cause : Nat) (tval : Word) : State :=
  s.onFibre k fun f => if f.status = .ended then f else { f with posted := f.posted ++ [⟨cause, tval, s.ftime⟩] }

/-- REMOTE_ERROR posted for an access of a fibre that a departed peer completes, unless FST.RTE is 0 or one waits (R414). -/
def State.remoteError (s : State) (k : FKey) (va : Nat) : State :=
  match s.fibre? k with
  | some f => if f.rte && !(f.posted.any fun p => p.cause == 0x06) then s.post k 0x06 (BitVec.ofNat 64 va) else s
  | none => s

/-! ### Belay configuration (R284 to R286) -/

/-- KIND of a configuration word. -/
def cfgKind (c : Word) : Nat := bitsOf c 28 26

/-- BSET of a configuration word. -/
def cfgBset (c : Word) : Nat := bitsOf c 36 34

/-- Members named by COUNT; 0 means 32. -/
def cfgCount (c : Word) : Nat := if bitsOf c 4 0 = 0 then 32 else bitsOf c 4 0

/-- The FIDs of the members, in member order (R286). -/
def cfgMembers (c : Word) (l : Launch) : List Nat :=
  if cfgBset c = 0 then (upFrom 0 (cfgCount c)).map fun m => bitsOf c 25 16 + bitsOf c 15 8 * m
  else if cfgBset c = 1 then upFrom 0 l.nfib
  else upFrom (l.firstFid (cfgBset c - 4)) (l.fibresOf (cfgBset c - 4))

/-- The member index of a FID. -/
def memberOf (members : List Nat) (fid : Nat) : Option Nat :=
  (members.zip (upFrom 0 members.length)).findSome? fun p => if p.1 = fid then some p.2 else none

/-- Whether a configuration word is valid (R285); DIS words are checked apart. -/
def cfgValid (c : Word) (l : Launch) : Bool :=
  let kind := cfgKind c
  let bset := cfgBset c
  let stride := bitsOf c 15 8
  let base := bitsOf c 25 16
  bitsOf c 7 5 == 0 && bitsOf c 63 37 == 0 && decide (kind < 4) && bitsOf c 33 32 != 3 && bset != 2 && bset != 3 &&
  (kind == 2 || (bitsOf c 31 29 == 0 && bitsOf c 33 32 == 0)) && (kind == 3 || bset == 0) &&
  (if bset == 0 then decide (1 ≤ stride) && decide (base + stride * (cfgCount c - 1) < l.nfib)
   else bitsOf c 4 0 == 0 && stride == 0 && base == 0 && (bset == 1 || l.fibresOf (bset - 4) != 0)) &&
  (kind != 1 || cfgCount c == 16)

/-- Sub-element size in bits of a configuration word (R284). -/
def cfgSub (c : Word) : Nat := 8 * 2 ^ bitsOf c 33 32

/-! ### Generations (R292, R293) -/

/-- The belay of a team. -/
def Team.belay (t : Team) (bl : Nat) : Belay := nth Belay.initial t.belays bl

/-- A team with a belay replaced. -/
def Team.setBelay (t : Team) (bl : Nat) (b : Belay) : Team := { t with belays := setNth Belay.initial t.belays bl b }

/-- Whether the fibre of a FID of a team has ended; a fibre that does not exist has. -/
def State.fidEnded (s : State) (launch team fid : Nat) : Bool :=
  match s.fibre? ⟨launch, team, fid⟩ with
  | some f => decide (f.status = .ended)
  | none => true

/-- Whether a member is absent from the open generation (R292). -/
def State.absent (s : State) (launch team : Nat) (b : Belay) (fid : Nat) : Bool :=
  s.fidEnded launch team fid || b.late.contains fid

/-- Whether the open generation is complete (R293): some member signed, and each signed or is absent. -/
def State.complete (s : State) (launch team : Nat) (b : Belay) (members : List Nat) : Bool :=
  b.armed && !b.signed.isEmpty &&
    members.all fun fid => b.signed.any (fun g => g.fid == fid) || s.absent launch team b fid

/-- The value of a member in a generation, 0 if it did not sign. -/
def Belay.value (b : Belay) (m : Nat) : Word :=
  (b.signed.find? fun g => g.member == m).elim 0 (·.value)

/-- Sub-element `j` of `size` bits of a register. -/
def subElem (size : Nat) (w : Word) (j : Nat) : Nat := w.toNat / 2 ^ (size * j) % 2 ^ size

/-- pick(m, j) of R294: what sub-element j of an exchanging member receives. -/
def Belay.pick (b : Belay) (size : Nat) (g : Sign) (j : Nat) : Nat :=
  let e := (nth (0xFF#8) b.pattern (8 * g.member + j)).toNat
  if e = 0xFF then 0
  else if e = 0xFE then subElem size g.old j
  else subElem size (b.value (e / 8)) (e % 8)

/-- The exchanged data of a member (R293, R294). -/
def Belay.exchanged (b : Belay) (g : Sign) : Word :=
  let size := cfgSub b.config
  BitVec.ofNat 64 ((upFrom 0 (64 / size)).foldl (fun acc j => acc + b.pick size g j * 2 ^ (size * j)) 0)

/-- The values of the members by index, 0 for those that did not sign. -/
def Belay.values (b : Belay) (n : Nat) : List Word := (upFrom 0 n).map b.value

/-- The larger of two words as signed. -/
def smaxWord (x y : Word) : Word := if x.toInt < y.toInt then y else x

/-- What a signer receives at the completion of a generation of `n` members (R293): register writes. -/
def Belay.share (b : Belay) (n : Nat) (g : Sign) : List (Nat × Word) :=
  let vs := b.values n
  let sum : List Word → Word := fun l => l.foldl (· + ·) 0
  match b.op with
  | 1 => [(g.d, ((b.signed.map (·.member)).foldl Nat.min n |> b.value))]
  | 2 => [(g.d, BitVec.ofNat 64 ((upFrom 0 n).foldl (fun acc m => if b.value m = 0 then acc else acc + 2 ^ m) 0))]
  | 3 => [(g.d, sum (vs.take g.member))] ++ (if g.member + 1 = n then [(g.d + 1, sum vs)] else [])
  | 4 => [(g.d, b.exchanged g)]
  | 5 => [(g.d, (b.gen + 1).setWidth 64)]
  | 6 => [(g.d, match vs with | [] => 0 | v :: r => r.foldl smaxWord v)]
  | _ => [(g.d, sum vs)]

/-- A belay after its generation has completed. -/
def Belay.opened (b : Belay) : Belay :=
  { b with gen := b.gen + 1, signed := [], op := 0, late := [], aFrag := [] }

/-- The result of a generation handed to every signer that has not ended; W = 1 signers wake (R293). -/
def State.handOut (s : State) (launch team bl : Nat) (b : Belay) (n : Nat) : State :=
  b.signed.foldl (fun s g => s.onFibre ⟨launch, team, g.fid⟩ fun f =>
    if f.status = .ended ∨ b.late.contains g.fid then f
    else
      let f := f.deliver g.uid (b.share n g) 0
      if f.status = .blocked (.belay bl) then f.wake s.ftime else f) s

/-! ### The issue of a matrix operation (R349 to R351) -/

/-- A field of a descriptor of the team's store (R334). -/
def descField (d : List Byte) (off n : Nat) : Nat := natLE ((d.drop off).take n)

/-- K of a matrix form and the FORMAT of its B (R346). -/
def mmaK (fn : Nat) : Nat := if fn = 2 ∨ fn = 3 then 16 else 32
def mmaFormat (fn : Nat) : Nat := if fn ≤ 1 then 1 else fn

/-- Bytes of an element of B. -/
def mmaSize (fn : Nat) : Nat := if fn = 2 ∨ fn = 3 then 2 else 1

/-- The scratchpad addresses and lengths of the rows of the B slice of an MMA, and of its block scale (R335, R349). -/
def sliceSpans (d : List Byte) (fn k0 n0 : Nat) : List (Nat × Nat) :=
  let base := descField d 0 8
  let rows := (upFrom 0 (mmaK fn)).map fun k =>
    (base + (k0 + k) * descField d 20 4 + n0 * mmaSize fn, descField d 10 1 * mmaSize fn)
  let blocks := (descField d 16 4 + 127) / 128
  let scale := if fn = 1 ∧ descField d 40 1 % 2 = 1 then
      [(descField d 24 8 + 4 * (k0 / 128 * blocks + n0 / 128), 4)]
    else []
  rows ++ scale

/-- The bytes of spans of a team's scratchpad. -/
def Team.spanBytes (t : Team) (spans : List (Nat × Nat)) : List Byte :=
  spans.flatMap fun p => memRead t.spad p.1 p.2

/-- Whether a core's matrix queue is full (R344). -/
def State.queueFull (s : State) (core : Nat) : Bool := decide (64 ≤ (s.mat.queue.filter fun e => e.core == core).length)

/-- The banks a team holds and can use, ascending. -/
def State.banksOf (s : State) (launch team : Nat) : List Nat :=
  match s.mat.holds.find? fun h => h.launch == launch && h.team == team && !h.freed with
  | some h => h.banks
  | none => []

/-- Whether a tile of a width is valid for held banks (R339). -/
def tileValid (banks : List Nat) (tile width : Nat) : Bool :=
  tile % (width / 16) == 0 && decide (tile + width / 16 ≤ 16 * banks.length)

/-- A bank mask. -/
def bankMask (banks : List Nat) : Nat := banks.foldl (fun m b => m + 2 ^ b) 0

/-- TVAL of TENSOR_FAULT (R337). -/
def tensorTval (tdn reason detail bl : Nat) (async : Bool) : Word :=
  BitVec.ofNat 64 (tdn + reason * 2 ^ 8 + detail * 2 ^ 16 + bl * 2 ^ 32 + (if async then 2 ^ 37 else 0))

/-- TVAL of ACC_FAULT (R343). -/
def accTval (reason tile held bl : Nat) (async : Bool) : Word :=
  BitVec.ofNat 64 (reason + tile * 2 ^ 8 + held * 2 ^ 16 + bl * 2 ^ 32 + (if async then 2 ^ 37 else 0))

/-- TVAL of BELAY_FAULT (R301). -/
def belayTval (bl reason detail : Nat) (gen : BitVec 32) : Word :=
  BitVec.ofNat 64 (bl + reason * 2 ^ 8 + detail * 2 ^ 16 + gen.toNat * 2 ^ 32)

/-- A fault of the issue posted to every signer that has not ended (R350). -/
def State.postSigners (s : State) (launch team : Nat) (b : Belay) (cause : Nat) (tval : Word) : State :=
  (b.signed.filter fun g => !(b.late.contains g.fid)).foldl (fun s g => s.post ⟨launch, team, g.fid⟩ cause tval) s

/-- What an MMA sign recorded as SB and RU: `value` holds SB, `old` bit 0 holds RU. -/
def Sign.ru (g : Sign) : Bool := bitOf g.old 0

/-- The issue of a completed MMA generation (R350): the first failing check posts its fault; otherwise the operation
enters the core's matrix queue with A, the scales and a copy of the descriptor, none of its B slice read yet, and the latch
follows RU (R351). An issue without a latch uses no A of a member that is absent; the latch that RU = 1 then keeps has an empty
row for it, which a later generation with that member reads as zeros: R351 does not say what it holds (log 75). -/
def State.issueMma (s : State) (t : Team) (bl : Nat) (b : Belay) (members : List Nat) : State :=
  match b.signed with
  | [] => s
  | g0 :: rest =>
    let low := rest.foldl (fun (x g : Sign) => if g.member < x.member then g else x) g0
    let differs := (b.signed.filter fun g => g.value != low.value || g.ru != low.ru).map (·.member)
    match leastField differs with
    | some m => s.postSigners t.launch t.idx b 0x07 (belayTval bl 8 m b.gen)
    | none =>
      let sb := low.value
      let tile := bitsOf sb 23 16
      let td := bitsOf sb 31 24
      let n0 := bitsOf sb 47 32
      let k0 := bitsOf sb 63 48
      let banks := s.banksOf t.launch t.idx
      match nth none t.tds td with
      | none => s.postSigners t.launch t.idx b 0x0B (tensorTval td 1 0 bl true)
      | some d =>
        let n := descField d 10 1
        let k := mmaK b.op
        if descField d 8 1 != 0 || descField d 9 1 != mmaFormat b.op then
          s.postSigners t.launch t.idx b 0x0B (tensorTval td 3 0 bl true)
        else if k0 % k != 0 || n0 % n != 0 || decide (descField d 12 4 < k0 + k) || decide (descField d 16 4 < n0 + n) then
          s.postSigners t.launch t.idx b 0x0B (tensorTval td 7 0 bl true)
        else if banks.isEmpty then s.postSigners t.launch t.idx b 0x0A (accTval 3 tile 0 bl true)
        else if !(tileValid banks tile n) then
          s.postSigners t.launch t.idx b 0x0A (accTval 4 tile (bankMask banks) bl true)
        else
          let rowOf := fun (m : Nat) => lookupD [] b.aFrag m
          let a : List (List Word) := match b.aLatch with
            | some l => l
            | none => (upFrom 0 16).map fun m => (rowOf m).take 4
          let present := (upFrom 0 16).filter fun m => !(s.absent t.launch t.idx b (nth 0 members m)) ||
            b.signed.any fun g => g.member == m && !(b.late.contains g.fid) && !(s.fidEnded t.launch t.idx g.fid)
          let rows := present.map fun m => (m, nth [] a m)
          let sa := present.map fun m => (m, (nth 0 (rowOf m) 4).setWidth 32)
          let unread := (sliceSpans d b.op k0 n0).flatMap fun p => List.replicate p.2 none
          let e : MatEntry := ⟨s.uid, t.core, t.launch, t.idx, banks, tile, n, d, .mma b.op rows sa k0 n0 unread⟩
          let s := { s with uid := s.uid + 1, mat := { s.mat with queue := s.mat.queue ++ [e] } }
          s.onTeam t.launch t.idx fun t => t.setBelay bl { t.belay bl with aLatch := if low.ru then some a else none }

/-- A belay whose generation is complete hands out its results, or issues its matrix operation, and opens the next
generation (R293, R350). One that the end of a fibre completes while the matrix queue is full waits for a place there, as a
completing sign does (R344; log 75). -/
def State.tryBelay (s : State) (launch team bl : Nat) : State :=
  match s.team? launch team, s.launch? launch with
  | some t, some l =>
    let b := t.belay bl
    let members := cfgMembers b.config l
    if s.complete launch team b members && !(cfgKind b.config == 1 && s.queueFull t.core) then
      let s := if cfgKind b.config = 1 then s.issueMma t bl b members else s.handOut launch team bl b members.length
      s.onTeam launch team fun t => t.setBelay bl (t.belay bl).opened
    else s
  | _, _ => s

/-- Every belay of a team looked at, after one of its fibres has ended. -/
def State.tryBelays (s : State) (launch team : Nat) : State :=
  (upFrom 0 32).foldl (fun s bl => s.tryBelay launch team bl) s

/-- The belays of the teams of a core looked at, after its matrix queue has lost an entry (R344). -/
def State.queueMoves (s : State) (core : Nat) : State :=
  (s.teams.filter fun t => t.core == core && !t.ended).foldl (fun s t => s.tryBelays t.launch t.idx) s

/-! ### STEP and ROPEBAR (R120, R182) -/

/-- FLAGS.RESTART of a launch (R115). -/
def Launch.restart (l : Launch) : Bool := l.field 39 1 % 2 == 1

/-- A lost rope that other ropes wait for at STEP (R127). -/
def Launch.awaitsRope (l : Launch) : Bool := l.lost.any fun x => !x.counted && !x.restarted

/-- Whether the fibres of a rope count as arrived at every STEP (R127). -/
def Launch.countsRope (l : Launch) (rope : Nat) : Bool := l.lost.any fun x => x.rope == rope && x.counted

/-- Whether some fibre of a launch has arrived at STEP, and every one has, or has ended (R120), or counts as arrived with
its lost rope (R127). -/
def State.stepReady (s : State) (l : Launch) : Bool :=
  !l.awaitsRope && (s.fibres.any fun f => f.key.launch == l.id && decide (f.status ≠ .ended) && f.arrivedStep) &&
    s.fibres.all fun f => f.key.launch != l.id || decide (f.status = .ended) || f.arrivedStep || l.countsRope (f.key.team / l.rope)

/-- Whether the launch engine changes the launch's die set next, which releases the step itself (R121). -/
def State.dieChangeNext (s : State) (id : Nat) : Bool :=
  match s.agenda with
  | .event (.dieSetChange l _) :: _ => l == id
  | _ => false

/-- The step released: STEPN rises by 1 and every waiting fibre goes on (R120); losses of ropes belong to a step. -/
def State.releaseStep (s : State) (id : Nat) : State :=
  let s := s.onLaunch id fun l => { l with stepn := l.stepn + 1 }
  { s with fibres := s.fibres.map fun f =>
      if f.key.launch == id && decide (f.status ≠ .ended) then
        let f := { f with arrivedStep := false }
        if f.status = .blocked .step then f.wake s.ftime else f
      else f }

/-- The step barrier looked at. -/
def State.tryStep (s : State) (id : Nat) : State :=
  match s.launch? id with
  | some l => if s.stepReady l && !(s.dieChangeNext id) then s.releaseStep id else s
  | none => s

/-- Whether a fibre belongs to a rope of a launch (R117). -/
def inRope (l : Launch) (rope : Nat) (f : Fibre) : Bool := f.key.launch == l.id && f.key.team / l.rope == rope

/-- The rope barrier looked at: when every fibre of the rope has arrived or ended, those that wait go on together. -/
def State.tryRope (s : State) (id rope : Nat) : State :=
  match s.launch? id with
  | some l =>
    if s.fibres.all fun f => !(inRope l rope f) || decide (f.status = .ended) || f.arrivedRope then
      { s with fibres := s.fibres.map fun f =>
          if inRope l rope f && decide (f.status ≠ .ended) then
            let f := { f with arrivedRope := false }
            if f.status = .blocked .ropebar then f.wake s.ftime else f
          else f }
    else s
  | none => s

/-! ### Ends -/

/-- An entry of the completion record (R129). -/
def State.record (s : State) (launch : Nat) (e : RecEntry) : State :=
  s.onLaunch launch fun l => { l with entries := l.entries ++ [e] }

/-- A missed promise reported: posted to the issuing fibre, or recorded once that has ended (R24, R26). -/
def State.postMiss (s : State) (issuer : FKey) (ticket : Word) : State :=
  if 65536 ≤ issuer.fid then s.record issuer.launch ⟨2, 0x05, issuer.fid % 65536, issuer.team, ticket⟩
  else s.post issuer 0x05 ticket

/-- Banks that a team has freed return to the pool once no queue entry uses them (R342). -/
def State.reclaim (s : State) : State :=
  let used := fun (h : BankHold) => s.mat.queue.any fun e =>
    e.core == h.core && e.launch == h.launch && e.team == h.team && decide (e.banks = h.banks)
  { s with mat := { s.mat with holds := s.mat.holds.filter fun h => !h.freed || used h } }

/-- A team whose last fibre has ended (R179): its commands under unresolved slots, held or still to be held behind another, are
discarded and counted (R32), its banks are freed and recorded (R342). -/
def State.endTeam (s : State) (launch team : Nat) : State :=
  let isHeld := fun (c : Cmd) => c.issuer.launch == launch && c.issuer.team == team &&
    (decide (c.state = .held) || (decide (c.state = .presented) && c.guard.isSome))
  let held := (s.cmds.filter isHeld).length
  let s := { s with cmds := s.cmds.filter fun c => !(isHeld c) }
  let s := if held = 0 then s else s.record launch ⟨3, 0, 0xFFFF, team, BitVec.ofNat 64 held⟩
  let banks := s.banksOf launch team
  let freed := s.mat.holds.map fun h => if h.launch == launch && h.team == team then { h with freed := true } else h
  let s := if banks.isEmpty then s else
      { s.record launch ⟨4, 0x0A, 0xFFFF, team, BitVec.ofNat 64 (bankMask banks)⟩ with
        mat := { s.mat with holds := freed } }.reclaim
  let fifo := s.mat.abFifo.filter fun r => !(r.fibre.launch == launch && r.fibre.team == team)
  let s := { s with mat := { s.mat with abFifo := fifo } }
  s.onTeam launch team fun t => { t with ended := true }

/-- What follows the end of a fibre: it is absent from every armed belay, counts as arrived at STEP and ROPEBAR, and
its team ends with its last fibre (R120, R179, R182, R292). -/
def State.afterEnd (s : State) (k : FKey) : State :=
  let s := s.tryBelays k.launch k.team
  let s := match s.launch? k.launch with
    | some l => s.tryRope k.launch (k.team / l.rope)
    | none => s
  let s := s.tryStep k.launch
  if s.fibres.all fun f => !(f.key.launch == k.launch && f.key.team == k.team) || decide (f.status = .ended) then
    s.endTeam k.launch k.team
  else s

/-- The key under which what an ended fibre leaves behind goes on: that of no fibre, since its slot may start another
(R178); a record gives the FID modulo 65,536. -/
def orphanKey (k : FKey) : FKey := { k with fid := k.fid + 65536 }

/-- The release store or atomic that an ended fibre still holds (R161, R264). -/
def Fibre.leftHeld (f : Fibre) : List HeldOp :=
  match f.relHold with
  | some (scope, .atomic a) => [⟨orphanKey f.key, f.core, scope, f.gwmax, .atomic { a with fibre := orphanKey f.key, dst := none }⟩]
  | some (scope, h) => [⟨orphanKey f.key, f.core, scope, f.gwmax, h⟩]
  | none => []

/-- Whether a load goes on without its fibre: the data of a queued ACCLD and of a pattern table, which are the team's (R360,
R363). -/
def LoadReq.outlives (l : LoadReq) : Bool :=
  match l.dst with
  | .regs _ => false
  | _ => true

/-- What a fibre that ends leaves in the launch's record: each missed promise posted to it and not delivered (R26). -/
def State.recordMisses (s : State) (f : Fibre) : State :=
  (f.posted.filter fun p => p.cause == 5).foldl
    (fun s p => s.record f.key.launch ⟨2, 0x05, f.key.fid, f.key.team, p.tval⟩) s

/-- A fibre that ends: it leaves its batches; nobody reads its loads and results; its writes, its release hold, its commands
and pushes go on without it, and a task kept for the re-execution of its WPOP returns to QUEUED (R161, R384). -/
def State.retireFibre (s : State) (f : Fibre) : State :=
  let mine := fun (k : FKey) => decide (k = f.key)
  let pass := fun (k : FKey) => if k = f.key then orphanKey k else k
  let s := s.recordMisses f
  let s := f.keptTask.elim s fun t => s.moveTask t.wl t.uid (.queued f.core)
  let s := s.setFibre
    { f with status := .ended, region := [], posted := [], relHold := none, acqHold := false, task := none,
             keptTask := none, notReady := [], hints := Hints.none }
  let loads := s.m.loads.filter fun l => !(mine l.fibre) || l.outlives
  let m := { s.m with
    loads := loads.map fun l => { l with fibre := pass l.fibre },
    results := s.m.results.filter fun r => !(mine r.fibre),
    spads := (s.m.spads.filter fun a => !(mine a.fibre && a.load.isSome)).map fun a => { a with fibre := pass a.fibre },
    atoms := s.m.atoms.map fun a => if mine a.fibre then { a with fibre := pass a.fibre, dst := none } else a,
    outs := s.m.outs.map fun o => { o with
      fibres := o.fibres.map pass, backFor := o.backFor.map pass, vas := o.vas.map fun v => (pass v.1, v.2) },
    held := s.m.held ++ f.leftHeld }
  { s with m := m,
           batches := s.batches.map (fun b => { b with members := b.members.filter fun k => !(mine k) }),
           cmds := s.cmds.map (fun c => { c with issuer := pass c.issuer }),
           cairn := { s.cairn with pushes := s.cairn.pushes.map fun p => { p with issuer := pass p.issuer } },
           mat := { s.mat with abFifo := s.mat.abFifo.filter fun r => !(mine r.fibre) } }

end Sys2Proof.Machine
end

