-- ==== Sys2Proof/Machine/Translate.lean ====
section
/-! DEFINITION. Translation of global virtual addresses: the four-level walk, its fault classes, cached entries and
denials (R219, R242 to R248). -/

namespace Sys2Proof.Machine

/-- Why a translation fails (R247): the class, and the physical address of the entry. -/
structure XFault where
  cls : Nat
  entry : Nat
  deriving DecidableEq, Repr

/-- An entry of a table, read as a DEVICE-scope read at its home (R246). Tables carry the device key (log 15). -/
def State.tableEntry (s : State) (pa : Nat) : Nat :=
  natLE (s.m.homeBytes s.ftime .home (Place.dram (pa - pa % 128)) none 0 (pa % 128) 8)

/-- Whether a physical address lies in a stack that exists (R245, R247). -/
def paOk (pa : Nat) : Bool := decide (pa / 2 ^ 36 < 12)

/-- Whether a key slot holds a key (R428). -/
def State.keyLoaded (s : State) (slot : Nat) : Bool := slot == 0 || s.mg.keySlots.any fun k => k.1 == slot

/-- The number of the key in a slot: 0 for the device's own key, an even number for each key that can be loaded (R428). The odd ones
stand for contents that the spec leaves undefined. -/
def State.keyId (s : State) (slot : Nat) : Nat :=
  if slot = 0 then 0 else 2 * (lookupD 0 s.mg.keySlots slot) + 2

/-- The number under which the next range of undefined contents is kept. -/
def State.undefId (s : State) : Nat := 2 * s.mg.deadKeys + 1

/-- A leaf entry's translation of the 64 KiB page `sub` of it (R244): class 3 for a bad entry, class 4 for an empty key
slot. `big` is a 2 MiB leaf. -/
def State.leafOf (s : State) (e entry sub : Nat) (big : Bool) : Except XFault Leaf :=
  let frame := e / 2 ^ 26
  let cmp := e / 2 ^ 4 % 4
  let rpl := e / 2 ^ 6 % 2
  let peer := e / 2 ^ 7 % 2
  let key := e / 2 ^ 12 % 8192
  let pa := frame * 65536
  let bad := e / 2 ^ 8 % 16 != 0 || e / 2 ^ 25 % 2 != 0 || decide (2 ≤ cmp) || (rpl == 1 && peer == 1) ||
    (peer == 0 && (!(paOk pa) || (big && frame % 32 != 0) || (rpl == 1 && decide (3 ≤ pa / 2 ^ 36))))
  if bad then .error ⟨3, entry⟩
  else if !(s.keyLoaded key) then .error ⟨4, entry⟩
  else
    let at_ := pa + sub * 65536
    let base :=
      if peer == 1 then
        let id := frame / 2 ^ 26
        let off := (frame % 2 ^ 26) * 65536 + sub * 65536
        if id = s.fab.id then Place.host off else .peer id off
      else if rpl == 1 then .repl at_ else .dram at_
    .ok ⟨base, e / 2 % 2 == 1, cmp, s.keyId key⟩

/-- A walk from a table of a level (4 to 1): the leaf of the address, or why there is none, and the physical address of
the entry it came from (R242 to R245). -/
def State.walkFrom (s : State) : Nat → Nat → Nat → Except XFault (Leaf × Nat)
  | 0, _, _ => .error ⟨3, 0⟩
  | lv + 1, table, va =>
    let shift := if lv = 0 then 16 else 21 + 12 * (lv - 1)
    let size := if lv = 0 then 32 else 4096
    let pa := table + 8 * (va / 2 ^ shift % size)
    let e := s.tableEntry pa
    let leaf := e / 2 ^ 3 % 2 == 1
    if e % 2 = 0 then .error ⟨1, pa⟩
    else if leaf then
      if lv = 0 then (s.leafOf e pa 0 false).map (·, pa)
      else if lv = 1 then (s.leafOf e pa (va / 2 ^ 16 % 32) true).map (·, pa)
      else .error ⟨3, pa⟩
    else if lv = 0 then .error ⟨3, pa⟩
    else
      let next := e / 2 ^ 8 * 256
      let align := if lv = 1 then 256 else 32768
      if e / 2 % 4 != 0 || e / 2 ^ 4 % 16 != 0 || next % align != 0 || !(paOk next) then .error ⟨3, pa⟩
      else s.walkFrom lv next va

/-- The walk of a function's tables. TROOT.EN = 0 translates nothing (R249). -/
def State.walk (s : State) (fn va : Nat) : Except XFault (Leaf × Nat) :=
  let root := (s.fn fn).troot.toNat
  if root % 2 = 0 then .error ⟨0, 0⟩
  else s.walkFrom 4 (root / 2 ^ 15 * 2 ^ 15) va

/-- The entry a holder has cached for a page (R246). -/
def State.cached (s : State) (h : Holder) (fn vpn : Nat) : Option Leaf :=
  (s.x.tlb.find? fun t => decide (t.holder = h) && t.fn == fn && t.vpn == vpn).map (·.leaf)

/-- What becomes of an address: a leaf, a fault of a class, or an address that no table translates. -/
inductive Xlat where
  | ok (leaf : Leaf)
  /-- A page fault (class 1 or 2) not denied: it parks (R154). -/
  | page (cls : Nat)
  /-- The target's export table has to be walked first (R253, R402). -/
  | walk (peer frame : Nat) (write : Bool)
  /-- ACCESS_VIOLATION: an unusable address, translation off, a denied page, or class 3 or 4, with the bad entry. -/
  | violation (cls entry : Nat)
  deriving DecidableEq, Repr

/-- A fault of class 1 or 2 of a page: parks unless it is denied (R248). -/
def State.faulted (s : State) (fn vpn cls : Nat) : Xlat :=
  if (s.fn fn).denials.contains vpn then .violation cls 0 else .page cls

/-- A leaf of a peer page checked against the peer's export entry (R253, R402): its translation is held under a lease,
or the walk has to be made, as it has for a read where only a write has been refused; an access to a departed peer needs none (R413). A page of host memory is translated by ATS,
whose failure is a class 1 fault (R416). -/
def State.admitPeer (s : State) (fn vpn : Nat) (write : Bool) (leaf : Leaf) : Xlat :=
  match leaf.base with
  | .peer id a =>
    if s.departed id then .ok leaf
    else
      match s.x.peers.find? fun p => p.peer == id && p.frame == a / 65536 && (decide (s.ftime < p.until_) || !p.used) with
      | none => .walk id (a / 65536) write
      | some p =>
        if p.cls = 0 then (if write && !p.w then s.faulted fn vpn 2 else .ok leaf)
        else if p.cls = 2 && !write then .walk id (a / 65536) write
        else if p.cls ≤ 2 then s.faulted fn vpn p.cls
        else .violation p.cls p.entry
  | .host a =>
    if !s.fab.hostUp then .ok leaf
    else
      let frame := fn * 2 ^ 26 + a / 65536
      match s.x.peers.find? fun p => p.peer == atsPeer && p.frame == frame && (decide (s.ftime < p.until_) || !p.used) with
      | none => .walk atsPeer frame write
      | some p => if p.cls = 0 && (p.w || !write) then .ok leaf else s.faulted fn vpn 1
  | _ => .ok leaf

/-- A leaf checked for the access (R247 class 2). -/
def State.settleXlat (s : State) (fn vpn : Nat) (write : Bool) (leaf : Leaf) : Xlat :=
  if write && !leaf.w then s.faulted fn vpn 2 else s.admitPeer fn vpn write leaf

/-- The active multicast window of a function that holds an address (R410): its group, and the exported frame and offset. -/
def State.castWindow (s : State) (fn va : Nat) : Option (Nat × Nat × Nat) :=
  (s.fn fn).mcwin.findSome? fun w =>
    let base := bitsOf w.1 56 16 * 65536
    if bitOf w.1 0 && decide (base ≤ va) && decide (va < base + 65536 * bitsOf w.2 15 0) then
      some (bitsOf w.2 31 16, bitsOf w.2 57 32 + (va - base) / 65536, (va - base) % 65536)
    else none

/-- Translation of an address for an access of a holder. An address in a multicast window is none (R410), nor is one of a
function whose translation is off (R249), nor one of a denied page, whatever the tables have come to say (R248, R265). A
cached entry may serve even when the tables have changed, until an invalidation drops it; which form serves is free (R246,
log 9). -/
def State.translate (s : State) (h : Holder) (fn va : Nat) (write : Bool) : Xlat :=
  let vpn := va / 65536
  if 2 ^ 57 ≤ va || (s.castWindow fn va).isSome || (s.fn fn).troot.toNat % 2 == 0 || (s.fn fn).denials.contains vpn then
    .violation 0 0
  else
    let fresh :=
      match s.walk fn va with
      | .ok (leaf, _) => s.settleXlat fn vpn write leaf
      | .error ⟨0, _⟩ => .violation 0 0
      | .error ⟨1, _⟩ => s.faulted fn vpn 1
      | .error ⟨c, e⟩ => .violation c e
    match s.cached h fn vpn with
    | none => fresh
    | some leaf => if Config.freeNat s.fresh % 2 = 0 then s.settleXlat fn vpn write leaf else fresh

/-- The place of an address under a leaf. -/
def placeIn (leaf : Leaf) (va : Nat) : Place := leaf.base.add (va % 65536)

/-- The accessed bit of the entry of an address set by a DEVICE-scope atomic OR, when VG8 first caches the leaf (R246): it
acts on the newest value of the entry, pending or not, and is no write where that has the bit (R78, R259). -/
def State.markAccessed (s : State) (fn va : Nat) : State :=
  match s.walk fn va with
  | .ok (_, pa) =>
    let old := natLE (s.m.homeNewest .home (Place.dram pa).line 0 (Place.dram pa).off 1)
    if old / 4 % 2 = 1 then s
    else (s.agentWrite (.dram pa) [BitVec.ofNat 8 (old + 4)] 0 0 .none).1
  | .error _ => s

/-- The state with a cached entry put in place of the holder's old one for the page. -/
def State.putTlb (s : State) (e : TlbEnt) : State :=
  let rest := s.x.tlb.filter (fun t => !(decide (t.holder = e.holder) && t.fn == e.fn && t.vpn == e.vpn))
  { s with x := { s.x with tlb := e :: rest } }

/-- The translation of a peer page marked as used by the access that asked for it. -/
def State.usePeer (s : State) (p : Place) : State :=
  match p with
  | .peer id a =>
    { s with x := { s.x with peers := s.x.peers.map fun x =>
        if x.peer == id && x.frame == a / 65536 then { x with used := true } else x } }
  | .host a =>
    { s with x := { s.x with peers := s.x.peers.map fun x =>
        if x.peer == atsPeer && x.frame % 2 ^ 26 == a / 65536 then { x with used := true } else x } }
  | _ => s

/-- The state in which a holder has cached the leaf of an address; the prediction of its page starts at 8 (R239). -/
def State.cache (s : State) (h : Holder) (fn va : Nat) (leaf : Leaf) : State :=
  let s := s.usePeer leaf.base
  if s.cached h fn (va / 65536) = some leaf then s else (s.markAccessed fn va).putTlb ⟨h, fn, va / 65536, leaf, 8⟩

/-- An access cut at 128 B line boundaries (R235): virtual address and length of each part. -/
def lineParts : Nat → Nat → Nat → List (Nat × Nat)
  | 0, _, _ => []
  | fuel + 1, va, n =>
    if n = 0 then []
    else
      let k := Nat.min n (128 - va % 128)
      (va % 2 ^ 64, k) :: lineParts fuel (va + k) (n - k)

/-- The lines of `n` bytes from an address. -/
def cutLines (va n : Nat) : List (Nat × Nat) := lineParts (n / 128 + 2) va n

/-- What becomes of a whole access: every part translated, or the first fault with the address of its part. -/
inductive XlatAll where
  | ok (pieces : List Piece)
  | page (va cls : Nat)
  | walk (peer frame : Nat) (write : Bool)
  | violation (va cls entry : Nat)
  deriving DecidableEq, Repr

/-- What does not translate, with the address of its part. -/
def Xlat.at_ (x : Xlat) (va : Nat) : XlatAll :=
  match x with
  | .ok _ => .ok []
  | .page c => .page va c
  | .walk p f w => .walk p f w
  | .violation c e => .violation va c e

/-- Translation of every part before any is requested (R235). -/
def State.translateParts (s : State) (h : Holder) (fn : Nat) (write : Bool) : List (Nat × Nat) → XlatAll
  | [] => .ok []
  | (va, n) :: r =>
    match s.translate h fn va write with
    | .ok leaf =>
      match s.translateParts h fn write r with
      | .ok ps => .ok (⟨placeIn leaf va, n, leaf, va⟩ :: ps)
      | x => x
    | x => x.at_ va

/-- The leaves of every part cached by a holder. -/
def State.cacheParts (s : State) (h : Holder) (fn : Nat) (parts : List (Nat × Nat)) (ps : List Piece) : State :=
  (parts.zip ps).foldl (fun s x => s.cache h fn x.1.1 x.2.leaf) s

/-- A walk of a peer's export table, or an ATS translation, asked for, once. -/
def State.askWalk (s : State) (peer frame : Nat) (write : Bool) : State :=
  if s.fab.remote.any fun r => r.peer == peer && decide (r.why = .walk frame) then s
  else s.sendRemote peer (peer == atsPeer) (.walk frame write) (.walk frame)

/-- Refusals of peers' export tables forgotten, once a fault has reported one: the next access walks again. -/
def State.dropRefusals (s : State) : State :=
  { s with x := { s.x with peers := s.x.peers.filter fun p => p.cls == 0 } }

/-- What an agent at DEVICE level finds at an address (R102): the bytes, a place whose line has to come over the fabric
or the host link first, or a failed translation. -/
inductive AgentGot where
  | bytes (bs : List Byte)
  | away (p : Place)
  | fault (x : XlatAll)
  deriving DecidableEq, Repr

/-- Reads of parts by an agent. -/
def State.agentParts (s : State) (fn die : Nat) : List (Nat × Nat) → AgentGot
  | [] => .bytes []
  | (va, n) :: r =>
    match s.translate (.engine 4) fn va false with
    | .ok leaf =>
      let p := placeIn leaf va
      if p.away && (s.fab.farLine p.line).isNone then .away p
      else
        match s.agentParts fn die r with
        | .bytes bs => .bytes (s.agentLine p n leaf.key die ++ bs)
        | x => x
    | x => .fault (x.at_ va)

/-- `n` bytes at a virtual address as an agent at DEVICE level reads them (R102). -/
def State.agentGet (s : State) (fn die va n : Nat) : AgentGot := s.agentParts fn die (cutLines va n)

/-- The places of the lines of a range, where they translate. -/
def State.linesOf (s : State) (fn va n : Nat) : List Place :=
  (cutLines va n).filterMap fun p => match s.walk fn p.1 with
    | .ok (leaf, _) => some (placeIn leaf p.1).line
    | .error _ => none

/-- A fault request of a page joins or opens the one of its function (R248). -/
def State.raiseFault (s : State) (fn vpn cls access launch : Nat) : State :=
  if (s.fn fn).faults.any (fun r => r.page == vpn) then s
  else
    let s' := s.onFn fn (fun f => { f with faults := f.faults ++ [⟨s.x.faultId, vpn, cls, access, launch, s.ftime, false⟩] })
    { s' with x := { s'.x with faultId := s.x.faultId + 1 } }

end Sys2Proof.Machine
end

