-- ==== Sys2Proof/Machine/Ops.lean ====
section
/-! DEFINITION. The shared operations of every word: the end of a run, the region buffer and its commit, scratchpad
accesses, taking an exception and returning from one, page faults, and the frame in which a word acts on the current
fibre (chapter 05). -/

namespace Sys2Proof.Machine

/-! ### Error records (R420, R421, R431) -/

/-- TAIL advanced past the oldest record that it does not count, with MSI-X vector 1 (R420). -/
def State.tailOn (s : State) : State :=
  { s with mg := { s.mg with errtail := (s.mg.errtail + 1) % 2 ^ 32, errDue := s.mg.errDue.drop 1 },
           outbox := s.outbox ++ [.msix 0 1] }

/-- TAIL advanced past the records whose writes stand at their homes, in the order in which they were written (R420). -/
def State.tailsOn (s : State) : Nat → State
  | 0 => s
  | n + 1 =>
    match s.mg.errDue with
    | g :: _ => if g ≤ s.ftime then s.tailOn.tailsOn n else s
    | [] => s

/-- A record written to the error ring; TAIL counts it, and MSI-X vector 1 is raised, once the write stands and the records before it
are counted. It is counted as lost when the ring is full; nothing happens while recording is off. -/
def State.errorRecord (s : State) (sev unit struct core : Nat) (addr detail : Nat) : State :=
  let base := s.mg.errbase.toNat / 4096 * 4096
  let lg := s.mg.errcfg.toNat % 32
  let next := s.mg.errtail + s.mg.errDue.length
  if base = 0 ∨ lg < 6 ∨ 20 < lg then s
  else if 2 ^ lg ≤ (next + 2 ^ 32 - s.mg.errhead % 2 ^ 32) % 2 ^ 32 then
    { s with mg := { s.mg with errlost := Nat.min (s.mg.errlost + 1) (2 ^ 32 - 1) } }
  else
    let at_ := base + 32 * (next % 2 ^ lg)
    let bs := bytesLE 8 s.ftime ++ bytesLE 1 sev ++ bytesLE 1 unit ++ bytesLE 2 struct ++ bytesLE 4 core ++
      bytesLE 8 addr ++ bytesLE 8 detail
    let x := s.agentWrite (.dram at_) bs 0 0 .none
    { x.1 with mg := { x.1.mg with errDue := x.1.mg.errDue ++ [x.2] } }.tailsOn (s.mg.errDue.length + 1)

/-- No core, in an error record. -/
def noCore : Nat := 0xFFFFFFFF

/-- The record of a translation fault of class 3 or 4 (R247, R431). -/
def State.xlatRecord (s : State) (cls entry unit core launch : Nat) : State :=
  if cls = 3 then s.errorRecord 3 unit 16 core entry launch
  else if cls = 4 then s.errorRecord 3 unit 17 core entry launch
  else s

/-! ### Host queues (R109, R110) -/

/-- QCFG fields. -/
def HostQueue.log (q : HostQueue) : Nat := bitsOf q.cfg 3 0
def HostQueue.owner (q : HostQueue) : Nat := bitsOf q.cfg 29 24

/-- The state with a host queue changed. -/
def State.onQueue (s : State) (q : Nat) (g : HostQueue → HostQueue) : State :=
  { s with q := { s.q with host := setNth HostQueue.initial s.q.host q (g (nth HostQueue.initial s.q.host q)) } }

/-- A slot consumed. -/
def HostQueue.take (q : HostQueue) : HostQueue := { q with head := (q.head + 1) % 2 ^ 32 }

/-- The head slot of a host queue skipped: no launch, and an error record (R110). -/
def State.skipSlot (s : State) (n : Nat) : State :=
  let q := nth HostQueue.initial s.q.host n
  (s.errorRecord 3 22 19 noCore (0x100000 + 64 * n) (q.head + q.owner * 2 ^ 32)).onQueue n fun q => { q.take with wait := none }

/-! ### Runs and batches -/

/-- A fibre at the end of a run, about to start one at `pc`: latches and hints cleared (R44, R46), SCHED applied (R149). -/
def Fibre.endRun (f : Fibre) (pc : Word) (now : Time) : Fibre :=
  { f with pc := pc, lat := Latches.none, hints := Hints.none, runCount := 0, yieldAtEnd := false, boostAtEnd := false,
           age := if f.yieldAtEnd then now else f.age, boost := f.boost || f.boostAtEnd }

/-- A fibre that has executed a word: its SCHED hint is remembered for the end of the run (R149). -/
def Fibre.sched (f : Fibre) : Fibre :=
  let x := f.hints.sched.getD (false, false)
  { f with yieldAtEnd := f.yieldAtEnd || x.1, boostAtEnd := f.boostAtEnd || x.2 }

/-- A fibre past a word of its run: the next word, no pending hints, one more word counted. -/
def Fibre.pastWord (f : Fibre) (executed : Bool) : Fibre :=
  { (if executed then f.sched else f) with pc := f.pc + 4, hints := Hints.none, runCount := f.runCount + 1 }

/-- The address of a word with its hint group: its first hint, or the word (R157, R150). -/
def Fibre.groupPc (f : Fibre) : Word := f.hints.start.getD f.pc

/-- The current fibre out of the first batch; an empty batch frees its slot. `ends` says that it leaves with the last word of
the run. -/
def State.leaveBatch (s : State) (k : FKey) (ends : Bool := false) : State :=
  match s.batches with
  | [] => s
  | b :: r =>
    let ms := b.members.filter fun x => decide (x ≠ k)
    { s with batches := if ms.isEmpty then r else { b with members := ms, finished := if ends then k :: b.finished else b.finished } :: r }

/-- The first member of the first batch to its end: the next member executes next. -/
def State.nextMember (s : State) : State :=
  match s.batches with
  | [] => s
  | b :: r => { s with batches := { b with members := b.members.drop 1 ++ b.members.take 1 } :: r }

/-! ### Scratchpad (R220 to R225, R236) -/

/-- The team and offset that a scratchpad address names, for an access of `n` bytes; none when R221 faults it. -/
def State.spadTarget (s : State) (f : Fibre) (addr : Word) (n : Nat) : Option (Nat × Nat) :=
  match s.launchOf f with
  | none => none
  | some l =>
    let off := bitsOf addr 19 0
    let rmt := bitOf addr 26
    let rteam := bitsOf addr 25 20
    if bitsOf addr 63 27 != 0 || (rmt && decide (l.rope ≤ rteam)) || decide (l.spadBytes < off + n) then none
    else
      let team := if rmt then f.key.team / l.rope * l.rope + rteam else f.key.team
      if team = f.key.team then some (team, off)
      else
        match s.team? f.key.launch team with
        | some t => if !t.ended && clusterOfCore t.core == clusterOfCore f.core then some (team, off) else none
        | none => none

/-- The chunks that an access touches. -/
def chunksOf (off n : Nat) : List Nat := if n = 0 then [] else upFrom (off / 4096) ((off + n - 1) / 4096 - off / 4096 + 1)

/-- The mapped chunk of an index (R224). -/
def Team.chunk? (t : Team) (i : Nat) : Option Chunk := t.chunks.find? fun c => c.idx == i

/-- A team with a chunk replaced. -/
def Team.setChunk (t : Team) (c : Chunk) : Team := { t with chunks := c :: t.chunks.filter fun x => x.idx != c.idx }

/-- The first touched chunk that is mapped and holds no data yet. -/
def Team.boundChunk (t : Team) (off n : Nat) : Option Chunk :=
  (chunksOf off n).findSome? fun i =>
    match t.chunk? i with
    | some c => if c.filled then none else some c
    | none => none

/-- Bytes of a team's scratchpad. -/
def Team.spadRead (t : Team) (off n : Nat) : List Byte := memRead t.spad off n

/-- The offsets of a range of a team's scratchpad that lie in poisoned words (R281, R423). -/
def Team.spadBad (t : Team) (off n : Nat) : List Nat := (upFrom 0 n).filter fun i => t.bad.contains ((off + i) / 8)

/-- The poisoned words of a team's scratchpad after a write of a range: those that it covers in full are good again (R423), those
with a byte that it writes poisoned are not (R281). -/
def Team.badAfter (t : Team) (off n : Nat) (bad : List Nat) : List Nat :=
  let left := t.bad.filter fun w => !(decide (off ≤ 8 * w) && decide (8 * w + 8 ≤ off + n))
  left ++ (dedup (bad.map fun i => (off + i) / 8)).filter fun w => !(left.contains w)

/-- Bytes written to a team's scratchpad: the lines of FILLED chunks get their written bit (R224). `bad` lists the offsets in `bs`
of bytes written poisoned. -/
def Team.spadWrite (t : Team) (off : Nat) (bs : List Byte) (bad : List Nat := []) : Team :=
  let touched := chunksOf off bs.length
  { t with spad := memWrite t.spad off bs, bad := t.badAfter off bs.length bad,
           chunks := t.chunks.map fun c =>
             if touched.contains c.idx && c.filled then
               let lines := (upFrom 0 32).filter fun i =>
                 let a := c.idx * 4096 + 128 * i
                 decide (off < a + 128) && decide (a < off + bs.length)
               { c with written := c.written ++ lines.filter fun i => !(c.written.contains i) }
             else c }

/-! ### The region buffer (R82, R150 to R152) -/

/-- The bytes that a fibre's buffered stores give addresses of global memory, the newest first. -/
def Fibre.bufferedGlobal (f : Fibre) : List (Nat × Byte) :=
  f.region.foldl (fun acc e =>
    match e with
    | .store va _ bs _ _ => overlay (withAddr va bs).reverse acc
    | _ => acc) []

/-- The bytes that a fibre's buffered stores give a team's scratchpad, the newest first. -/
def Fibre.bufferedSpad (f : Fibre) (team : Nat) : List (Nat × Byte) :=
  f.region.foldl (fun acc e =>
    match e with
    | .spad t off bs => if t = team then overlay (withAddr off bs).reverse acc else acc
    | _ => acc) []

/-- A store of a fibre to scratchpad performed: at once in its own team's, over the cluster network in a rope-mate's
(R97, R223). -/
def State.performSpad (s : State) (f : Fibre) (team off : Nat) (bs : List Byte) : State :=
  if team = f.key.team then s.onTeam f.key.launch team fun t => t.spadWrite off bs
  else
    { s with m := { s.m with spads := s.m.spads ++ [⟨s.uid, f.key, f.key.launch, team, off, bs.length, bs, none⟩] },
             uid := s.uid + 1 }

/-- Whether a push of a fibre is an inversion push (R378). -/
def State.isInversion (s : State) (f : Fibre) (wl : Nat) (prio : W32) : Bool :=
  match f.task with
  | some t => f.trapMode || decide (prio.toNat / 2 ^ (s.wl wl).shift < bitsOf t.prio 31 0 / 2 ^ (s.wl wl).shift)
  | none => true

/-- A push presented (R374, R379): VT is the fibre's GWMAX when it is issued. -/
def State.presentPush (s : State) (f : Fibre) (wl : Nat) (prio entry : W32) (payload : Word)
    (ticket : Option Word := none) : State :=
  let p : Push := ⟨s.uid, wl, f.key, f.core, prio, entry, payload, f.gwmax, s.isInversion f wl prio, false, 0, ticket, false⟩
  { s with cairn := { s.cairn with pushes := s.cairn.pushes ++ [p] }, uid := s.uid + 1 }

/-- One buffered entry issued (R150 step 1), or a release store at the end of its hold (R264). -/
def State.issueEntry (s : State) (f : Fibre) (e : RegionEnt) (release : Bool := false) : State :=
  match e with
  | .store va pieces bs scope policy => s.issueStore f.key f.core scope policy va pieces bs release
  | .spad team off bs => s.performSpad f team off bs
  | .clwb _ (some line) scope => s.writeBackLine f.core scope line [f.key]
  | .clwb _ none _ => s
  | .push wl prio entry payload => s.presentPush f wl prio entry payload

/-- The lines of global memory that a buffered entry writes or writes back. -/
def RegionEnt.lines : RegionEnt → List Place
  | .store _ pieces _ _ _ => pieces.map (·.place.line)
  | .clwb _ (some line) _ => [line]
  | _ => []

/-- Whether an entry may be issued from a core: no atomic that will leave tagged bytes of its lines is on its way (R79, R84). -/
def State.mayIssue (s : State) (core : Nat) (e : RegionEnt) : Bool := e.lines.all fun l => !(s.m.narrowAtom core l)

/-- Whether a fibre's buffer can commit now: every earlier load has performed (R85), no release hold is out (R264), and nothing
that its stores have to find is on its way. -/
def State.canCommit (s : State) (f : Fibre) : Bool :=
  f.region.isEmpty || (!(s.loadsOut f.key) && f.relHold.isNone && f.region.all (s.mayIssue f.core))

/-- The region buffer committed in program order; the fibre with an empty buffer. -/
def State.commit (s : State) (f : Fibre) : State × Fibre :=
  (f.region.foldl (fun s e => s.issueEntry f e) s, { f with region := [] })

/-- What a safe point does when its word issues (R150): nothing in trap mode (R158) or while a task is held (R380). None
while the buffer cannot commit yet, or an entry of the return stack is on its way back (R175). -/
def State.cross (s : State) (f : Fibre) : Option (State × Fibre) :=
  if f.waits rsReg then none
  else if f.trapMode || f.task.isSome then some (s, f)
  else if s.canCommit f then
    let (s, f) := s.commit f
    some (s, { f with spc := f.pc, rstart := f.rstack, rstartDepth := f.depth })
  else none

/-! ### Taking an exception (R157) and ending a fibre (R161) -/

/-- Whether an address lies in .text of a launch's image (R174). -/
def Launch.inText (l : Launch) (a : Word) : Bool := decide (l.text ≤ a.toNat) && decide (a.toNat < l.text + l.textSize)

/-- The launch system vector's address (R157). -/
def Launch.sysvec (l : Launch) : Word := BitVec.ofNat 64 (l.text + 4 * l.field 52 4)

/-- A fatal end (R161): no release, no counter; the task returns to QUEUED; a TYPE 1 entry with cause and PC. -/
def State.endFatal (s : State) (f : Fibre) (cause : Nat) (pc : Word) : State :=
  let s := s.abortTask f (.queued f.core)
  let s := s.retireFibre f
  let s := s.record f.key.launch ⟨1, cause, f.key.fid, f.key.team, pc⟩
  s.afterEnd f.key

/-- A fibre with the trap registers of a fault of its word that ends it (R135, R161). -/
def Fibre.fatalCause (f : Fibre) (c v : Word) : Fibre := { f with tpc := f.groupPc, tcause := c, tval := v }

/-- A fibre with the cause and the value of REGION_OVERFLOW: the address of its 17th store (R135). -/
def Fibre.overflow (f : Fibre) (va : Word) : Fibre := f.fatalCause 0x08 va

/-- The team trap vector of a fibre (R134). -/
def State.tvec (s : State) (f : Fibre) : Word := (s.teamOf f).elim 0 (·.tvec)

/-- Entry to the launch system vector: the run ends, and one starts there (R137, R149). -/
def Fibre.enterSys (f : Fibre) (l : Launch) (c : Nat) (v t : Word) (now : Time) : Fibre :=
  { (f.setFlags fstSYS).endRun l.sysvec now with slotSys := f.lat, tpc := t, tcause := BitVec.ofNat 64 c, tval := v }

/-- Entry to the team trap handler. -/
def Fibre.enterTeam (f : Fibre) (tvec : Word) (c : Nat) (v t : Word) (now : Time) : Fibre :=
  { (f.setFlags fstTM).endRun tvec now with slotTeam := f.lat, tpc := t, tcause := BitVec.ofNat 64 c, tval := v }

/-- trap_entry(c, v, t) of R157: saves the latches, the resume address, the cause and the value, changes the mode and
goes to the handler; fatal in the system vector. -/
def State.trapEntry (s : State) (f : Fibre) (c : Nat) (v t : Word) : State :=
  match s.launchOf f with
  | none => s
  | some l =>
    if f.sys then s.endFatal f c t
    else if f.tm then s.setFibre (f.enterSys l c v t s.ftime)
    else if !(l.inText (s.tvec f)) then s.setFibre (f.enterSys l 0x04 (s.tvec f) t s.ftime)
    else s.setFibre (f.enterTeam (s.tvec f) c v t s.ftime)

/-- The return from a trap (R176): leaves the innermost mode and restores its latches; none outside both. The run that
starts at TPC has the restored latches. -/
def Fibre.trapReturn (f : Fibre) : Option (Fibre × Latches) :=
  if f.sys then some (f.clearFst fstSYS, f.slotSys)
  else if f.tm then some (f.clearFst fstTM, f.slotTeam)
  else none

/-! ### Safe points (R71, R72) -/

/-- What a search of the tables of an image comes to: an index; a line that has to come first; a failed translation. -/
inductive TableGot where
  | at_ (i : Option Nat)
  | away (p : Place)
  | fault (x : XlatAll)
  deriving DecidableEq, Repr

/-- What has to come first: a line from elsewhere, or a walk of a peer's export table. -/
inductive Await where
  | line (p : Place)
  | walk (peer frame : Nat) (write : Bool)
  deriving DecidableEq, Repr

/-- What has to come first asked for. -/
def State.ask (s : State) : Await → State
  | .line p => s.askFar p
  | .walk peer frame write => s.askWalk peer frame write

/-- Binary search of SAFE for a word offset between two indexes: the index of its entry. -/
def State.safeIndex (s : State) (l : Launch) (die off : Nat) : Nat → Nat → Nat → TableGot
  | 0, _, _ => .at_ none
  | fuel + 1, lo, hi =>
    if hi ≤ lo then .at_ none
    else
      let mid := (lo + hi) / 2
      match s.agentGet l.fn die (l.safeAt + 4 * mid) 4 with
      | .away p => .away p
      | .fault x => .fault x
      | .bytes bs =>
        if natLE bs = off then .at_ (some mid)
        else if natLE bs < off then s.safeIndex l die off fuel (mid + 1) hi
        else s.safeIndex l die off fuel lo mid

/-- Whether a word offset is a SAFE entry; an entry that cannot be read marks nothing, one whose line is away or whose page has to be
walked again at its peer is named. -/
def State.safeSearch (s : State) (l : Launch) (die off : Nat) : Except Await Bool :=
  match s.safeIndex l die off 33 0 l.safeCount with
  | .at_ i => .ok i.isSome
  | .away p => .error (.line p)
  | .fault (.walk peer frame write) => .error (.walk peer frame write)
  | .fault _ => .ok false

/-- The SAFE entries among `n` word offsets from one on. -/
def State.lineMarks (s : State) (l : Launch) (die first : Nat) : Nat → Except Await (List Nat)
  | 0 => .ok []
  | n + 1 =>
    match s.safeSearch l die first with
    | .error p => .error p
    | .ok b => (s.lineMarks l die (first + 1) n).map fun r => if b then first :: r else r

/-- The marks that a core's i-cache holds for the line of an address (R71). -/
def State.marksAt (s : State) (core launch : Nat) (pc : Word) : Option (List Nat) :=
  (s.icache.find? fun c => c.core == core && c.launch == launch && c.line == pc.toNat / 128).map (·.marks)

/-- The i-cache fill of the line of an address of .text (R71): SAFE is searched as it stands now, and the marks stay until
the line is filled again. A line that is held is kept. -/
def State.fillCode (s : State) (f : Fibre) (l : Launch) (pc : Word) : Except Await State :=
  if !(l.inText pc) || (s.marksAt f.core l.id pc).isSome then .ok s
  else
    (s.lineMarks l (dieOfCore f.core) ((pc.toNat / 128 * 128 - l.text) / 4) 32).map fun ms =>
      { (s.dropFar (s.linesOf l.fn l.safeAt (4 * l.safeCount))) with icache := ⟨f.core, l.id, pc.toNat / 128, ms⟩ :: s.icache }

/-- A line of a core's i-cache evicted, or none: the spec gives no size and no order, so which one is free (log 16). -/
def State.evictCode (s : State) (core : Nat) : State :=
  match s.icache.filter fun c => c.core == core with
  | [] => s
  | ls =>
    let i := Config.freeNat s.fresh % (2 * ls.length)
    { s.takeFresh with icache := s.icache.filter fun c => !((ls.drop i).head? == some c) }

/-- The marks of a fibre's word and of the word after it, their lines filled where they are not held. -/
def State.withMarks (s : State) (f : Fibre) : Except Await State :=
  match s.launchOf f with
  | none => .ok s
  | some l => (s.fillCode f l f.pc).bind fun s => s.fillCode f l (f.pc + 4)

/-- Whether a word is a marked safe point for a fibre: its line is held and marks it. -/
def State.isSafe (s : State) (f : Fibre) (pc : Word) : Bool :=
  match s.launchOf f with
  | some l => ((s.marksAt f.core l.id pc).getD []).contains ((pc.toNat - l.text) / 4)
  | none => false

/-- A fibre at the word after a commit point that it has carried out, a marked safe point: for a restart it has crossed
it, so that the action is not repeated (R152, R153; log 23). -/
def Fibre.passed (f : Fibre) : Fibre :=
  if f.afterCommit = some f.pc && decide (f.status = .eligible) && f.task.isNone && f.region.isEmpty then
    { f with spc := f.pc, rstart := f.rstack, rstartDepth := f.depth }
  else f

/-! ### Page faults (R154, R158) and abandoned handlers (R160) -/

/-- A fibre back at the start of its region: buffer discarded, return stack restored, PC := SPC (R154 steps 1 to 3). -/
def Fibre.rollback (f : Fibre) (now : Time) : Fibre :=
  let f := { f with region := [], rstack := f.rstart, depth := f.rstartDepth,
                    notReady := f.notReady.filter (fun p => p.1 != rsReg && p.1 != tblReg), tableWord := none }
  f.endRun f.spc now

/-- A page fault of the current word of a fibre: the region is discarded and restarts from SPC when the page is
resident, a held task is parked with it; in trap mode the fibre waits at the word (R154, R158, R384). -/
def State.pageFault (s : State) (f : Fibre) (page cls access : Nat) : State :=
  let fn := s.fnOf f
  let s := s.raiseFault fn page cls access f.key.launch
  if f.trapMode then s.setFibre { f.endRun f.groupPc s.ftime with status := .parked fn page }
  else
    match f.task with
    | some _ =>
      let s := s.abortTask f (.parked f.core fn page)
      s.setFibre { f.rollback s.ftime with task := none }
    | none => s.setFibre { f.passed.rollback s.ftime with status := .parked fn page }

/-- A fibre rolled back without being parked: an invalidation (R251 step 3) or, in a handler, its end (R160). -/
def State.rollbackFibre (s : State) (f : Fibre) : State :=
  let s := s.abortTask f (.queued f.core)
  let f := if f.trapMode then
      { f.clearFst (fstTM ||| fstSYS) with posted := f.serving.elim f.posted (· :: f.posted), serving := none }
    else f.passed
  s.setFibre { f.rollback s.ftime with task := none }

/-! ### The frame of a word (R36, R140, R162) -/

/-- What a word does for the fibre on which it executes. -/
inductive WordOut where
  /-- It continues at the next word. -/
  | next (s : State) (f : Fibre)
  /-- Its run ends and the next starts at `target`. -/
  | jump (s : State) (f : Fibre) (target : Word)
  /-- It has left its batch, and the state holds what it has become. -/
  | out (s : State)
  /-- It takes a trap with resume address `t`. -/
  | trap (s : State) (f : Fibre) (c : Nat) (v t : Word)
  /-- The word holds its slot. -/
  | stall
  /-- The word holds its slot after it has started something it waits for. -/
  | hold (s : State)

/-- The state after a word, of which `e` is the E bit. -/
def State.finish (s : State) (e : Bool) (k : FKey) : WordOut → State
  | .next s f =>
    if e then (s.setFibre (f.endRun f.pc s.ftime)).leaveBatch k true else (s.setFibre f).nextMember
  | .jump s f target => (s.setFibre (f.endRun target s.ftime)).leaveBatch k
  | .out s => s.leaveBatch k
  | .trap s f c v t => (s.trapEntry f c v t).leaveBatch k
  | .stall => s
  | .hold s => s

/-- A word of the current fibre: guarded off it only takes its latch position (R44) when it is a `fixed` word; otherwise
`act` gives what it does. -/
def runWord (e : Bool) (pg : BitVec 3) (pn fixed : Bool) (act : State → Fibre → WordOut) (s : State) :
    Host.Outcome State Fault Refusal :=
  match s.cur with
  | none => .fault .noFibre
  | some f =>
    if f.guardOn pg pn then
      match act s f with
      | .next s' f' => .next (s.finish e f.key (.next s' (f'.pastWord true)))
      | .jump s' f' target => .next (s.finish e f.key (.jump s' (f'.pastWord true) target))
      | o => .next (s.finish e f.key o)
    else
      let f' := if fixed then f.shift none else f
      .next (s.finish e f.key (.next s (f'.pastWord false)))

/-- The word at fault for a FIELD: the pending VEC, MEMO or KSRC hint for what it carries (FIELD 4, 5 and 6), else the word
itself, with its address (R51, R53). -/
def Fibre.atFault (f : Fibre) (field : Nat) : Word × W32 :=
  let hint := fun (kind : Nat) => (f.hints.words.find? fun p => p.2.toNat / 2 ^ 22 == 1008 + kind).getD (f.pc, f.ir)
  match field with
  | 4 => hint 2
  | 5 => hint 3
  | 6 => hint 6
  | _ => (f.pc, f.ir)

/-- A trap of R53: TVAL names the FIELD and the offending word, TPC is its address. -/
def trapField (s : State) (f : Fibre) (cause field : Nat) : WordOut :=
  .trap s f cause (tvalWord field (f.atFault field).2) (f.atFault field).1

/-- A fault of the word's own: at the word, or the first hint of its group (R157). -/
def trapOwn (s : State) (f : Fibre) (cause : Nat) (tval : Word) : WordOut := .trap s f cause tval f.groupPc

/-- A word with operands: their checks in the order of R54, then `act`. -/
def withOpds (opds : List Opd) (extra : List Nat) (act : State → Fibre → WordOut) (s : State) (f : Fibre) : WordOut :=
  match checkOpds f opds extra with
  | .illegal x => trapField s f 0x02 x
  | .unwritten x => trapField s f 0x0F x
  | .stall => .stall
  | .ok => act s f

/-- A result with one register and its flags, waiting to be written (R144). -/
def State.addResult (s : State) (f : Fibre) (d : Nat) (v flags : Word) : State :=
  { s with m := { s.m with results := s.m.results ++ [⟨s.uid, f.key, [(d, v)], flags⟩] }, uid := s.uid + 1 }

/-- A fixed-latency word with its operands and its value (R58). -/
def fixedWord (h : Hdr) (d : BitVec 6) (opds : Fibre → List Opd) (val : State → Fibre → Word) :
    State → Host.Outcome State Fault Refusal :=
  runWord h.e h.pg h.pn true fun s f =>
    withOpds (⟨1, d, .dst⟩ :: opds f) f.ksrcBad (fun s f => .next s (f.writeFixed d (val s f))) s f

/-- A fibre that blocks at a word: the run ends, it goes on at the next word when it is released (R142). -/
def State.block (s : State) (f : Fibre) (why : Wait) : WordOut :=
  .out (s.setFibre { (f.pastWord true).endRun (f.pc + 4) s.ftime with status := .blocked why })

/-- A fibre that waits in its slot at the last word of its run (R141, R263): it stays in its batch until the wait ends. -/
def State.holdSlot (s : State) (f : Fibre) (why : Wait) : WordOut :=
  .hold (s.setFibre { (f.pastWord true).endRun (f.pc + 4) s.ftime with status := .blocked why }).nextMember

/-- A translation that fails for the current word: a page fault parks, the rest is ACCESS_VIOLATION at the address of the
part, recorded for the die of the walker (R247, R431); a walk of a peer's export table holds the word. -/
def xlatFaultBy (unit core : Nat) (s : State) (f : Fibre) (access : Nat) (x : XlatAll) : WordOut :=
  match x with
  | .page a cls => .out (s.dropRefusals.pageFault f (a / 65536) cls access)
  | .walk peer frame write => .hold (s.askWalk peer frame write)
  | .violation va cls entry =>
    trapOwn (s.dropRefusals.xlatRecord cls entry unit core f.key.launch) f 0x04 (BitVec.ofNat 64 va)
  | .ok _ => .stall

/-- A translation of the fibre's core that fails for the current word. -/
def xlatFault (s : State) (f : Fibre) (access : Nat) (x : XlatAll) : WordOut :=
  xlatFaultBy (dieOfCore f.core) f.core s f access x

/-- R381: what a word raises while a task is held outside trap mode. -/
def taskFault (s : State) (f : Fibre) (reason : Nat) : WordOut :=
  let wl := (s.launchOf f).elim 0 fun l => if l.field 39 1 / 2 % 2 = 1 then l.field 126 1 % 8 else 0
  let prio := (f.task.elim 0 fun t => bitsOf t.prio 31 0)
  trapOwn s f 0x09 (BitVec.ofNat 64 (reason + wl * 2 ^ 8 + prio * 2 ^ 32))

/-- Whether a word that is not allowed inside a task is (R381). -/
def Fibre.inTask (f : Fibre) : Bool := f.task.isSome && !f.trapMode

/-- A commit-point word (R152): TASK_NON_IDEMPOTENT inside a task; outside trap mode the buffer commits before `act`,
and the word waits until it can. -/
def commitPoint (act : State → Fibre → WordOut) (s : State) (f : Fibre) : WordOut :=
  if f.inTask then taskFault s f 2
  else if f.trapMode then act s f
  else if s.canCommit f then
    let (s, f) := s.commit f
    act s { f with afterCommit := if f.nextSafe then some (f.pc + 4) else none }
  else .stall

end Sys2Proof.Machine
end

