-- ==== Sys2Proof/Machine/Access.lean ====
section
/-! DEFINITION. The accesses of fibres to global memory and scratchpad: the start of loads and atomics, stores into the
region buffer, the waits between accesses, release holds, the return stack (R82, R85, R94, R175, R220 to R236, R255 to
R264). -/

namespace Sys2Proof.Machine

/-! ### Addresses and MEMO -/

/-- ea of an M-format word (R256). -/
def Fibre.eaM (f : Fibre) (a o : BitVec 6) (size : Nat) : Word := f.src a + f.widen 6 o.toNat * BitVec.ofNat 64 size

/-- ea of an A-format word (R256). -/
def Fibre.eaA (f : Fibre) (a b : BitVec 6) : Word := f.src a + f.src b

/-- The scope of MEMO, or the word's default (R79, R89, R94). -/
def Fibre.memoScope (f : Fibre) (dflt : Nat) : Nat := f.hints.memo.elim dflt (·.scope.toNat)

/-- The cache policy of MEMO. -/
def Fibre.memoPolicy (f : Fibre) : Nat := f.hints.memo.elim 0 (·.policy.toNat)

/-- MEMO acquire. -/
def Fibre.memoAcq (f : Fibre) : Bool := f.hints.memo.elim false (·.acq)

/-- MEMO release. -/
def Fibre.memoRel (f : Fibre) : Bool := f.hints.memo.elim false (·.rel)

/-- FIELD 5 for a MEMO scope of 5 to 7 (R10, R51). -/
def Fibre.memoBad (f : Fibre) : List Nat := if 5 ≤ f.memoScope 0 then [5] else []

/-! ### Waits between accesses -/

/-- Whether a load or atomic waits: for a release hold (R264), or after an acquire for every access before it (R263). -/
def State.accessWaits (s : State) (f : Fibre) : Bool := f.relHold.isSome || (f.acqHold && s.accessesOut f.key)

/-- Whether a store that leaves at its issue, or an atomic, waits: every earlier load has performed (R85). -/
def State.storeWaits (s : State) (f : Fibre) : Bool := f.relHold.isSome || s.loadsOut f.key

/-- A load or atomic issues: the hold of an earlier acquire has ended, and its own begins (R263). -/
def Fibre.holdAcq (f : Fibre) (acq : Bool) : Fibre := { f with acqHold := acq }

/-! ### Translation at a word -/

/-- The parts of a global access of a fibre, translated and cached before anything is requested (R235); a fault of any
part is a fault of the word. -/
def withPieces (va : Word) (n : Nat) (write : Bool) (access : Nat) (k : State → Fibre → List Piece → WordOut)
    (s : State) (f : Fibre) : WordOut :=
  let parts := cutLines va.toNat n
  match s.translateParts (.core f.core) (s.fnOf f) write parts with
  | .ok ps => k (s.cacheParts (.core f.core) (s.fnOf f) parts ps) f ps
  | x => xlatFault s f access x

/-! ### Loads -/

/-- The register values of loaded bytes (R257). -/
def LoadForm.writes (fm : LoadForm) (d : Nat) (bs : List Byte) : List (Nat × Word) :=
  if fm.size = 16 then [(d, BitVec.ofNat 64 (natLE (bs.take 8))), (d + 1, BitVec.ofNat 64 (natLE (bs.drop 8)))]
  else [(d, (if fm.signed then sextNat else zextNat) (8 * fm.size) (natLE bs))]

/-- The bytes of a load: its parts in order, the fibre's own buffered bytes over them (R82). -/
def LoadReq.bytes (l : LoadReq) : List Byte :=
  let bs := l.parts.foldl (fun acc p => acc ++ p.got.getD (List.replicate p.n 0)) []
  (bs.zip (upFrom 0 bs.length)).map fun p => (byteIn l.newer p.2).getD p.1

/-- The data of an ACCLD put into its entry of the matrix queue (R360). -/
def MatState.supply (m : MatState) (entry : Nat) (bs : List Byte) : MatState :=
  { m with queue := m.queue.map fun e => if e.uid = entry then { e with op := .accld (some bs) } else e }

/-- A load that has performed: its value waits to be written (R144), goes into the matrix queue (R360), or replaces a
pattern table as a whole (R363). -/
def State.finishLoad (s : State) (l : LoadReq) : State :=
  let flags := if l.rerr then fstRERR else 0
  let result := fun (ws : List (Nat × Word)) =>
    s.onMem fun m => { m with results := m.results ++ [⟨l.uid, l.fibre, ws, flags⟩] }
  match l.dst with
  | .regs d => result (l.form.writes d l.bytes)
  | .acc entry =>
    let s := if l.rerr then result [] else s
    { s with mat := s.mat.supply entry l.bytes }
  | .pattern pt =>
    let s := if l.rerr then result [] else s
    s.onTeam l.fibre.launch l.fibre.team fun t => { t with patterns := setNth none t.patterns pt (some l.bytes) }

/-- Whether every part of a load has its bytes. -/
def LoadReq.done (l : LoadReq) : Bool := l.parts.all fun p => p.got.isSome

/-- A load on its way, or performed at once. -/
def State.putLoad (s : State) (l : LoadReq) : State :=
  if l.done then s.finishLoad l else s.onMem fun m => { m with loads := m.loads ++ [l] }

/-- The miss-status entry of a line that a load can join (R231): not filled, at most 8 clocks old. -/
def State.openEntry (s : State) (core : Nat) (p : Piece) : Option Mshr :=
  s.m.mshrs.find? fun e => e.core == core && decide (e.line = p.place.line) && e.key == p.leaf.key &&
    decide (s.ftime ≤ e.born + 8)

/-- Whether a core has an entry of a line that is not filled: a later load of the line is not served before it (R84). -/
def MemState.asked (m : MemState) (core : Nat) (line : Place) : Bool := m.mshrs.any fun e => e.core == core && decide (e.line = line)

/-- The bytes of a part of a load that the L1 serves now (R229). -/
def State.l1Hit (s : State) (core : Nat) (p : Piece) : Option (State × List Byte) :=
  if s.m.asked core p.place.line then none
  else
    match s.m.l1Line? core p.place.line with
    | some l => if l.key = p.leaf.key then (l.serve s.ftime p.place.off p.n).map (fun b => (s.touchL1 l, b)) else none
    | none => none

/-- One part of a load requested: from the L1 while it can serve it (R229), else by a miss-status entry (R231); none
without a free entry, and while an atomic of the core in its L1 or L2 is on its way to the line. -/
def State.requestPart (s : State) (core policy : Nat) (p : Piece) : Option (State × LoadPart) :=
  if s.m.narrowAtom core p.place.line then none
  else
  match s.l1Hit core p with
  | some (s, b) => some (s, ⟨p.place, p.n, p.leaf.key, none, some b, p.va⟩)
  | none =>
    match s.openEntry core p with
    | some e => some (s, ⟨p.place, p.n, p.leaf.key, some e.uid, none, p.va⟩)
    | none =>
      if 256 ≤ (s.m.mshrs.filter fun e => e.core == core).length then none
      else
        let e : Mshr := ⟨s.uid, core, p.place.line, s.ftime, policy, p.leaf.key, false, none⟩
        some ({ s with m := { s.m with mshrs := s.m.mshrs ++ [e] }, uid := s.uid + 1 },
          ⟨p.place, p.n, p.leaf.key, some e.uid, none, p.va⟩)

/-- Every part of a load requested. -/
def State.requestParts (s : State) (core policy : Nat) : List Piece → Option (State × List LoadPart)
  | [] => some (s, [])
  | p :: r =>
    match s.requestPart core policy p with
    | none => none
    | some (s, x) => (s.requestParts core policy r).map fun y => (y.1, x :: y.2)

/-- Bytes by address made bytes by offset of an access. -/
def within (va n : Nat) (bs : List (Nat × Byte)) : List (Nat × Byte) :=
  (bs.filter fun p => decide (va ≤ p.1) && decide (p.1 < va + n)).map fun p => (p.1 - va, p.2)

/-- The registers that a load of a size makes not ready. -/
def Fibre.awaitLoad (f : Fibre) (d size uid : Nat) : Fibre :=
  if size = 16 then (f.await d uid).await (d + 1) uid else f.await d uid

/-- The latest GWCT not passed of the TEAM atomics of a core in the lines of the parts that its L1 has served, which the load
sees (R78, R94). -/
def State.l1Gwct (s : State) (core : Nat) (parts : List LoadPart) : Time :=
  maxList ((parts.filter (·.got.isSome)).map fun p => s.m.latestPending s.ftime (.l1 core) p.place.line)

/-- A load from global memory starts, with the fibre's GWMAX as of then; none while it has to wait for a miss-status entry. -/
def State.loadTo (s : State) (f : Fibre) (fm : LoadForm) (dst : LoadDst) (policy : Nat) (va : Nat)
    (newer : List (Nat × Byte)) (ps : List Piece) : Option (State × Fibre) :=
  let uid := s.uid
  match ({ s with uid := uid + 1 }).requestParts f.core policy ps with
  | none => none
  | some (s, parts) =>
    some (s.putLoad ⟨uid, f.key, fm, dst, parts, newer, false, va⟩,
      { f with gwmax := Nat.max f.gwmax (s.l1Gwct f.core parts) })

/-- A load into registers starts (R257). -/
def State.loadGlobal (s : State) (f : Fibre) (fm : LoadForm) (d policy : Nat) (va : Nat) (ps : List Piece) :
    Option (State × Fibre) :=
  (s.loadTo f fm (.regs d) policy va (within va fm.size f.bufferedGlobal) ps).map fun x =>
    (x.1, x.2.awaitLoad d fm.size s.uid)

/-- Whether any TBLD of a pattern table of this fibre has not completed (R289). -/
def State.tablesOut (s : State) (f : Fibre) : Bool :=
  s.m.loads.any fun l => decide (l.fibre = f.key) && (match l.dst with | .pattern _ => true | _ => false)

/-- Whether a TBLD of one pattern table of this fibre has not completed (R363). -/
def State.tableLoading (s : State) (f : Fibre) (pt : Nat) : Bool :=
  s.m.loads.any fun l => decide (l.fibre = f.key) && decide (l.dst = .pattern pt)

/-- A load word of global memory at an address (R257, R262). -/
def loadWord (fm : LoadForm) (d : Nat) (acq : Bool) (va : Word) (s : State) (f : Fibre) : WordOut :=
  if s.accessWaits f then .stall
  else
    withPieces va fm.size false 0 (fun s f ps =>
      match s.loadGlobal f fm d f.memoPolicy va.toNat ps with
      | none => .stall
      | some (s, f) => .next s (f.holdAcq acq)) s f

/-! ### Scratchpad (R221 to R225) -/

/-- The fill that a word's access to a team's scratchpad needs: the first touched chunk that holds no data yet is translated, as a
write for STL and ATOML and else as a read, and filled, and the word waits for it (R225); then `k`. `access` is the code of
R250. -/
def withChunk (launch team off n access : Nat) (k : State → Fibre → WordOut) (s : State) (f : Fibre) : WordOut :=
  match (s.team? launch team).bind fun t => (t.boundChunk off n).map fun c => (t, c) with
  | none => k s f
  | some (t, c) =>
    if c.fill.isSome then .stall
    else
      match s.translate (.core t.core) (s.fnOf f) c.va (access == 1 || access == 2) with
      | .ok leaf =>
        let s := s.cache (.core t.core) (s.fnOf f) c.va leaf
        .hold (s.onTeam launch team fun t => t.setChunk { c with fill := some f.key, leaf := some leaf })
      | x => xlatFault s f access (x.at_ c.va)

/-- The fills that several spans of the own scratchpad need. -/
def withSpans (spans : List (Nat × Nat)) (access : Nat) (k : State → Fibre → WordOut) (s : State) (f : Fibre) : WordOut :=
  match spans with
  | [] => k s f
  | (off, n) :: r => withChunk f.key.launch f.key.team off n access (withSpans r access k) s f

/-- A scratchpad access at a word: the fault of R221, then the fill it needs, then `k` with the team and the offset. -/
def withSpad (addr : Word) (n access : Nat) (k : State → Fibre → Nat → Nat → WordOut) (s : State) (f : Fibre) :
    WordOut :=
  match s.spadTarget f addr n with
  | none => trapOwn s f 0x04 addr
  | some (team, off) => withChunk f.key.launch team off n access (fun s f => k s f team off) s f

/-- Bytes of the own scratchpad as a load of the fibre reads them, its buffered stores over them (R82). -/
def State.ownSpad (s : State) (f : Fibre) (off n : Nat) : List Byte :=
  let bs := (s.teamOf f).elim [] fun t => t.spadRead off n
  let newer := within off n (f.bufferedSpad f.key.team)
  (bs.zip (upFrom 0 n)).map fun p => (byteIn newer p.2).getD p.1

/-- Whether a word's access to a scratchpad is done at once: its own, with no poisoned word in the range; a poisoned one is
consumed where a rope-mate's access is performed (R423). -/
def State.ownAtOnce (s : State) (f : Fibre) (team off n : Nat) : Bool :=
  decide (team = f.key.team) && (s.teamOf f).elim true fun t => (t.spadBad off n).isEmpty

/-- A load word of scratchpad at an address (R222, R223, R257): from the own team at once, from a rope-mate over the
cluster network. -/
def loadSpadWord (fm : LoadForm) (d : Nat) (addr : Word) (s : State) (f : Fibre) : WordOut :=
  if s.accessWaits f then .stall
  else
    withSpad addr fm.size 0 (fun s f team off =>
      let uid := s.uid
      let newer := within off fm.size (f.bufferedSpad team)
      let own := s.ownAtOnce f team off fm.size
      let got := if own then (s.teamOf f).map fun t => t.spadRead off fm.size else none
      let l : LoadReq := ⟨uid, f.key, fm, .regs d, [⟨.dram 0, fm.size, 0, none, got, 0⟩], newer, false, addr.toNat⟩
      let s := { s with uid := uid + 2 }
      let s := if own then s else
          s.onMem fun m => { m with spads := m.spads ++ [⟨uid + 1, f.key, f.key.launch, team, off, fm.size, [], some uid⟩] }
      .next (s.putLoad l) ((f.awaitLoad d fm.size uid).holdAcq false)) s f

/-! ### Stores (R151, R158, R258) -/

/-- A store, CLWB or push of a fibre: performed now in trap mode, where it waits for every earlier load; else buffered,
of which the 17th is REGION_OVERFLOW at its address and fatal (R135, R151). `k` goes on with the word. -/
def putEntry (va : Word) (e : RegionEnt) (k : State → Fibre → WordOut) (s : State) (f : Fibre) : WordOut :=
  if f.trapMode then (if s.storeWaits f || !(s.mayIssue f.core e) then .stall else k (s.issueEntry f e) f)
  else if 16 ≤ f.region.length then .out (s.endFatal (f.overflow va) 0x08 f.groupPc)
  else k s { f with region := f.region ++ [e] }

/-- A release hold begins (R264): the write-backs of R87 start, and the store or atomic waits in the core. -/
def beginHold (scope : Nat) (h : Held) (s : State) (f : Fibre) : WordOut :=
  if s.narrowOut f.key then .stall
  else .next (s.writeBacks f.core scope [f.key] []) { f with relHold := some (scope, h) }

/-- The bytes a store stores: the low bytes of a register, or two registers. -/
def storeBytes (size : Nat) (v v' : Word) : List Byte :=
  if size = 16 then bytesLE 8 v.toNat ++ bytesLE 8 v'.toNat else bytesLE size v.toNat

/-- A store word of global memory (R258); with release a commit point and a release hold (R90, R264). -/
def storeWord (bs : List Byte) (scope policy : Nat) (rel : Bool) (va : Word) (s : State) (f : Fibre) : WordOut :=
  if rel && f.inTask then taskFault s f 2
  else
    withPieces va bs.length true 1 (fun s f ps =>
      let e := RegionEnt.store va.toNat ps bs scope policy
      if rel then (if f.relHold.isSome then .stall else commitPoint (beginHold scope (.store e)) s f)
      else putEntry va e .next s f) s f

/-- A store word of scratchpad (R222, R225, R258). -/
def storeSpadWord (bs : List Byte) (addr : Word) (s : State) (f : Fibre) : WordOut :=
  withSpad addr bs.length 1 (fun s f team off => putEntry addr (.spad team off bs) .next s f) s f

/-! ### Atomics (R94, R97, R259, R260) -/

/-- Whether an operation is one of the idempotent atomics (R152). -/
def atomIdempotent : AtomOp → Bool
  | .add => false
  | .swap => false
  | .cas => false
  | .fadd => false
  | _ => true

/-- Whether an access overlaps the buffered stores of a fibre. -/
def overlaps (va n : Nat) (bs : List (Nat × Byte)) : Bool := !(within va n bs).isEmpty

/-- The level at which an atomic of a scope executes (R94). -/
def atomLevel (scope : Nat) (p : Place) (core : Nat) : Level :=
  match p with
  | .host _ => .home
  | _ => if scope = 0 then .l1 core else levelFor scope p core

/-- What an atomic asks for: width in bytes, operation, operand and compare value, extension of the old value (R259). -/
structure AtomForm where
  width : Nat
  op : AtomOp
  signed : Bool
  deriving DecidableEq, Repr

/-- An atomic leaves its core, the core's tagged bytes of its line ahead of it (R95). -/
def State.sendAtom (s : State) (a : AtomReq) : State :=
  let s := match a.at_ with
    | .level _ p => if a.scope = 0 then s else s.clearAhead a.core a.scope p.line
    | .spad .. => s
  { s with m := { s.m with atoms := s.m.atoms ++ [{ a with ord := s.uid }] }, uid := s.uid + 1 }

/-- The commit that goes before an atomic (R152, R259): of a commit point, or of an idempotent one whose bytes overlap a
buffered store, which leaves SPC unchanged. -/
def atomCommit (fm : AtomForm) (rel overlap : Bool) (k : State → Fibre → WordOut) (s : State) (f : Fibre) : WordOut :=
  if f.trapMode then k s f
  else if !(atomIdempotent fm.op) || rel then commitPoint k s f
  else if overlap then
    if f.inTask then taskFault s f 3
    else if s.canCommit f then
      let (s, f) := s.commit f
      k s f
    else .stall
  else k s f

/-- Whether a place takes this atomic (R100, R403): none on a replicated page; 64-bit add, swap and compare-and-swap in
host memory. -/
def AtomForm.allowed (fm : AtomForm) : Place → Bool
  | .repl _ => false
  | .host _ => fm.width == 8 && (match fm.op with | .add | .swap | .cas => true | _ => false)
  | _ => true

/-- A word of ATOM, ATOMW or ATOMX at an address (R259, R260). -/
def atomWord (fm : AtomForm) (d : Nat) (va operand compare : Word) (s : State) (f : Fibre) : WordOut :=
  let rel := f.memoRel
  let scope := f.memoScope 3
  if f.inTask && !(atomIdempotent fm.op) then taskFault s f 1
  else if f.inTask && rel then taskFault s f 2
  else if va.toNat % fm.width != 0 then trapOwn s f 0x03 va
  else
    withPieces va fm.width true 2 (fun s f ps =>
      match ps with
      | [p] =>
        if !(fm.allowed p.place) then trapOwn s f 0x04 va
        else if s.accessWaits f || s.storeWaits f then .stall
        else
          atomCommit fm rel (overlaps va.toNat fm.width f.bufferedGlobal) (fun s f =>
            let uid := s.uid
            let a : AtomReq := ⟨uid, f.key, f.core, .level (atomLevel scope p.place f.core) p.place, fm.width, fm.op,
              operand, compare, fm.signed, some d, scope, p.leaf.key, va.toNat, false, 0⟩
            let s := { s with uid := uid + 1 }
            let f := (f.await d uid).holdAcq f.memoAcq
            if rel then beginHold scope (.atomic a) s f
            else if s.atomMayLeave a then .next (s.sendAtom a) f
            else .stall) s f
      | _ => .stall) s f

/-- END past its release and its task (R105, R179): its counter's atomic leaves, or the fibre ends. -/
def State.endCount (s : State) (f : Fibre) : Option AtomReq → State
  | some a =>
    (s.setFibre { f with status := .blocked .counting }).sendAtom a
  | none => (s.retireFibre f).afterEnd f.key

/-! ### The return stack (R175) -/

/-- The spill area of a fibre: k16 + 2,048 × FID. -/
def State.spillArea (s : State) (f : Fibre) : Word := s.kreg f 16 + BitVec.ofNat 64 (2048 * f.key.fid)

/-- push(v) of R175, then `k`. -/
def withPush (v : Word) (k : State → Fibre → WordOut) (s : State) (f : Fibre) : WordOut :=
  let pushed := fun (f : Fibre) => { f with rstack := v :: f.rstack.take 7, depth := f.depth + 1 }
  if f.waits rsReg then .stall
  else if f.depth = 256 then trapOwn s f 0x04 (s.spillArea f + 2048)
  else if f.depth < 8 then k s (pushed f)
  else if s.kreg f 16 = 0 then trapOwn s f 0x04 0
  else
    let va := s.spillArea f + BitVec.ofNat 64 (8 * (f.depth - 8))
    withPieces va 8 true 1 (fun s f ps =>
      putEntry va (.store va.toNat ps (bytesLE 8 (nth 0 f.rstack 7).toNat) 0 0) (fun s f => k s (pushed f)) s f) s f

/-- pop() of R175, of a stack that is not empty, then `k` with the value; a refill is a load that later words of the
return stack wait for. -/
def withPop (k : Word → State → Fibre → WordOut) (s : State) (f : Fibre) : WordOut :=
  let v := nth 0 f.rstack 0
  let f' := { f with rstack := f.rstack.drop 1, depth := f.depth - 1 }
  if f.depth - 1 < 8 then k v s f'
  else if s.accessWaits f then .stall
  else
    let va := s.spillArea f + BitVec.ofNat 64 (8 * (f.depth - 9))
    withPieces va 8 false 0 (fun s f ps =>
      match s.loadGlobal f ⟨8, false⟩ rsReg 0 va.toNat ps with
      | none => .stall
      | some (s, f) => k v s ({ f with rstack := f.rstack.drop 1, depth := f.depth - 1 }.holdAcq false)) s f

end Sys2Proof.Machine
end

