-- ==== Sys2Proof/Machine/Fp.lean ====
section
/-! DEFINITION. The floating-point formats, exact values, one rounding and the flags (R189 to R195, R209, R210), and
the reference values of the special functions (R211, R212). -/

namespace Sys2Proof.Machine

/-! ### Formats and values (R189, R190) -/

/-- The rounding modes of R191. -/
inductive Rounding where
  | rne | rz | ru | rd
  deriving DecidableEq, Repr

/-- The mode of a VEC rounding code. -/
def roundingOf (c : BitVec 2) : Rounding :=
  match c.toNat with
  | 0 => .rne
  | 1 => .rz
  | 2 => .ru
  | _ => .rd

/-- A floating-point format: bits of exponent and mantissa, bias, and whether it is E4M3 (no infinity, one NaN code). -/
structure FpFmt where
  ebits : Nat
  mbits : Nat
  bias : Nat
  e4m3 : Bool
  deriving DecidableEq, Repr

def fp32 : FpFmt := ⟨8, 23, 127, false⟩
def fp16 : FpFmt := ⟨5, 10, 15, false⟩
def bf16 : FpFmt := ⟨8, 7, 127, false⟩
def fpE4m3 : FpFmt := ⟨4, 3, 7, true⟩
def fpE5m2 : FpFmt := ⟨5, 2, 15, false⟩

/-- The weight of the sign bit. -/
def FpFmt.signBit (F : FpFmt) : Nat := 2 ^ (F.ebits + F.mbits)
/-- The encoding of +∞ where the format has one. -/
def FpFmt.infEnc (F : FpFmt) : Nat := (2 ^ F.ebits - 1) * 2 ^ F.mbits
/-- The canonical NaN (R190). -/
def FpFmt.nanEnc (F : FpFmt) : Nat := if F.e4m3 then 0x7F else F.infEnc + 2 ^ (F.mbits - 1)
/-- The encoding of the largest finite value. -/
def FpFmt.maxEnc (F : FpFmt) : Nat := if F.e4m3 then 0x7E else F.infEnc - 1
/-- The exponent of the smallest subnormal. -/
def FpFmt.qmin (F : FpFmt) : Int := 1 - (F.bias : Int) - (F.mbits : Int)

/-- A value: a NaN, signalling or quiet; an infinity; or ±m·2^e exactly. -/
inductive Fp where
  | nan (signalling : Bool)
  | inf (neg : Bool)
  | fin (neg : Bool) (m : Nat) (e : Int)
  deriving DecidableEq, Repr

/-- The value of an encoding. -/
def FpFmt.value (F : FpFmt) (x : Nat) : Fp :=
  let neg := decide (x / F.signBit % 2 = 1)
  let mag := x % F.signBit
  let ex := mag / 2 ^ F.mbits
  let fr := mag % 2 ^ F.mbits
  if F.e4m3 && mag == 0x7F then .nan false
  else if !F.e4m3 && ex == 2 ^ F.ebits - 1 then
    if fr = 0 then .inf neg else .nan (decide (fr < 2 ^ (F.mbits - 1)))
  else if ex = 0 then .fin neg fr F.qmin
  else .fin neg (2 ^ F.mbits + fr) (F.qmin + (ex : Int) - 1)

/-- Whether a value is a NaN. -/
def Fp.isNan : Fp → Bool
  | .nan _ => true
  | _ => false

/-- Whether a value is a signalling NaN. -/
def Fp.isSnan : Fp → Bool
  | .nan sg => sg
  | _ => false

/-- The value with its sign inverted. -/
def Fp.negate : Fp → Fp
  | .nan sg => .nan sg
  | .inf n => .inf (!n)
  | .fin n m e => .fin (!n) m e

/-- m·2^e with its sign as an integer multiple of 2^e0, for e0 ≤ e. -/
def signedAt (neg : Bool) (m : Nat) (e e0 : Int) : Int :=
  let v : Int := ((m * 2 ^ (e - e0).toNat : Nat) : Int)
  if neg then -v else v

/-! ### Exact sums and products (R191, R192) -/

/-- The exact sum and whether it is invalid (∞ − ∞, or a signalling NaN). `rd` is the mode RD, which decides the sign
of an exact zero of operands of opposite sign. -/
def Fp.plus (rd : Bool) (x y : Fp) : Fp × Bool :=
  match x, y with
  | .nan a, y => (.nan false, a || y.isSnan)
  | _, .nan b => (.nan false, b)
  | .inf a, .inf b => if a = b then (.inf a, false) else (.nan false, true)
  | .inf a, .fin .. => (.inf a, false)
  | .fin .., .inf b => (.inf b, false)
  | .fin na ma ea, .fin nb mb eb =>
    let e0 := min ea eb
    let v := signedAt na ma ea e0 + signedAt nb mb eb e0
    if v = 0 then (.fin (if na = nb then na else rd) 0 e0, false)
    else (.fin (decide (v < 0)) v.natAbs e0, false)

/-- The exact product and whether it is invalid (0 × ∞, or a signalling NaN). -/
def Fp.times (x y : Fp) : Fp × Bool :=
  match x, y with
  | .nan a, y => (.nan false, a || y.isSnan)
  | _, .nan b => (.nan false, b)
  | .inf a, .inf b => (.inf (a != b), false)
  | .inf a, .fin b m _ => if m = 0 then (.nan false, true) else (.inf (a != b), false)
  | .fin a m _, .inf b => if m = 0 then (.nan false, true) else (.inf (a != b), false)
  | .fin a ma ea, .fin b mb eb => (.fin (a != b) (ma * mb) (ea + eb), false)

/-- d + a × b, exact; 0 × ∞ is invalid even when d is a NaN (R192). -/
def Fp.fma (rd : Bool) (d a b : Fp) : Fp × Bool :=
  let p := a.times b
  let r := d.plus rd p.1
  (r.1, p.2 || r.2)

/-! ### Rounding (R191 to R194) -/

/-- Whether a magnitude with quotient `q`, remainder `r` of `unit` rounds up. -/
def roundsUp (mode : Rounding) (neg : Bool) (q r unit : Nat) : Bool :=
  match mode with
  | .rne => decide (unit < 2 * r) || (decide (2 * r = unit) && decide (q % 2 = 1))
  | .rz => false
  | .ru => !neg && decide (0 < r)
  | .rd => neg && decide (0 < r)

/-- The encoding of a magnitude rounded into a format whose exponent has no upper bound, and whether it is inexact. -/
def FpFmt.roundMag (F : FpFmt) (mode : Rounding) (neg : Bool) (m : Nat) (e : Int) : Nat × Bool :=
  let q := max (e + (Nat.log2 m : Int) - (F.mbits : Int)) F.qmin
  let base := (q - F.qmin).toNat * 2 ^ F.mbits
  if q ≤ e then (base + m * 2 ^ (e - q).toNat, false)
  else
    let unit := 2 ^ (q - e).toNat
    let sig := m / unit
    let rem := m % unit
    (base + sig + (if roundsUp mode neg sig rem unit then 1 else 0), decide (0 < rem))

/-- What an overflow delivers (R193), as a magnitude: infinity, or the largest finite. -/
def FpFmt.overflow (F : FpFmt) (mode : Rounding) (neg : Bool) : Nat :=
  match mode with
  | .rne => F.infEnc
  | .rz => F.maxEnc
  | .ru => if neg then F.maxEnc else F.infEnc
  | .rd => if neg then F.infEnc else F.maxEnc

/-- A value rounded once into a format, and the flags OF, UF, IX and SAT it sets (R191 to R194, R209). `sat` is
saturate-to-finite. -/
def FpFmt.round (F : FpFmt) (mode : Rounding) (sat : Bool) (v : Fp) : Nat × Word :=
  let sg := fun (n : Bool) => if n then F.signBit else 0
  match v with
  | .nan _ => (F.nanEnc, 0)
  | .inf n => if F.e4m3 then (sg n + F.maxEnc, fstSAT ||| fstIX) else (sg n + F.infEnc, 0)
  | .fin n m e =>
    if m = 0 then (sg n, 0)
    else
      let (enc, inexact) := F.roundMag mode n m e
      let ix : Word := if inexact then fstIX else 0
      if F.maxEnc < enc then
        if F.e4m3 then (sg n + F.maxEnc, fstSAT ||| fstIX)
        else if sat then (sg n + F.maxEnc, fstSAT ||| fstOF ||| fstIX)
        else (sg n + F.overflow mode n, fstOF ||| fstIX)
      else
        let tiny := decide (e + (Nat.log2 m : Int) < 1 - (F.bias : Int))
        (sg n + enc, ix ||| (if inexact && tiny then fstUF else 0))

/-- An exact result with its invalid mark, rounded (R192). -/
def FpFmt.deliver (F : FpFmt) (mode : Rounding) (r : Fp × Bool) : Nat × Word :=
  let (x, fl) := F.round mode false r.1
  (x, fl ||| (if r.2 then fstIV else 0))

/-- Whether the mode is RD. -/
def Rounding.isRd : Rounding → Bool
  | .rd => true
  | _ => false

/-- round(a + b). -/
def FpFmt.addR (F : FpFmt) (mode : Rounding) (a b : Nat) : Nat × Word :=
  F.deliver mode ((F.value a).plus mode.isRd (F.value b))

/-- round(a − b). -/
def FpFmt.subR (F : FpFmt) (mode : Rounding) (a b : Nat) : Nat × Word :=
  F.deliver mode ((F.value a).plus mode.isRd (F.value b).negate)

/-- round(a × b). -/
def FpFmt.mulR (F : FpFmt) (mode : Rounding) (a b : Nat) : Nat × Word :=
  F.deliver mode ((F.value a).times (F.value b))

/-- round(d + a × b). -/
def FpFmt.fmaR (F : FpFmt) (mode : Rounding) (d a b : Nat) : Nat × Word :=
  F.deliver mode (Fp.fma mode.isRd (F.value d) (F.value a) (F.value b))

/-- round(d − a × b). -/
def FpFmt.fmsR (F : FpFmt) (mode : Rounding) (d a b : Nat) : Nat × Word :=
  F.deliver mode (Fp.fma mode.isRd (F.value d) (F.value a).negate (F.value b))

/-- round(−(d + a × b)): the negation is part of the exact value (R206). -/
def FpFmt.fnmaR (F : FpFmt) (mode : Rounding) (d a b : Nat) : Nat × Word :=
  F.deliver mode (Fp.fma mode.isRd (F.value d).negate (F.value a).negate (F.value b))

/-! ### Comparison, minimum and maximum (R195) -/

/-- An encoding that is no NaN as an integer that orders the values, −0 equal to +0. -/
def FpFmt.key (F : FpFmt) (x : Nat) : Int :=
  let mag : Int := ((x % F.signBit : Nat) : Int)
  if x / F.signBit % 2 = 1 then -mag else mag

/-- minimumNumber(a, b) and IV for a signalling NaN; `max` chooses maximumNumber. −0 is below +0. -/
def FpFmt.minMax (F : FpFmt) (max : Bool) (a b : Nat) : Nat × Word :=
  let va := F.value a
  let vb := F.value b
  let fl : Word := if va.isSnan || vb.isSnan then fstIV else 0
  let neg := fun x => decide (x / F.signBit % 2 = 1)
  let aLow := decide (F.key a < F.key b) || (decide (F.key a = F.key b) && neg a)
  if va.isNan then (if vb.isNan then F.nanEnc else b, fl)
  else if vb.isNan then (a, fl)
  else (if aLow != max then a else b, fl)

/-- The conditions of FCMP. -/
inductive FpCond where
  | eq | lt | le | un
  deriving DecidableEq, Repr

/-- A condition of two encodings, and IV (R192, R208). -/
def FpFmt.compare (F : FpFmt) (c : FpCond) (a b : Nat) : Bool × Word :=
  let va := F.value a
  let vb := F.value b
  let nan := va.isNan || vb.isNan
  let snan := va.isSnan || vb.isSnan
  match c with
  | .eq => (!nan && decide (F.key a = F.key b), if snan then fstIV else 0)
  | .lt => (!nan && decide (F.key a < F.key b), if nan then fstIV else 0)
  | .le => (!nan && decide (F.key a ≤ F.key b), if nan then fstIV else 0)
  | .un => (nan, if snan then fstIV else 0)

/-- Sign cleared or inverted; a NaN gives the canonical NaN; no flag (R207). -/
def FpFmt.absR (F : FpFmt) (x : Nat) : Nat := if (F.value x).isNan then F.nanEnc else x % F.signBit
def FpFmt.negR (F : FpFmt) (x : Nat) : Nat :=
  if (F.value x).isNan then F.nanEnc
  else if x / F.signBit % 2 = 1 then x % F.signBit else x % F.signBit + F.signBit

/-! ### Conversions (R209, R210) -/

/-- A value of format F into format G: IV for a signalling NaN, one rounding. -/
def FpFmt.convert (F G : FpFmt) (mode : Rounding) (sat : Bool) (x : Nat) : Nat × Word :=
  let v := F.value x
  let (y, fl) := G.round mode sat v
  (y, fl ||| (if v.isSnan then fstIV else 0))

/-- An integer rounded into FP32. -/
def fpOfInt (mode : Rounding) (i : Int) : Nat × Word := fp32.round mode false (.fin (decide (i < 0)) i.natAbs 0)

/-- ±m·2^e rounded to an integer, and whether that is inexact. -/
def roundToInt (mode : Rounding) (neg : Bool) (m : Nat) (e : Int) : Int × Bool :=
  let sg := fun (v : Nat) => if neg then -(v : Int) else (v : Int)
  if 0 ≤ e then (sg (m * 2 ^ e.toNat), false)
  else
    let unit := 2 ^ (-e).toNat
    let q := m / unit
    let r := m % unit
    (sg (q + (if roundsUp mode neg q r unit then 1 else 0)), decide (0 < r))

/-- FP32 to a signed 32-bit integer (R210), as its low 32 bits. -/
def fpToInt (mode : Rounding) (x : Nat) : Nat × Word :=
  match fp32.value x with
  | .nan _ => (0, fstIV)
  | .inf n => (if n then 0x80000000 else 0x7FFFFFFF, fstIV)
  | .fin n m e =>
    let (y, inexact) := roundToInt mode n m e
    if 2 ^ 31 - 1 < y then (0x7FFFFFFF, fstIV)
    else if y < -(2 ^ 31) then (0x80000000, fstIV)
    else ((y % 2 ^ 32).toNat, if inexact then fstIX else 0)

/-! ### Special functions (R211 to R213)

The manual fixes the special cases and bounds every other result by 1 ulp of the exact value. The exact value is
approximated here in fixed point with 256 fractional bits. No exact value but those of the algebraic functions lies on an FP32
value, and none lies as near to one as the error, but where it is known to be smaller than it (COS and TANH near 1, TANH near its
operand); there the approximation is kept below it. The delivered value is the free value Config.sfu wherever that lies within the
bound (log 10). -/

/-- One, in fixed point with 256 fractional bits. -/
def fxOne : Int := 2 ^ 256

/-- Fixed-point product. -/
def fxMul (a b : Int) : Int := a * b / fxOne

/-- x/1·y + x/1·y²/2 + …: the terms of the exponential series from `term` = yᵏ/k! on. -/
def fxExpSum (y : Int) : Nat → Nat → Int → Int
  | 0, _, _ => 0
  | n + 1, k, term => term + fxExpSum y n (k + 1) (fxMul term y / ((k : Int) + 1))

/-- Terms term, −term·y²/((k+1)(k+2)), … of the sine and cosine series. -/
def fxTrigSum (y2 : Int) : Nat → Nat → Int → Int
  | 0, _, _ => 0
  | n + 1, k, term => term + fxTrigSum y2 n (k + 2) (-(fxMul term y2) / (((k : Int) + 1) * ((k : Int) + 2)))

/-- z + z³/3 + z⁵/5 + …: `p` is the current odd power. -/
def fxAtanhSum (z2 : Int) : Nat → Nat → Int → Int
  | 0, _, _ => 0
  | n + 1, k, p => p / (k : Int) + fxAtanhSum z2 n (k + 2) (fxMul p z2)

/-- z − z³/3 + z⁵/5 − …. -/
def fxAtanSum (z2 : Int) : Nat → Nat → Int → Int
  | 0, _, _ => 0
  | n + 1, k, p => p / (k : Int) + fxAtanSum z2 n (k + 2) (-(fxMul p z2))

/-- ln 2 = 2·atanh(1/3). -/
def fxLn2 : Int := 2 * fxAtanhSum (fxOne / 9) 90 1 (fxOne / 3)

/-- 2π = 8·(4·atan(1/5) − atan(1/239)). -/
def fxTwoPi : Int :=
  8 * (4 * fxAtanSum (fxOne / 25) 64 1 (fxOne / 5) - fxAtanSum (fxOne / (239 * 239)) 24 1 (fxOne / 239))

/-- 2^f for a fixed-point f in [0, 1]. -/
def fxExp2 (f : Int) : Int := fxExpSum (fxMul f fxLn2) 70 0 fxOne

/-- m·2^e in fixed point, e at least −256. -/
def fxOf (neg : Bool) (m : Nat) (e : Int) : Int := signedAt neg m e (-256)

/-- The functions of SFU, by FN (R211). -/
inductive SfuFn where
  | rcp | rsq | sqrt | exp2 | log2 | sin | cos | tanh
  deriving DecidableEq, Repr

/-- FN of a function. -/
def SfuFn.code : SfuFn → Nat
  | .rcp => 0 | .rsq => 1 | .sqrt => 2 | .exp2 => 3 | .log2 => 4 | .sin => 5 | .cos => 6 | .tanh => 7

/-- The exact function value of ±m·2^e in fixed point, for the operands outside the special cases. -/
def sfuExact (fn : SfuFn) (neg : Bool) (m : Nat) (e : Int) : Int :=
  let x := fxOf neg m e
  match fn with
  | .rcp => if neg then -(fxOne * fxOne / fxOf false m e) else fxOne * fxOne / x
  | .rsq => ((Nat.sqrt (2 ^ (512 - e).toNat / m) : Nat) : Int)
  | .sqrt => ((Nat.sqrt (m * 2 ^ (512 + e).toNat) : Nat) : Int)
  | .exp2 =>
    let n := x / fxOne
    let r := fxExp2 (x % fxOne)
    if 0 ≤ n then r * 2 ^ n.toNat else r / 2 ^ (-n).toNat
  | .log2 =>
    let k := Nat.log2 m
    let mm : Int := ((m * 2 ^ (256 - k) : Nat) : Int)
    let z := (mm - fxOne) * fxOne / (mm + fxOne)
    let ln := 2 * fxAtanhSum (fxMul z z) 90 1 z
    ((k : Int) + e) * fxOne + ln * fxOne / fxLn2
  | .sin =>
    let r := x % fxOne
    let r := if fxOne ≤ 2 * r then r - fxOne else r
    let y := fxMul r fxTwoPi
    fxTrigSum (fxMul y y) 60 1 y
  | .cos =>
    let r := x % fxOne
    let r := if fxOne ≤ 2 * r then r - fxOne else r
    let y := fxMul r fxTwoPi
    min (fxTrigSum (fxMul y y) 60 0 fxOne) (fxOne - 1)
  | .tanh =>
    let ax := fxOf false m e
    let t :=
      if 100 * fxOne ≤ ax then fxOne - 1
      else
        let y := 2 * ax * fxOne / fxLn2
        let n := (y / fxOne).toNat
        let ex := fxExp2 (fxOne - y % fxOne) / 2 ^ (n + 1)
        (fxOne - ex) * fxOne / (fxOne + ex)
    let t := min t (min ax fxOne - 1)
    if neg then -t else t

/-- One ulp of FP32 at an exact value in fixed point. -/
def fxUlp (v : Int) : Int := 2 ^ (Nat.max (Nat.log2 v.natAbs) 130 - 23)

/-- Whether an FP32 encoding lies within 1 ulp of an exact value (R212). -/
def sfuBound (v : Int) (c : Nat) : Bool :=
  match fp32.value c with
  | .fin n m e => decide ((fxOf n m e - v).natAbs ≤ (fxUlp v).natAbs)
  | _ => false

/-- Whether a delivered FP32 value is the exact function value. The functions that are not algebraic have none outside
the special cases. -/
def sfuIsExact (fn : SfuFn) (m : Nat) (e : Int) (c : Nat) : Bool :=
  match fp32.value c with
  | .fin _ mc ec =>
    let eqPow := fun (a : Nat) (ea : Int) (b : Nat) (eb : Int) =>
      let e0 := min ea eb
      decide (a * 2 ^ (ea - e0).toNat = b * 2 ^ (eb - e0).toNat)
    match fn with
    | .rcp => eqPow (m * mc) (e + ec) 1 0
    | .rsq => eqPow (m * mc * mc) (e + ec + ec) 1 0
    | .sqrt => eqPow (mc * mc) (ec + ec) m e
    | _ => false
  | _ => false

/-- A finite operand outside the special cases: a zero below 2^-126 (R212), else a value within 1 ulp. -/
def sfuFinite (fn : SfuFn) (x : Nat) (neg : Bool) (m : Nat) (e : Int) : Nat × Word :=
  let v := sfuExact fn neg m e
  if v.natAbs < 2 ^ 130 then (if v < 0 then fp32.signBit else 0, fstUF ||| fstIX)
  else
    let c := (Config.sfu fn.code (BitVec.ofNat 32 x)).toNat
    let y := if sfuBound v c then c else (fp32.round .rz false (.fin (decide (v < 0)) v.natAbs (-256))).1
    (y, if sfuIsExact fn m e y then 0 else fstIX)

/-- One lane of SFU: the special cases of R212, then the bound. -/
def sfu (fn : SfuFn) (x : Nat) : Nat × Word :=
  let nan := fp32.nanEnc
  let one := 0x3F800000
  let sgn := fp32.signBit
  match fp32.value x with
  | .nan sg => (nan, if sg then fstIV else 0)
  | .inf n =>
    match fn with
    | .rcp => (if n then sgn else 0, 0)
    | .rsq => if n then (nan, fstIV) else (0, 0)
    | .sqrt => if n then (nan, fstIV) else (fp32.infEnc, 0)
    | .exp2 => (if n then 0 else fp32.infEnc, 0)
    | .log2 => if n then (nan, fstIV) else (fp32.infEnc, 0)
    | .sin => (nan, fstIV)
    | .cos => (nan, fstIV)
    | .tanh => (if n then sgn + one else one, 0)
  | .fin n m e =>
    let z0 := if n then sgn else 0
    let ax := fxOf false m e
    let sx := fxOf n m e
    match fn with
    | .rcp =>
      if m = 0 then (z0 + fp32.infEnc, fstDZ)
      else if ax ≤ 2 ^ 128 then (z0 + fp32.infEnc, fstOF ||| fstIX)
      else if 2 ^ 382 < ax then (z0, fstUF ||| fstIX)
      else sfuFinite fn x n m e
    | .rsq =>
      if m = 0 then (z0 + fp32.infEnc, fstDZ) else if n then (nan, fstIV) else sfuFinite fn x n m e
    | .sqrt => if m = 0 then (z0, 0) else if n then (nan, fstIV) else sfuFinite fn x n m e
    | .exp2 =>
      if 128 * fxOne ≤ sx then (fp32.infEnc, fstOF ||| fstIX)
      else if sx < -126 * fxOne then (0, fstUF ||| fstIX)
      else if sx % fxOne = 0 then ((sx / fxOne + 127).toNat * 2 ^ 23, 0)
      else sfuFinite fn x n m e
    | .log2 =>
      if m = 0 then (sgn + fp32.infEnc, fstDZ)
      else if n then (nan, fstIV)
      else if m = 2 ^ Nat.log2 m then ((fpOfInt .rne ((Nat.log2 m : Int) + e)).1, 0)
      else sfuFinite fn x n m e
    | .sin =>
      if 4 * sx % fxOne = 0 then
        let q := 4 * sx / fxOne % 4
        (if q = 1 then one else if q = 3 then sgn + one else z0, 0)
      else sfuFinite fn x n m e
    | .cos =>
      if 4 * sx % fxOne = 0 then
        let q := 4 * sx / fxOne % 4
        (if q = 0 then one else if q = 2 then sgn + one else 0, 0)
      else sfuFinite fn x n m e
    | .tanh => if m = 0 then (z0, 0) else sfuFinite fn x n m e

/-! ### Expression entries (R213, R214) -/

/-- Token `t` of an entry. -/
def exprTok (entry : Word) (t : Nat) : Nat := entry.toNat / 2 ^ (4 * t) % 16

/-- The tokens evaluated: those before the first END, sixteen at most. -/
def exprToks (entry : Word) : List Nat := ((upFrom 0 16).map (exprTok entry)).takeWhile (· != 0)

/-- How many values a token pops, and how many it pushes. -/
def exprArity (t : Nat) : Nat × Nat :=
  if t ≤ 6 then (0, 1) else if t = 10 then (3, 1) else if t ≤ 12 then (2, 1) else (1, 1)

/-- The stack depth after a list of tokens, none when a token lacks values or the depth passes 4. -/
def exprDepth : Nat → List Nat → Option Nat
  | n, [] => some n
  | n, t :: r =>
    let (p, q) := exprArity t
    if n < p || 4 < n - p + q then none else exprDepth (n - p + q) r

/-- R214: whether an entry is valid. -/
def exprValid (entry : Word) : Bool :=
  let ts := exprToks entry
  decide ((ts.filter fun t => decide (7 ≤ t)).length ≤ 7) && exprDepth 0 ts == some 1 &&
    (upFrom 0 16).all fun t => decide (t < ts.length) || exprTok entry t == 0

/-- One token on a stack whose top comes first, with the flags so far (R213). A signalling NaN among the inputs stays one until an
operator takes it: neg and abs set no IV for it, as ABS.s2 and NEG.s2 do not, and the next operator sees what they leave; the spec
does not say (log 76). -/
def exprStep (mode : Rounding) (ins : Nat → Nat) (t : Nat) (st : List Nat × Word) : List Nat × Word :=
  let two := fun (op : Nat → Nat → Nat × Word) =>
    match st.1 with
    | y :: x :: r => let v := op x y; (v.1 :: r, st.2 ||| v.2)
    | _ => st
  let one := fun (op : Nat → Nat × Word) =>
    match st.1 with
    | x :: r => let v := op x; (v.1 :: r, st.2 ||| v.2)
    | _ => st
  match t with
  | 1 => (ins 0 :: st.1, st.2)
  | 2 => (ins 1 :: st.1, st.2)
  | 3 => (ins 2 :: st.1, st.2)
  | 4 => (ins 3 :: st.1, st.2)
  | 5 => (0 :: st.1, st.2)
  | 6 => (0x3F800000 :: st.1, st.2)
  | 7 => two (fp32.addR mode)
  | 8 => two (fp32.subR mode)
  | 9 => two (fp32.mulR mode)
  | 10 =>
    match st.1 with
    | c :: b :: a :: r => let v := fp32.fmaR mode c a b; (v.1 :: r, st.2 ||| v.2)
    | _ => st
  | 11 => two (fp32.minMax false)
  | 12 => two (fp32.minMax true)
  | 13 => one fun x => (fp32.negR x, 0)
  | 14 => one fun x => (fp32.absR x, 0)
  | 15 => one (sfu .exp2)
  | _ => st

/-- An entry evaluated: the value left, canonical if a NaN (R190, R215), and the flags of its operators. -/
def exprEval (mode : Rounding) (entry : Word) (ins : Nat → Nat) : Nat × Word :=
  let st := (exprToks entry).foldl (fun st t => exprStep mode ins t st) ([], 0)
  let v := st.1.headD 0
  (if (fp32.value v).isNan then fp32.nanEnc else v, st.2)

end Sys2Proof.Machine
end

