-- ==== Sys2Proof/Machine/Atomic.lean ====
section
/-! DEFINITION. Atomics: ATOM, ATOMW, ATOML and ATOMX (R259, R260). -/

namespace Sys2Proof.Machine

/-- The new value of an atomic of a width in bytes (R259, R260): old, operand and compare value as numbers of that width. -/
def atomNew (op : AtomOp) (width old operand compare : Nat) : Nat :=
  let sg := fun (x : Nat) => sextNat (8 * width) x
  match op with
  | .min => if (sg operand).toInt < (sg old).toInt then operand else old
  | .max => if (sg old).toInt < (sg operand).toInt then operand else old
  | .minu => Nat.min old operand
  | .maxu => Nat.max old operand
  | .or => Nat.lor old operand
  | .and => Nat.land old operand
  | .add => (old + operand) % 2 ^ (8 * width)
  | .swap => operand
  | .cas => if old = compare then operand else old
  | .fadd => (fp32.addR .rne old operand).1
  | .fmax => (fp32.minMax true old operand).1

/-- A number cut to a width in bytes. -/
def cutTo (width : Nat) (v : Word) : Nat := v.toNat % 2 ^ (8 * width)

/-- D of an atomic: the old value, extended. -/
def atomOld (width : Nat) (signed : Bool) (old : Nat) : Word :=
  (if signed then sextNat else zextNat) (8 * width) old

/-- ATOM, ATOMW and ATOMX words; the compare value is the old value of D (R260). -/
def atWord (width : Nat) (op : AtomOp) (signed : Bool) (h : Hdr) (d a b : BitVec 6) :
    State → Host.Outcome State Fault Refusal :=
  runWord h.e h.pg h.pn false fun s f =>
    withOpds [⟨1, d, .long⟩, ⟨2, a, .src⟩, ⟨3, b, .src⟩] f.memoBad
      (fun s f => atomWord ⟨width, op, signed⟩ d.toNat (f.src a) (f.src b) (f.src d) s f) s f

/-- Whether a scratchpad word lies in a chunk mapped to a page of host memory, which takes no ATOML (R403). -/
def State.spadOnHost (s : State) (f : Fibre) (addr : Word) : Bool :=
  match s.spadTarget f addr 8 with
  | none => false
  | some (team, off) =>
    ((s.team? f.key.launch team).bind fun t => (t.chunk? (off / 4096)).map fun c => (t, c)).any fun x =>
      let leaf := match x.2.leaf with
        | some leaf => some leaf
        | none => match s.walk (s.fnOf f) x.2.va with | .ok (leaf, _) => some leaf | .error _ => none
      leaf.any fun l => match l.base with | .host _ => true | _ => false

/-- ATOML words (R97, R222, R223, R259): performed in the own scratchpad at once, at a rope-mate's over the cluster
network. -/
def atlWord (op : AtomOp) (h : Hdr) (d a b : BitVec 6) : State → Host.Outcome State Fault Refusal :=
  runWord h.e h.pg h.pn false fun s f =>
    withOpds [⟨1, d, .long⟩, ⟨2, a, .src⟩, ⟨3, b, .src⟩] [] (fun s f =>
      let va := f.src a
      let fm : AtomForm := ⟨8, op, false⟩
      if f.inTask && !(atomIdempotent op) then taskFault s f 1
      else if va.toNat % 8 != 0 then trapOwn s f 0x03 va
      else if s.spadOnHost f va then trapOwn s f 0x04 va
      else
        withSpad va 8 2 (fun s f team off =>
          if s.accessWaits f || s.storeWaits f then .stall
          else
            atomCommit fm false (overlaps off 8 (f.bufferedSpad team)) (fun s f =>
              let uid := s.uid
              let f := (f.await d.toNat uid).holdAcq false
              if s.ownAtOnce f team off 8 then
                let old := (s.teamOf f).elim 0 fun t => natLE (t.spadRead off 8)
                let new := atomNew op 8 old (f.src b).toNat 0
                let r := fun (s : State) => s.addResult f d.toNat (atomOld 8 false old) 0
                if new = old then
                  .next (r s) { f with gwmax := Nat.max f.gwmax (s.m.spadGwct s.ftime f.key.launch team off) }
                else .next (r (s.onTeam f.key.launch team fun t => t.spadWrite off (bytesLE 8 new))) f
              else
                .next ({ s with uid := uid + 1 }.sendAtom ⟨uid, f.key, f.core, .spad f.key.launch team off, 8, op, f.src b, 0,
                          false, some d.toNat, 3, 0, va.toNat, false, 0⟩) f) s f) s f) s f

/-- AMIN (R259): 64-bit signed atomic minimum. -/
def execAmin (h : Hdr) (d : BitVec 6) (a : BitVec 6) (b : BitVec 6) (s : State) :
    Host.Outcome State Fault Refusal :=
  atWord 8 .min false h d a b s

/-- AMAX (R259): 64-bit signed atomic maximum. -/
def execAmax (h : Hdr) (d : BitVec 6) (a : BitVec 6) (b : BitVec 6) (s : State) :
    Host.Outcome State Fault Refusal :=
  atWord 8 .max false h d a b s

/-- AMINU (R259): 64-bit unsigned atomic minimum. -/
def execAminu (h : Hdr) (d : BitVec 6) (a : BitVec 6) (b : BitVec 6) (s : State) :
    Host.Outcome State Fault Refusal :=
  atWord 8 .minu false h d a b s

/-- AMAXU (R259): 64-bit unsigned atomic maximum. -/
def execAmaxu (h : Hdr) (d : BitVec 6) (a : BitVec 6) (b : BitVec 6) (s : State) :
    Host.Outcome State Fault Refusal :=
  atWord 8 .maxu false h d a b s

/-- AOR (R259): 64-bit atomic OR. -/
def execAor (h : Hdr) (d : BitVec 6) (a : BitVec 6) (b : BitVec 6) (s : State) :
    Host.Outcome State Fault Refusal :=
  atWord 8 .or false h d a b s

/-- AAND (R259): 64-bit atomic AND. -/
def execAand (h : Hdr) (d : BitVec 6) (a : BitVec 6) (b : BitVec 6) (s : State) :
    Host.Outcome State Fault Refusal :=
  atWord 8 .and false h d a b s

/-- AADD (R259): 64-bit atomic add, a commit point. -/
def execAadd (h : Hdr) (d : BitVec 6) (a : BitVec 6) (b : BitVec 6) (s : State) :
    Host.Outcome State Fault Refusal :=
  atWord 8 .add false h d a b s

/-- ASWAP (R259): 64-bit atomic swap, a commit point. -/
def execAswap (h : Hdr) (d : BitVec 6) (a : BitVec 6) (b : BitVec 6) (s : State) :
    Host.Outcome State Fault Refusal :=
  atWord 8 .swap false h d a b s

/-- AMIN_W (R259): 32-bit signed atomic minimum. -/
def execAminW (h : Hdr) (d : BitVec 6) (a : BitVec 6) (b : BitVec 6) (s : State) :
    Host.Outcome State Fault Refusal :=
  atWord 4 .min true h d a b s

/-- AMAX_W (R259): 32-bit signed atomic maximum. -/
def execAmaxW (h : Hdr) (d : BitVec 6) (a : BitVec 6) (b : BitVec 6) (s : State) :
    Host.Outcome State Fault Refusal :=
  atWord 4 .max true h d a b s

/-- AMINU_W (R259): 32-bit unsigned atomic minimum. -/
def execAminuW (h : Hdr) (d : BitVec 6) (a : BitVec 6) (b : BitVec 6) (s : State) :
    Host.Outcome State Fault Refusal :=
  atWord 4 .minu false h d a b s

/-- AMAXU_W (R259): 32-bit unsigned atomic maximum. -/
def execAmaxuW (h : Hdr) (d : BitVec 6) (a : BitVec 6) (b : BitVec 6) (s : State) :
    Host.Outcome State Fault Refusal :=
  atWord 4 .maxu false h d a b s

/-- AOR_W (R259): 32-bit atomic OR. -/
def execAorW (h : Hdr) (d : BitVec 6) (a : BitVec 6) (b : BitVec 6) (s : State) :
    Host.Outcome State Fault Refusal :=
  atWord 4 .or false h d a b s

/-- AAND_W (R259): 32-bit atomic AND. -/
def execAandW (h : Hdr) (d : BitVec 6) (a : BitVec 6) (b : BitVec 6) (s : State) :
    Host.Outcome State Fault Refusal :=
  atWord 4 .and false h d a b s

/-- AADD_W (R259): 32-bit atomic add. -/
def execAaddW (h : Hdr) (d : BitVec 6) (a : BitVec 6) (b : BitVec 6) (s : State) :
    Host.Outcome State Fault Refusal :=
  atWord 4 .add true h d a b s

/-- ASWAP_W (R259): 32-bit atomic swap. -/
def execAswapW (h : Hdr) (d : BitVec 6) (a : BitVec 6) (b : BitVec 6) (s : State) :
    Host.Outcome State Fault Refusal :=
  atWord 4 .swap false h d a b s

/-- CAS (R260): 64-bit compare-and-swap against the old D. -/
def execCas (h : Hdr) (d : BitVec 6) (a : BitVec 6) (b : BitVec 6) (s : State) :
    Host.Outcome State Fault Refusal :=
  atWord 8 .cas false h d a b s

/-- CASW (R260): 32-bit compare-and-swap. -/
def execCasw (h : Hdr) (d : BitVec 6) (a : BitVec 6) (b : BitVec 6) (s : State) :
    Host.Outcome State Fault Refusal :=
  atWord 4 .cas true h d a b s

/-- FADD_S (R260): FP32 atomic add. -/
def execFaddS (h : Hdr) (d : BitVec 6) (a : BitVec 6) (b : BitVec 6) (s : State) :
    Host.Outcome State Fault Refusal :=
  atWord 4 .fadd false h d a b s

/-- FMAX_S (R260): FP32 atomic maximumNumber. -/
def execFmaxS (h : Hdr) (d : BitVec 6) (a : BitVec 6) (b : BitVec 6) (s : State) :
    Host.Outcome State Fault Refusal :=
  atWord 4 .fmax false h d a b s

/-- AMIN_L (R259): Scratchpad signed atomic minimum. -/
def execAminL (h : Hdr) (d : BitVec 6) (a : BitVec 6) (b : BitVec 6) (s : State) :
    Host.Outcome State Fault Refusal :=
  atlWord .min h d a b s

/-- AMAX_L (R259): Scratchpad signed atomic maximum. -/
def execAmaxL (h : Hdr) (d : BitVec 6) (a : BitVec 6) (b : BitVec 6) (s : State) :
    Host.Outcome State Fault Refusal :=
  atlWord .max h d a b s

/-- AMINU_L (R259): Scratchpad unsigned atomic minimum. -/
def execAminuL (h : Hdr) (d : BitVec 6) (a : BitVec 6) (b : BitVec 6) (s : State) :
    Host.Outcome State Fault Refusal :=
  atlWord .minu h d a b s

/-- AMAXU_L (R259): Scratchpad unsigned atomic maximum. -/
def execAmaxuL (h : Hdr) (d : BitVec 6) (a : BitVec 6) (b : BitVec 6) (s : State) :
    Host.Outcome State Fault Refusal :=
  atlWord .maxu h d a b s

/-- AOR_L (R259): Scratchpad atomic OR. -/
def execAorL (h : Hdr) (d : BitVec 6) (a : BitVec 6) (b : BitVec 6) (s : State) :
    Host.Outcome State Fault Refusal :=
  atlWord .or h d a b s

/-- AAND_L (R259): Scratchpad atomic AND. -/
def execAandL (h : Hdr) (d : BitVec 6) (a : BitVec 6) (b : BitVec 6) (s : State) :
    Host.Outcome State Fault Refusal :=
  atlWord .and h d a b s

/-- AADD_L (R259): Scratchpad atomic add. -/
def execAaddL (h : Hdr) (d : BitVec 6) (a : BitVec 6) (b : BitVec 6) (s : State) :
    Host.Outcome State Fault Refusal :=
  atlWord .add h d a b s

/-- ASWAP_L (R259): Scratchpad atomic swap. -/
def execAswapL (h : Hdr) (d : BitVec 6) (a : BitVec 6) (b : BitVec 6) (s : State) :
    Host.Outcome State Fault Refusal :=
  atlWord .swap h d a b s

end Sys2Proof.Machine
end

