-- ==== Sys2Proof/Machine/BelayOps.lean ====
section
/-! DEFINITION. Belay words: BLY (R283 to R303). -/

namespace Sys2Proof.Machine

/-! ### Signing (R290) -/

/-- BELAY_FAULT at a word (R301). -/
def belayFault (s : State) (f : Fibre) (bl reason detail : Nat) (b : Belay) : WordOut :=
  trapOwn s f 0x07 (belayTval bl reason detail b.gen)

/-- A belay word or an MMA in trap mode: REASON 5, which is fatal (R158, R301). -/
def belayFatal (s : State) (f : Fibre) (bl : Nat) : WordOut :=
  let gen := (s.teamOf f).elim 0 fun t => (t.belay bl).gen
  .out (s.endFatal (f.fatalCause 0x07 (belayTval bl 5 0 gen)) 0x07 f.groupPc)

/-- What a sign brings: its FN, the kind it fits, its value, what XCHG or MMA records beside it, the registers owed a
result, whether the fibre waits, and an A fragment. -/
structure SignAsk where
  fn : Nat
  kind : Nat
  value : Word
  old : Word
  dst : List Nat
  waits : Bool
  frag : Option (List Word)
  deriving DecidableEq, Repr

/-- A sign recorded (R290 steps 7 to 9): the completion it may bring about follows at once (R293, R350). -/
def recordSign (bl : Nat) (q : SignAsk) (m : Nat) (b : Belay) (s : State) (f : Fibre) : WordOut :=
  let uid := s.uid
  let g : Sign := ⟨m, f.key.fid, uid, q.value, q.dst.headD 0, q.old, q.waits⟩
  let b := { b with signed := b.signed ++ [g], op := if b.signed.isEmpty then q.fn else b.op,
                    aFrag := match q.frag with
                      | some ws => b.aFrag ++ [(m, ws)]
                      | none => b.aFrag }
  let s := { s with uid := uid + 1 }.onTeam f.key.launch f.key.team fun t => t.setBelay bl b
  let f := q.dst.foldl (fun f d => f.await d uid) f
  if q.waits then
    match s.block f (.belay bl) with
    | .out s => .out (s.tryBelay f.key.launch f.key.team bl)
    | o => o
  else
    let s := (s.setFibre f).tryBelay f.key.launch f.key.team bl
    .next s ((s.fibre? f.key).getD f)

/-- Whether a sign of a member would complete a generation of kind 1 whose queue is full (R344). -/
def State.mmaFull (s : State) (f : Fibre) (b : Belay) (members : List Nat) (fid : Nat) : Bool :=
  cfgKind b.config == 1 && s.queueFull f.core &&
    members.all fun x => x == fid || b.signed.any (fun g => g.fid == x) || s.absent f.key.launch f.key.team b x

/-- A sign of a belay (R290): fatal in trap mode; else a commit point, once every earlier TBLD of the fibre has taken effect (R289),
then the checks in their order. -/
def signWord (bl : Nat) (q : SignAsk) (s : State) (f : Fibre) : WordOut :=
  if f.trapMode then belayFatal s f bl
  else if f.inTask then taskFault s f 2
  else if f.relHold.isSome || s.tablesOut f then .stall
  else
    commitPoint (fun s f =>
      match s.teamOf f, s.launchOf f with
      | some t, some l =>
        let b := t.belay bl
        let members := cfgMembers b.config l
        if !b.armed then belayFault s f bl 1 0 b
        else if cfgKind b.config != q.kind then belayFault s f bl 4 q.fn b
        else
          match memberOf members f.key.fid with
          | none => belayFault s f bl 2 f.key.fid b
          | some m =>
            if b.late.contains f.key.fid then belayFault s f bl 2 f.key.fid b
            else if b.signed.any fun g => g.fid == f.key.fid then belayFault s f bl 3 m b
            else if !b.signed.isEmpty && b.op != q.fn then belayFault s f bl 4 b.op b
            else if s.mmaFull f b members f.key.fid then .stall
            else recordSign bl q m b s f
      | _, _ => .stall) s f

/-- A BLY sign with a value and one destination (R288). -/
def blyWord (fn kind : Nat) (h : Hdr) (l : BitVec 5) (w : Bool) (a d : BitVec 6) :
    State → Host.Outcome State Fault Refusal :=
  runWord h.e h.pg h.pn false fun s f =>
    withOpds [⟨1, d, .long⟩, ⟨2, a, .src⟩] []
      (fun s f => signWord l.toNat ⟨fn, kind, f.src a, f.src d, [d.toNat], w, none⟩ s f) s f

/-! ### ARM (R284 to R287, R295) -/

/-- The first pattern entry that names a source that does not exist (R295). -/
def badEntry (c : Word) (pt : List Byte) : Option Nat :=
  let n := cfgCount c
  let js := 64 / cfgSub c
  ((upFrom 0 n).flatMap fun d => (upFrom 0 js).map fun j => 8 * d + j).find? fun i =>
    let e := (nth (0xFF#8) pt i).toNat
    decide (e < 0xFE) && (decide (n ≤ e / 8) || decide (js ≤ e % 8))

/-- Whether a configuration word is one that ARM refuses (R285, R287). -/
def cfgBad (c : Word) (l : Launch) : Bool :=
  if bitOf c 63 then decide (c.toNat % 2 ^ 63 ≠ 0) else !(cfgValid c l)

/-- ARM with a word that is in order, after its commit (R287). -/
def armBelay (bl : Nat) (c : Word) (t : Team) (s : State) (f : Fibre) : WordOut :=
  let b := t.belay bl
  let put := fun (b : Belay) => WordOut.next (s.onTeam f.key.launch f.key.team fun t => t.setBelay bl b) f
  if bitOf c 63 then
    if !b.signed.isEmpty then belayFault s f bl 6 0 b else put { b with armed := false, aLatch := none }
  else if b.armed && b.config == c then .next s f
  else
    let pt := bitsOf c 31 29
    let arm := fun (pattern : List Byte) =>
      if !b.signed.isEmpty then belayFault s f bl 6 0 b
      else put { b with config := c, armed := true, aLatch := none,
                        pattern := if cfgKind c = 2 then pattern else b.pattern }
    if cfgKind c != 2 then arm []
    else
      match nth none t.patterns pt with
      | none => trapOwn s f 0x0B (BitVec.ofNat 64 pt)
      | some table =>
        match badEntry c table with
        | some i => belayFault s f bl 7 i b
        | none => arm table

/-- ARM (R287): Configures or disarms a belay, after every earlier TBLD of the fibre (R287, R289). -/
def execArm (h : Hdr) (l : BitVec 5) (a : BitVec 6) (s : State) :
    Host.Outcome State Fault Refusal :=
  runWord h.e h.pg h.pn false (fun s f =>
    let bad := f.known a && (s.launchOf f).elim false (cfgBad (f.src a))
    withOpds [⟨2, a, .src⟩] (badValue bad f.inTask 2) (fun s f =>
      if f.trapMode then belayFatal s f l.toNat
      else if f.inTask then taskFault s f 2
      else if f.relHold.isSome || s.tablesOut f then .stall
      else
        commitPoint (fun s f =>
          match s.teamOf f with
          | some t => armBelay l.toNat (f.src a) t s f
          | none => .stall) s f) s f) s

/-- SIGN (R290): Signs a generic belay; receives the lowest signer's value. -/
def execSign (h : Hdr) (l : BitVec 5) (w : Bool) (a : BitVec 6) (d : BitVec 6) (s : State) :
    Host.Outcome State Fault Refusal :=
  blyWord 1 0 h l w a d s

/-- VOTE (R293): Signs a vote; receives the 32-bit ballot. -/
def execVote (h : Hdr) (l : BitVec 5) (w : Bool) (a : BitVec 6) (d : BitVec 6) (s : State) :
    Host.Outcome State Fault Refusal :=
  blyWord 2 0 h l w a d s

/-- XCHG (R294): Exchanges sub-elements through the belay's pattern table. -/
def execXchg (h : Hdr) (l : BitVec 5) (w : Bool) (a : BitVec 6) (d : BitVec 6) (s : State) :
    Host.Outcome State Fault Refusal :=
  blyWord 4 2 h l w a d s

/-- REDMAX (R293): Signs a value; receives the signed maximum. -/
def execRedmax (h : Hdr) (l : BitVec 5) (w : Bool) (a : BitVec 6) (d : BitVec 6) (s : State) :
    Host.Outcome State Fault Refusal :=
  blyWord 6 0 h l w a d s

/-- REDADD (R293): Signs a value; receives the sum. -/
def execRedadd (h : Hdr) (l : BitVec 5) (w : Bool) (a : BitVec 6) (d : BitVec 6) (s : State) :
    Host.Outcome State Fault Refusal :=
  blyWord 7 0 h l w a d s

/-- SCAN (R293): Signs an addend; receives the exclusive prefix sum and total. -/
def execScan (h : Hdr) (l : BitVec 5) (w : Bool) (a : BitVec 6) (d : BitVec 6) (s : State) :
    Host.Outcome State Fault Refusal :=
  runWord h.e h.pg h.pn false (fun s f =>
    withOpds [⟨1, d, .longGroup 2⟩, ⟨2, a, .src⟩] []
      (fun s f => signWord l.toNat ⟨3, 0, f.src a, 0, [d.toNat, d.toNat + 1], w, none⟩ s f) s f) s

/-- BAR (R298): Arrives at a barrier belay; receives the new GEN. -/
def execBar (h : Gd) (l : BitVec 5) (w : Bool) (d : BitVec 6) (s : State) :
    Host.Outcome State Fault Refusal :=
  runWord true h.pg h.pn false (fun s f =>
    withOpds [⟨1, d, .long⟩] [] (fun s f => signWord l.toNat ⟨5, 3, 0, 0, [d.toNat], w, none⟩ s f) s f) s

end Sys2Proof.Machine
end

