-- ==== Sys2Proof/Machine/Cairn.lean ====
section
/-! DEFINITION. Cairn's slices, floor and horizon, pushes and task ends (R367 to R389). -/

namespace Sys2Proof.Machine

/-! ### Buckets, floor and horizon (R371, R375) -/

/-- Whether a task counts toward the floor: not an inversion push whose announcement is still under way (R376, R378). -/
def State.counts (s : State) (t : Task) : Bool := !(s.cairn.pushes.any fun p => p.uid == t.uid)

/-- The floor F (R375). -/
def State.floor (s : State) (wl : Nat) : Option Nat :=
  let w := s.wl wl
  minOf ((w.tasks.filter s.counts).map fun t => w.bucket t.prio)

/-- The horizon H (R375). -/
def State.horizonNow (s : State) (wl : Nat) : Option Nat :=
  (s.floor wl).map fun f => Nat.min (f + (s.wl wl).delta) (2 ^ 32 - 1)

/-! ### Pushes (R374, R378, R392) -/

/-- A fibre that waits for a push goes on when it is accepted; WPUSHS has its promise (R392). -/
def State.wakePusher (s : State) (p : Push) : State :=
  s.onFibre p.issuer fun f =>
    let f := if p.ticket.isSome then { f with ft := Nat.max f.ft (s.ftime + 2000) } else f
    if f.status = .blocked (.push p.uid) then f.wake s.ftime else f

/-- A push accepted if it has a place, once the GWCTs of the writes that its issuer had issued before it are in its VT (R379):
the worklist is OPEN again (R387); an inversion push stays to be announced. -/
def State.tryPush (s : State) (p : Push) : State :=
  if p.accepted || s.writesBefore p.issuer p.uid then s
  else
    match (s.wl p.wl).place p.core ⟨p.uid, p.prio, p.entry, p.payload, p.vt, .queued p.core⟩ with
    | none => s
    | some w =>
      let w := { w with accepted := w.accepted + 1, terminated := false }
      let s := s.onWl p.wl fun _ => w
      let rest := s.cairn.pushes.filter fun q => q.uid != p.uid
      let mine := if p.inversion then [{ p with accepted := true, acceptedAt := s.ftime }] else []
      { s with cairn := { s.cairn with pushes := rest ++ mine } }.wakePusher p

/-- Every push that waits at a core looked at, in the order presented. -/
def State.tryPushes (s : State) (k : FKey) : State :=
  (s.cairn.pushes.filter fun p => decide (p.issuer = k)).foldl (fun s p => s.tryPush p) s

/-- The horizon broadcast (R375): every core's horizon, the windows that the floor has passed, refills, and spills of what
stood above its window. -/
def State.broadcast (s : State) (wl : Nat) : State :=
  let h := s.horizonNow wl
  let f := (s.floor wl).getD 0
  s.onWl wl fun w =>
    let w := { w with horizon := h, oldDeltas := [], base := Nat.max w.base f,
                      windows := w.windows.map fun (p : Nat × Nat) => (p.1, Nat.max p.2 f) }
    (w.spillCores.foldl (fun w c => w.refill c w.tasks.length) w).spillLate

/-- A held task done (R394): it no longer exists. -/
def State.completeTask (s : State) (t : HeldTask) : State :=
  s.onWl t.wl fun w => { w with tasks := w.tasks.filter (fun x => x.uid != t.uid), completed := w.completed + 1 }

/-- WDONE, or the WDONE of an END, goes on once every push of the fibre is accepted and announced (R179, R394). -/
def State.tryDone (s : State) (k : FKey) : State :=
  match s.fibre? k with
  | none => s
  | some f =>
    let s := s.tryPushes k
    let waiting := s.cairn.pushes.any fun p => decide (p.issuer = k)
    let finish := fun (f : Fibre) => { f with task := none, spc := f.pc, rstart := f.rstack, rstartDepth := f.depth }
    match f.status, f.task with
    | .blocked (.wdone _), some t => if waiting then s else (s.completeTask t).setFibre ((finish f).wake s.ftime)
    | .blocked (.endingTask c), some t =>
      if waiting || !(c.all s.atomMayLeave) then s else (s.completeTask t).endCount (finish f) c
    | _, _ => s

/-! ### Delivery (R375, R377, R380, R393) -/

/-- The tasks of a core's slice that it may deliver now, all of the lowest bucket that has one. -/
def State.eligible (s : State) (wl core : Nat) : List Task :=
  let w := s.wl wl
  let ok := w.tasks.filter fun t =>
    decide (t.at_ = .queued core) && (w.horizon.elim false fun h => decide (w.bucket t.prio ≤ h)) && decide (t.vt ≤ s.ftime)
  match minOf (ok.map fun t => w.bucket t.prio) with
  | some b => ok.filter fun t => w.bucket t.prio == b
  | none => []

/-- An idle request of a core (R386). -/
def State.idleAt (s : State) (wl core : Nat) : State :=
  s.onWl wl fun w => if w.idle.contains core then w else { w with idle := w.idle ++ [core] }

/-- D of a delivered task. -/
def taskWord (t : HeldTask) : Word := BitVec.ofNat 64 (t.prio.toNat % 2 ^ 32 + t.entry.toNat % 2 ^ 32 * 2 ^ 32)

/-- A task made a fibre's. -/
def Task.held (t : Task) (wl d : Nat) (dispatch : Bool) : HeldTask :=
  ⟨wl, t.uid, t.prio.setWidth 64, t.entry.setWidth 64, t.payload, d, dispatch⟩

/-- A fibre that begins a task region at its popping word (R380). -/
def Fibre.beginTask (f : Fibre) (t : HeldTask) (spc : Word) : Fibre :=
  { f with task := some t, keptTask := none, spc := spc, rstart := f.rstack, rstartDepth := f.depth, acqHold := true }

/-- The handler a dispatched task goes to. -/
def State.handlerOf (s : State) (f : Fibre) (t : HeldTask) : Word :=
  BitVec.ofNat 64 ((s.launchOf f).elim 0 (·.text) + 4 * nth 0 (s.wl t.wl).handlers (t.entry.toNat % 2 ^ 32))

/-- A task delivered to a fibre blocked in WPOPW (R393). -/
def State.deliverBlocked (s : State) (f : Fibre) (wl d : Nat) (dispatch : Bool) (t : Task) : State :=
  let h := t.held wl d dispatch
  let s := s.moveTask wl t.uid (.running f.key)
  let f := (((f.beginTask h f.spc).writeG d (taskWord h)).writeG (d + 1) h.payload).wake s.ftime
  s.setFibre (if dispatch then { f with pc := s.handlerOf f h } else f)

/-- The empty value of WPOPW at termination (R393). -/
def State.deliverEmpty (s : State) (f : Fibre) (d : Nat) : State :=
  s.setFibre (((f.writeG d (BitVec.allOnes 64)).writeG (d + 1) 0).wake s.ftime)

/-- D of WTERM (R396). -/
def Worklist.terms (w : Worklist) : Word :=
  BitVec.ofNat 64 (w.terminations % 2 ^ 63 + (if w.lost = 0 then 0 else 2 ^ 63))

/-- The promise of a WPUSHS settled with its announcement: one that was missed is reported then (R22, R24, R392). -/
def State.settlePush (s : State) (p : Push) : State :=
  match p.ticket with
  | some t => if p.missed then s.postMiss p.issuer t else s
  | none => s

/-! ### The directory's and the cores' own moves -/

/-- PUSH_ACCEPTANCE (R374): A waiting push obtains a slice entry or spill chunk and is accepted. -/
def execPushAcceptance (push : Nat) (s : State) : Host.Outcome State Fault Refusal :=
  match s.cairn.pushes.find? fun p => p.uid == push with
  | some p => .next ((s.tryPush p).tryDone p.issuer)
  | none => .next s

/-- INVERSION_PUSH_ANNOUNCED (R378): An inversion push's announcement reaches every core's horizon. -/
def execInversionPushAnnounced (push : Nat) (s : State) : Host.Outcome State Fault Refusal :=
  match s.cairn.pushes.find? fun p => p.uid == push with
  | some p =>
    if p.accepted then
      let s := { s with cairn := { s.cairn with pushes := s.cairn.pushes.filter fun q => q.uid != push } }
      .next ((s.settlePush p).broadcast p.wl |>.tryDone p.issuer)
    else .next s
  | none => .next s

/-- HORIZON_BROADCAST (R375): The directory recomputes the floor and broadcasts the horizon. -/
def execHorizonBroadcast (wl : Nat) (s : State) : Host.Outcome State Fault Refusal :=
  .next (if wl < 8 then s.broadcast wl else s)

/-- WPOPW_DELIVERY (R393): A blocked WPOPW receives an eligible task and begins its task region. -/
def execWpopwDelivery (k : FKey) (pick : Nat) (s : State) : Host.Outcome State Fault Refusal :=
  match s.fibre? k with
  | some f =>
    match f.status with
    | .blocked (.wpopw wl d dispatch) =>
      if f.saved then .next s else
      match s.eligible wl f.core with
      | t :: r => .next (s.deliverBlocked f wl d dispatch (nth t (t :: r) (pick % (r.length + 1))))
      | [] => .next (if (s.wl wl).terminated then s.deliverEmpty f d else s)
    | _ => .next s
  | none => .next s

/-- Tasks of a core that another may be sent (R386): eligible ones, the lowest buckets first, at most `n`. -/
def State.toSend (s : State) (wl core : Nat) : Nat → Worklist → List Task
  | 0, _ => []
  | n + 1, w =>
    match (s.onWl wl fun _ => w).eligible wl core with
    | t :: _ => t :: s.toSend wl core n { w with tasks := w.tasks.filter fun x => x.uid != t.uid }
    | [] => []

/-- Whether a WPOPW waits at a core (R386). -/
def State.popWaits (s : State) (wl core : Nat) : Bool :=
  s.fibres.any fun f => f.core == core && !f.saved && (match f.status with | .blocked (.wpopw w _ _) => w == wl | _ => false)

/-- Whether a core makes an idle request: for a WPOP that found nothing, or while a WPOPW waits there and nothing is on its way
to it (R386). -/
def State.asksTasks (s : State) (wl core : Nat) : Bool :=
  let w := s.wl wl
  (w.idle.contains core || (s.popWaits wl core && !(w.tasks.any fun t => decide (t.at_ = .transit core)))) &&
    (s.eligible wl core).isEmpty

/-- IDLE_REQUEST (R386): The directory names the core with the lowest eligible bucket to send tasks. -/
def execIdleRequest (wl core : Nat) (s : State) : Host.Outcome State Fault Refusal :=
  let w := s.wl wl
  if !(decide (wl < 8) && s.asksTasks wl core) then .next s
  else
    let cores := dedup (w.tasks.filterMap fun t => match t.at_ with | .queued c => if c = core then none else some c | _ => none)
    let best := cores.filterMap fun c => (s.eligible wl c).head?.map fun t => (w.bucket t.prio, c)
    match minOf (best.map (·.1)) with
    | none => .next s
    | some b =>
      match best.find? fun x => x.1 == b with
      | none => .next s
      | some (_, c) =>
        let ts := s.toSend wl c 32 w
        .next (s.onWl wl fun w =>
          { ts.foldl (fun w t => w.put t.uid (.transit core)) w with idle := w.idle.filter (· != core) })

/-- TASK_TRANSFER_ARRIVAL (R386): Tasks in transit arrive in the requesting slice, as far as it has room (R373). -/
def execTaskTransferArrival (wl core : Nat) (s : State) : Host.Outcome State Fault Refusal :=
  if wl < 8 then
    .next (s.onWl wl fun w => w.arrive core)
  else .next s

/-- TERMINATED declared (R387, R388): fibres in WPOPW and WTERM leave. -/
def State.declareTerminated (s : State) (wl : Nat) : State :=
  let s := s.onWl wl fun w => { w with terminated := true, terminations := w.terminations + 1, sweep := none }
  s.fibres.foldl (fun s f =>
    match f.status with
    | .blocked (.wpopw w d _) => if w = wl then s.deliverEmpty f d else s
    | .blocked (.wterm w d) => if w = wl then s.setFibre ((f.writeG d (s.wl wl).terms).wake s.ftime) else s
    | _ => s) s

/-- TERMINATION_SWEEP (R387): The directory's periodic sweep may declare TERMINATED and release waiters. -/
def execTerminationSweep (wl : Nat) (s : State) : Host.Outcome State Fault Refusal :=
  let w := s.wl wl
  if !(decide (wl < 8) && decide (w.sweptAt + 1000 ≤ s.ftime)) then .next s
  else
    let quiet := decide (1 ≤ w.accepted) && w.tasks.isEmpty && !(s.cairn.pushes.any fun p => p.wl == wl && !p.accepted) &&
      w.accepted == w.completed + w.lost && !w.terminated && w.bound.isSome
    let seen := (w.accepted, w.completed + w.lost)
    let s := s.onWl wl fun w => { w with sweptAt := s.ftime, sweep := if quiet then some seen else none }
    .next (if quiet && decide (w.sweep = some seen) then s.declareTerminated wl else s)

end Sys2Proof.Machine
end

