-- ==== Sys2Proof/Machine/Control.lean ====
section
/-! DEFINITION. Branches, calls, returns and traps: BR, CALL and JMP (R173 to R176). -/

namespace Sys2Proof.Machine

/-- The check of a control target (R174): MISALIGNED where the form checks it, then ACCESS_VIOLATION outside .text. -/
def withTarget (aligned : Bool) (t : Word) (k : State → Fibre → WordOut) (s : State) (f : Fibre) : WordOut :=
  if aligned && t.toNat % 4 != 0 then trapOwn s f 0x03 t
  else if (s.launchOf f).elim false (·.inText t) then k s f
  else trapOwn s f 0x04 t

/-- The target of BR and CALL (R173). -/
def Fibre.relTarget (f : Fibre) (i : BitVec 21) : Word := f.pc + 4 + 4 * f.widen 21 i.toNat

/-- RTT (R176): the innermost mode is left; the run that starts at TPC has the latches saved for it. A cause that the
handler served is served when trap mode is left. -/
def rttWord (s : State) (f : Fibre) : WordOut :=
  match f.trapReturn with
  | none => trapField s f 0x02 0
  | some (f', lat) =>
    withTarget false f.tpc (fun s _ =>
      let f' := { (f'.pastWord true).endRun f.tpc s.ftime with lat := lat }
      .out (s.setFibre { f' with serving := if f'.trapMode then f'.serving else none })) s f

/-- BR (R173): PC-relative branch, guarded for conditions. -/
def execBr (h : Gd) (i : BitVec 21) (s : State) :
    Host.Outcome State Fault Refusal :=
  runWord true h.pg h.pn false (fun s f =>
    withTarget false (f.relTarget i) (fun s f => .jump s f (f.relTarget i)) s f) s

/-- CALL (R173): Pushes the return address and branches. Of a bad target and a push that faults, which R54 leaves in no
order, the target is reported (log 55). -/
def execCall (h : Gd) (i : BitVec 21) (s : State) :
    Host.Outcome State Fault Refusal :=
  runWord true h.pg h.pn false (fun s f =>
    withTarget false (f.relTarget i) (withPush (f.pc + 4) (fun s f => .jump s f (f.relTarget i))) s f) s

/-- JR (R176): Jumps to the address in a register. -/
def execJr (h : Gd) (a : BitVec 6) (s : State) :
    Host.Outcome State Fault Refusal :=
  runWord true h.pg h.pn false (fun s f =>
    withOpds [⟨2, a, .src⟩] [] (fun s f =>
      withTarget true (f.src a) (fun s f => .jump s f (f.src a)) s f) s f) s

/-- JRL (R176): Pushes the return address and jumps to a register; the target is checked before the push (log 55). -/
def execJrl (h : Gd) (a : BitVec 6) (s : State) :
    Host.Outcome State Fault Refusal :=
  runWord true h.pg h.pn false (fun s f =>
    withOpds [⟨2, a, .src⟩] [] (fun s f =>
      withTarget true (f.src a) (withPush (f.pc + 4) (fun s f => .jump s f (f.src a))) s f) s f) s

/-- RET (R176): Pops the return stack and jumps there. -/
def execRet (h : Gd) (s : State) :
    Host.Outcome State Fault Refusal :=
  runWord true h.pg h.pn false (fun s f =>
    if f.waits rsReg then .stall
    else if f.depth = 0 then trapField s f 0x02 0
    else
      withTarget true (nth 0 f.rstack 0) (withPop (fun v s f => .jump s f v)) s f) s

/-- TRAP (R176): Enters the trap handler with a 12-bit number. -/
def execTrap (h : Gd) (t : BitVec 12) (s : State) :
    Host.Outcome State Fault Refusal :=
  runWord true h.pg h.pn false (fun s f => .trap s f.sched 0x0D (BitVec.ofNat 64 t.toNat) (f.pc + 4)) s

/-- RTT (R176): Returns from the team handler or system vector to TPC. -/
def execRtt (h : Gd) (s : State) :
    Host.Outcome State Fault Refusal :=
  runWord true h.pg h.pn false rttWord s

/-- BRK (R176): Traps when FST.BKE is set, otherwise does nothing. -/
def execBrk (h : Hdr) (s : State) :
    Host.Outcome State Fault Refusal :=
  runWord h.e h.pg h.pn false (fun s f =>
    if f.bke then .trap s f.sched 0x0D 0x1000 (f.pc + 4) else .next s f) s

end Sys2Proof.Machine
end

