-- ==== Sys2Proof/Machine/Engine.lean ====
section
/-! DEFINITION. What the copy, gather and launch engines share: command queues, guards, arrival, the bandwidth calendar,
acceptance with its promise, settling and missed promises (R19 to R33, R103, R104, R271, R315). -/

namespace Sys2Proof.Machine

/-! ### Commands -/

/-- The command of a number. -/
def State.cmd? (s : State) (uid : Nat) : Option Cmd := s.cmds.find? fun c => c.uid == uid

/-- The state with a command changed. -/
def State.onCmd (s : State) (uid : Nat) (g : Cmd → Cmd) : State :=
  { s with cmds := s.cmds.map fun c => if c.uid == uid then g c else c }

/-- The state without a command. -/
def State.dropCmd (s : State) (uid : Nat) : State := { s with cmds := s.cmds.filter fun c => c.uid != uid }

/-- What a fibre that is rolled back had presented and not had accepted is withdrawn: the fibre presents it again (R123 step 2). -/
def State.withdraw (s : State) (f : Fibre) : State :=
  match f.status with
  | .blocked (.accept c) => s.dropCmd c
  | .blocked (.push p) => { s with cairn := { s.cairn with pushes := s.cairn.pushes.filter fun q => q.uid != p } }
  | _ => s

/-- The fibre whose presentation is withdrawn: SEQ does not count it (R25). -/
def Fibre.withdrawn (f : Fibre) : Fibre :=
  match f.status with
  | .blocked (.accept _) | .blocked (.push _) => { f with seq := f.seq - 1 }
  | _ => f

/-- Whether a command performs an acquire, or a release (R33). -/
def Cmd.acq (c : Cmd) : Bool := c.ord % 2 == 1
def Cmd.rel (c : Cmd) : Bool := decide (2 ≤ c.ord)

/-- Whether a command is still in its team's queue (R19). -/
def Cmd.queued (c : Cmd) : Bool := decide (c.state = .presented) || decide (c.state = .held) || decide (c.state = .admitting)

/-- Whether two commands share a queue: the same team and engine. -/
def Cmd.sameQueue (c d : Cmd) : Bool :=
  c.engine == d.engine && c.issuer.launch == d.issuer.launch && c.issuer.team == d.issuer.team

/-- The commands of a command's queue before it. -/
def State.ahead (s : State) (c : Cmd) : List Cmd := s.cmds.filter fun d => d.queued && d.sameQueue c && decide (d.uid < c.uid)

/-- Whether a command holds an entry of its team's queue, which has 16: one that does not waits for an entry, and has not arrived
(R19). An entry is free again once its command is accepted, admitted or discarded. -/
def State.hasEntry (s : State) (c : Cmd) : Bool := decide ((s.ahead c).length < Config.queueEntries)

/-- What a guard has decided for a command: none while it is undecided, else whether the condition holds (R30). -/
def State.guardSays (s : State) (c : Cmd) : Option Bool :=
  match c.guard with
  | none => some true
  | some (q, neg) =>
    match (s.team? c.issuer.launch c.issuer.team).map fun t => nth Slot.unresolved t.guards q with
    | some .true_ => some (!neg)
    | some .false_ => some neg
    | _ => none

/-- The unit that serves an engine's commands of a core: the die's copy engine, the requesting switch die (R315), the
launch engine. -/
def unitOf (engine core : Nat) : Nat :=
  if engine = 1 then dieOfCore core else if engine = 2 then dieOfCore core / 2 else 0

/-- The ticket of a fibre's next command (R25). -/
def Fibre.nextTicket (f : Fibre) (engine : Nat) : Word := BitVec.ofNat 64 (engine * 2 ^ 60 + f.seq % 2 ^ 32)

/-! ### The acquire of a command (R103) -/

/-- The state in which a command waits for the GWCTs of some writes on their way. -/
def State.awaitOuts (s : State) (uid : Nat) (sel : OutWrite → Bool) : State :=
  let mark := fun (o : OutWrite) => if sel o && !(o.cmds.contains uid) then { o with cmds := uid :: o.cmds } else o
  s.onMem fun m => { m with outs := m.outs.map mark }

/-- The issuer's GWMAX at presentation, for which an acquiring command waits, also has the GWCTs that its writes on their way are
still to receive (R83, R103). -/
def State.awaitIssuer (s : State) (uid : Nat) (fk : FKey) : State :=
  s.awaitOuts uid fun o => o.fibres.contains fk || o.backFor.contains fk

/-- The acquire of a command begins: the write-backs of FENCE.rel on the issuer's behalf, whose GWCTs the command waits
for, as for those of the core's write-backs under way or not yet visible (R103; log 14). -/
def State.beginAcquire (s : State) (uid core scope : Nat) : State :=
  let s := (s.writeBacks core scope [] [uid]).awaitOuts uid fun o =>
    match o.kind, o.issuer with
    | .store, _ => false
    | _, .core c => c == core && scope != 0
    | _, .die d => d == dieOfCore core && decide (3 ≤ scope)
    | _, .none => false
  let horizon := if scope = 0 then 0 else Nat.max (s.wbHorizon core scope) (s.fenceHorizon core scope)
  s.onCmd uid fun c => { c with acqWait := Nat.max c.acqWait horizon }

/-- Whether a command's acquire wait is known: its write-backs have arrived. -/
def State.acqKnown (s : State) (c : Cmd) : Bool := !c.acq || !(s.m.outs.any fun o => o.cmds.contains c.uid)

/-! ### The calendar (R19) -/

/-- A resource: of a unit of an engine, or with engine 0 the fabric capacity of a switch die, which engines share (R406). -/
structure CalKey where
  engine : Nat
  unit : Nat
  res : Nat
  deriving DecidableEq, Repr

/-- Whether a calendar is that of a resource. -/
def CalKey.is (k : CalKey) (c : Calendar) : Bool := c.engine == k.engine && c.unit == k.unit && c.res == k.res

/-- The cost placed in a granule of a resource. -/
def State.usedIn (s : State) (k : CalKey) (g : Nat) : Nat :=
  match s.calendars.find? k.is with
  | some c => lookupD 0 c.used g
  | none => 0

/-- The state with cost added to granules of a resource; past granules are forgotten. -/
def State.reserve (s : State) (k : CalKey) (adds : List (Nat × Nat)) : State :=
  let old := (s.calendars.find? k.is).elim [] (·.used)
  let used := adds.foldl (fun u a => putNat u a.1 (lookupD 0 u a.1 + a.2)) (old.filter fun p => decide (s.ftime / Config.granule ≤ p.1))
  { s with calendars := ⟨k.engine, k.unit, k.res, used⟩ :: s.calendars.filter fun c => !(k.is c) }

/-- Cost placed in the granules of a list, in their order, as far as each has room: what each gets, and what is left. -/
def placeIn' (room : Nat → Nat) : List Nat → Nat → List (Nat × Nat) × Nat
  | [], cost => ([], cost)
  | g :: r, cost =>
    if cost = 0 then ([], 0)
    else
      let k := Nat.min cost (room g)
      let (l, left) := placeIn' room r (cost - k)
      (if k = 0 then l else (g, k) :: l, left)

/-- The granules of the calendar from that of a time on: it holds 256 from the present one (R19). -/
def State.granulesFrom (s : State) (t : Time) : List Nat :=
  let first := t / Config.granule
  upFrom first (s.ftime / Config.granule + Config.granules - first)

/-- A part of the fabric capacity of a switch die that a demand takes too: its capacity in a granule, and how many units of cost
pass one byte over the fabric (R406). -/
structure FabricShare where
  sw : Nat
  cap : Nat
  div : Nat
  deriving DecidableEq, Repr

/-- A demand of a command on a resource: the capacity of a granule, the cost, the granules that a peer has granted with the bytes
granted in each, and the fabric capacity that it takes. -/
structure Demand where
  key : CalKey
  cap : Nat
  cost : Nat
  granted : Option (List (Nat × Nat))
  fabric : Option FabricShare
  deriving DecidableEq, Repr

/-- The fabric capacity of a switch die as a resource. -/
def FabricShare.key (x : FabricShare) : CalKey := ⟨0, x.sw, 4⟩

/-- The room that a granule has for a demand. -/
def State.roomIn (s : State) (d : Demand) (g : Nat) : Nat :=
  let own := d.cap - s.usedIn d.key g
  let own := d.granted.elim own fun l => Nat.min own (lookupD 0 l g)
  d.fabric.elim own fun x => Nat.min own ((x.cap - s.usedIn x.key g) * x.div)

/-- What a placement of a demand adds, by resource. -/
def Demand.charges (d : Demand) (adds : List (Nat × Nat)) : List (CalKey × List (Nat × Nat)) :=
  (d.key, adds) :: d.fabric.elim [] fun x => [(x.key, adds.map fun a => (a.1, (a.2 + x.div - 1) / x.div))]

/-- A placement of demands from a time on: the additions by resource, and the end of the last granule; none when the
calendars cannot hold it yet. -/
def State.placeAll (s : State) (t : Time) : List Demand → Option (List (CalKey × List (Nat × Nat)) × Nat)
  | [] => some ([], 0)
  | d :: r =>
    match placeIn' (s.roomIn d) (s.granulesFrom t) d.cost with
    | (adds, 0) =>
      let all := d.charges adds
      ((all.foldl (fun s x => s.reserve x.1 x.2) s).placeAll t r).map fun x =>
        (all ++ x.1, Nat.max (maxList (adds.map (·.1 + 1))) x.2)
    | _ => none

/-- The fabric capacity on which the far work of a command counts: that of the up ports of the switch die at two lanes each (R406), but
none where the command would not fit a calendar span so, as R271 and R315 have every command fit one (log 74). -/
def State.fabricShare (s : State) (sw cost div : Nat) : Option FabricShare :=
  let up := ((upFrom (24 * sw) 24).filter fun p => (nth Port.initial s.fab.ports p).state == 2).length
  let cap := up * Config.portBytes
  if Config.granules * cap * div < cost then none else some ⟨sw, cap, div⟩

/-! ### Costs -/

/-- Bytes of rows charged by a gather command to each home: the captured list folded (R315, R317). -/
def chargedRows (n : Bool) (rows : Nat) (list : List Nat) : List Nat :=
  let inside := list.filter fun r => decide (r < rows)
  if n then inside else dedup inside

/-- The home-map index of a row (R307). -/
def homeOf (desc : List Byte) (r : Nat) : Nat := r / Nat.max (descField desc 16 4) 1 % Nat.max (descField desc 22 1) 1

/-- A home-map entry (R306): its die, and its package unless that is this one. -/
def State.homeEntry (s : State) (desc : List Byte) (h : Nat) : Nat × Option Nat :=
  let e := descField desc (64 + 2 * h) 2
  let pkg := e % 4096
  (e / 4096 % 4, if e / 2 ^ 14 % 2 = 1 ∨ pkg = s.fab.id then none else some pkg)

/-- Whether a package serves gathers of this one as far as it is known (R306, R332): joined members, not departed. -/
def State.reachable (s : State) (peer : Nat) : Bool :=
  s.fab.peers.any fun p => p.id == peer && p.departed.isNone

/-- The rows a gather command charges, with die and package of each. -/
def State.chargesOf (s : State) (c : Cmd) : List (Nat × Option Nat) :=
  match c.gather with
  | none => []
  | some a => (chargedRows (bitOf (nth 0 c.regs 1) 41) (descField a.desc 12 4) a.list).map fun r => s.homeEntry a.desc (homeOf a.desc r)

/-- The peers that a gather command charges: those that it can reach. The spec does not say whether a row of a home that is unknown or
has departed at acceptance is charged to the fabric: the model charges it nowhere, and it adds nothing to the PCT (log 74). -/
def State.peersCharged (s : State) (c : Cmd) : List Nat :=
  dedup ((s.chargesOf c).filterMap (·.2) |>.filter s.reachable)

/-- The leaf a command holds for an address (R272), and the place of the address under it. -/
def Cmd.leaf? (c : Cmd) (va : Nat) : Option Leaf := (c.leaves.find? fun p => p.1 == va / 65536).map (·.2)
def Cmd.place? (c : Cmd) (va : Nat) : Option (Place × Leaf) := (c.leaf? va).map fun l => (placeIn l va, l)

/-- The shader die whose replica the engine of a command reads (R98). -/
def Cmd.readDie (c : Cmd) : Nat := if c.engine = 1 then c.unit else if c.engine = 2 then switchReadDie c.unit else frontDie

/-- Parts of a field of a descriptor that a command holds; the place of a line that has to come over the fabric or the host link
first. -/
def State.heldParts (s : State) (c : Cmd) : List (Nat × Nat) → Except Place (List Byte)
  | [] => .ok []
  | (va, n) :: r =>
    match c.place? va with
    | none => .ok []
    | some (p, leaf) =>
      if p.away && (s.fab.farLine p.line).isNone then .error p
      else (s.heldParts c r).map (s.agentLine p n leaf.key c.readDie ++ ·)

/-- The number in a field of a descriptor, under the translation that the command holds (R272). -/
def State.heldField (s : State) (c : Cmd) (va n : Nat) : Except Place Nat := (s.heldParts c (cutLines va n)).map natLE

/-- The cost of a copy command (R271). -/
def State.copyCost (s : State) (c : Cmd) : Except Place Nat :=
  let sb := nth 0 c.regs 3
  let len := bitsOf sb 24 0
  let chunks := (len + 4095) / 4096
  match c.form with
  | 0 => .ok (2 * len)
  | 1 => .ok (2 * len * bitsOf sb 47 32)
  | 2 => .ok len
  | 3 =>
    match s.heldField c ((nth 0 c.regs 1).toNat + 9) 1 with
    | .ok p =>
      let probe := if 1 ≤ p ∧ p ≤ 16 then p else 16
      .ok (4096 * ((if bitsOf sb 1 0 = 0 then 2 else 1) + probe) + 1024)
    | .error p => .error p
  | 4 => .ok (2 * len)
  | 5 => .ok 1024
  | _ => .ok (4096 * chunks)

/-- The device queue of a LAUNCH: the lesser of the descriptor's PRIO and the issuer's launch priority (R114, R131). -/
def State.launchPrio (s : State) (c : Cmd) : Except Place Nat :=
  (s.heldField c ((nth 0 c.regs 0).toNat + 38) 1).map fun p =>
    Nat.min (p % 8) ((s.launch? c.issuer.launch).elim 0 (·.prio))

/-- What a command asks of its unit's calendar; none while a peer has not granted, or a device queue has no room. -/
def State.demands (s : State) (c : Cmd) : Except Place (Option (List Demand)) :=
  match c.engine with
  | 1 =>
    let div := if c.form = 2 ∨ 5 ≤ c.form then 1 else 2
    (s.copyCost c).map fun n =>
      some [⟨⟨1, c.unit, 0⟩, 512 * 1024, n, none, if c.far then s.fabricShare (c.unit / 2) n div else none⟩]
  | 2 =>
    let rowb := (c.gather.elim 0 fun a => descField a.desc 10 2) + 32
    let ch := s.chargesOf c
    let granted := (s.peersCharged c).all fun p => c.grants.any fun g => g.1 == p
    let local_ := (upFrom 0 4).map fun d =>
      Demand.mk ⟨2, c.unit, d⟩ (1024 * 1024) (rowb * (ch.filter fun x => x.1 == d && x.2.isNone).length) none none
    let far := (s.peersCharged c).map fun p =>
      let n := if (lookupD [] c.grants p).isEmpty then 0 else rowb * (ch.filter fun x => decide (x.2 = some p)).length
      Demand.mk ⟨2, c.unit, 4⟩ (512 * 1024) n (some (lookupD [] c.grants p)) (s.fabricShare c.unit n 1)
    .ok (if granted then some (local_ ++ far) else none)
  | _ =>
    if c.form = 0 then
      if c.acq && decide (s.ftime < c.acqWait) then .ok none
      else
        (s.launchPrio c).map fun prio =>
          let waiting := (s.cmds.filter fun d => d.engine == 4 && d.form == 0 && decide (d.state = .accepted) && d.dq == prio).length
          if 256 ≤ (nth [] s.q.device prio).length + waiting then none else some [⟨⟨c.engine, c.unit, 0⟩, 64, 1, none, none⟩]
    else .ok (some [⟨⟨c.engine, c.unit, 0⟩, 64, 1, none, none⟩])

/-- The terms a promise adds to t_end (R131, R271, R315). -/
def Cmd.terms (c : Cmd) (far : Bool) : Nat :=
  (match c.engine with
   | 1 => 404 + (if c.rel then 10000 else 0)
   | 2 => 1604 + (if c.rel && (c.form == 3 || c.form == 4) then 10000 else 0)
   | _ => 404 + (if c.rel && c.form == 1 then 10000 else 0)) + (if far then 32028 else 0)

/-- RERR set in the issuing fibre of a command (R281, R323). -/
def State.cmdRerr (s : State) (c : Cmd) : State := s.onFibre c.issuer fun f => f.setFlags fstRERR

/-- A promise missed (R22): reported when the command settles. -/
def State.cmdMissed (s : State) (c : Cmd) : State := s.onCmd c.uid fun c => { c with missed := true }

/-- The promises of commands missed, of those that are accepted and have not settled (R22). -/
def State.missWhere (s : State) (mine : Cmd → Bool) : State :=
  { s with cmds := s.cmds.map fun c =>
      if (decide (c.state = .accepted) || decide (c.state = .done)) && mine c then { c with missed := true } else c }

/-- A command whose work has touched a departed peer, or the host behind a lost link: RERR, and its promise counts as
missed (R281, R413). -/
def State.cmdGone (s : State) (c : Cmd) : State := (s.cmdRerr c).cmdMissed c

/-! ### The export table (R402) -/

/-- What an export entry says of an exported frame. -/
structure Export where
  cls : Nat
  w : Bool
  key : Nat
  pa : Nat
  /-- Its own physical address. -/
  entry : Nat
  deriving DecidableEq, Repr

/-- The export entry of a frame: the class that refuses an access, or 0. -/
def State.exportOf (s : State) (frame : Nat) (write : Bool) : Export :=
  let at_ := s.fab.expbase.toNat + 8 * (frame % 2 ^ 26)
  let e := if s.fab.expbase = 0 then 0 else s.tableEntry at_
  let w := e / 2 % 2 == 1
  let key := e / 2 ^ 12 % 8192
  let pa := e / 2 ^ 26 * 65536
  let cls := if e % 2 = 0 then 1
    else if e / 4 % 1024 ≠ 0 ∨ e / 2 ^ 25 % 2 ≠ 0 ∨ !(paOk pa) then 3
    else if !(s.keyLoaded key) then 4
    else if write && !w then 2 else 0
  ⟨cls, w, s.keyId key, pa, at_⟩

/-! ### Rows of a gather command (R307, R316 to R318, R327) -/

/-- The address of a row (R307). -/
def rowAddr (desc : List Byte) (r : Nat) : Nat :=
  let rps := Nat.max (descField desc 16 4) 1
  descField desc 0 8 + r / rps * 65536 * descField desc 20 2 + r % rps * descField desc 10 2

/-- The 8-byte word of a bitmap that holds a bit: its address. -/
def bitWord (base r : Nat) : Nat := base + r / 64 * 8

/-- The groups of positions served together: by row unless N is set (R317). -/
def gGroups (n : Bool) (rows : Nat) (list : List Nat) : List (Nat × List Nat) :=
  let ps := (list.zip (upFrom 0 list.length)).filter fun p => decide (p.1 < rows)
  if n then ps.map fun p => (p.1, [p.2])
  else (dedup (ps.map (·.1))).map fun r => (r, (ps.filter fun p => p.1 == r).map (·.2))

/-- The groups of a gather command. -/
def Cmd.groups (c : Cmd) (a : GatherAsk) : List (Nat × List Nat) :=
  gGroups (bitOf (nth 0 c.regs 1) 41) (descField a.desc 12 4) a.list

/-- Whether a gather command writes its rows: SCATTER and SCADD. -/
def Cmd.scatters (c : Cmd) : Bool := c.form == 3 || c.form == 4

/-- The translation of a page as an engine's read or write that consults no fault service (R318): none where any failure makes its
positions fail. The export table of a peer is for that peer to consult (R319). -/
def State.rowLeaf (s : State) (c : Cmd) (write : Bool) (va : Nat) : Option Leaf :=
  let vpn := va / 65536
  if 2 ^ 57 ≤ va || (s.castWindow c.fn va).isSome || (s.fn c.fn).denials.contains vpn || (s.fn c.fn).troot.toNat % 2 == 0 then none
  else
    let walked := (s.walk c.fn va).toOption.map (·.1)
    let leaf := match s.cached (.engine c.engine) c.fn vpn with
      | some l => if Config.freeNat s.fresh % 2 = 0 then some l else walked
      | none => walked
    leaf.bind fun l => if write && !l.w then none else some l

/-- The table pages of a gather command (R316): of its rows, and for HAMD of their liveness words and allow-bitmap words. -/
def GatherAsk.pages (a : GatherAsk) (form : Nat) : List Nat :=
  dedup ((gGroups false (descField a.desc 12 4) a.list).flatMap fun g =>
    let at_ := rowAddr a.desc g.1
    let word := fun (base : Nat) => [bitWord base g.1 / 65536]
    [at_ / 65536, (at_ + descField a.desc 10 2 - 1) / 65536] ++
      (if form = 5 ∧ descField a.desc 24 8 ≠ 0 then word (descField a.desc 24 8) else []) ++
      (if form = 5 ∧ !a.adesc.isEmpty then word (descField a.adesc 0 8) else []))

/-- Whether a page's place lies on the home of the map (R318). -/
def onHome (write : Bool) (die : Nat) (peer : Option Nat) (p : Place) : Bool :=
  match p, peer with
  | .dram pa, none => homeDie pa == die
  | .repl _, none => !write
  | .peer i _, some q => i == q
  | _, _ => false

/-- The pieces of a range at a home, under the translations that a command holds: none where a page fails (R318). -/
def Cmd.rowPieces (c : Cmd) (die : Nat) (peer : Option Nat) : List (Nat × Nat) → Option (List Piece)
  | [] => some []
  | (va, n) :: r =>
    match c.leaf? va with
    | some leaf => if onHome c.scatters die peer leaf.base then (c.rowPieces die peer r).map (⟨placeIn leaf va, n, leaf, va⟩ :: ·) else none
    | none => none

/-- Whether a home is lost to a command: it is unknown here, has departed, or has come back under a new incarnation (R306, R323). -/
def State.homeGone (s : State) (c : Cmd) (peer : Option Nat) : Bool :=
  match peer with
  | some p => !(s.reachable p) || c.stale.contains p
  | none => false

/-- The pieces of a row at its home: none where a page fails, where the home is lost, or where it has granted no service (R318,
R323, R411). -/
def State.piecesOf (s : State) (c : Cmd) (a : GatherAsk) (row : Nat) : Option (List Piece) :=
  let h := s.homeEntry a.desc (homeOf a.desc row)
  let served := match h.2 with | none => true | some p => !(lookupD [] c.grants p).isEmpty
  if served && !(s.homeGone c h.2) then c.rowPieces h.1 h.2 (cutLines (rowAddr a.desc row) (descField a.desc 10 2)) else none

/-- The key of a sequence (R327): issuing core, package and die of the home. -/
def seqKey (core : Nat) (peer : Option Nat) (die : Nat) : Nat := (core * 8192 + peer.elim 0 (· + 1)) * 4 + die

/-- Sequence numbers have 32 bits (R327). -/
def seqMod : Nat := 2 ^ 32

/-- What the requesting switch die does at the acceptance of a gather command: it holds the translations of the table pages, until
the command settles (R316). -/
def State.rowsAccepted (s : State) (c : Cmd) : State :=
  match c.gather with
  | none => s
  | some a =>
    let leaves := (a.pages c.form).filterMap fun p => (s.rowLeaf c c.scatters (p * 65536)).map fun l => (p, l)
    let s := leaves.foldl (fun s l => s.cache (.engine c.engine) c.fn (l.1 * 65536) l.2) s
    s.onCmd c.uid fun c => { c with leaves := leaves }

/-! ### Chunks (R224 to R226, R275) -/

/-- The places of a chunk's 4 KiB, line by line. -/
def chunkLines (leaf : Leaf) (va : Nat) : List (Nat × Place) :=
  (upFrom 0 32).map fun i => (128 * i, placeIn leaf (va + 128 * i))

/-- A chunk filled with its data (R224, R225), with the offsets of poisoned bytes. -/
def State.fillChunk (s : State) (launch team : Nat) (c : Chunk) (bs : List Byte) (bad : List Nat) : State :=
  s.onTeam launch team fun t =>
    { t with spad := memWrite t.spad (4096 * c.idx) bs, bad := t.badAfter (4096 * c.idx) bs.length bad }.setChunk
      { c with filled := true, fill := none, written := [] }

/-- The bytes of a fill that are here: all of them, or none while a peer's or the host's are on their way. -/
def State.chunkBytes (s : State) (die : Nat) (leaf : Leaf) (va : Nat) : Option (List Byte) :=
  if (chunkLines leaf va).all fun x => !x.2.away || (s.fab.farLine x.2.line).isSome then
    some ((chunkLines leaf va).flatMap fun x => s.agentLine x.2 128 leaf.key die)
  else none

/-- The poisoned bytes of a range as an agent reads it: at the home, or as they came from elsewhere. -/
def State.poisonAt (s : State) (p : Place) (n die : Nat) : Bool :=
  if p.away then s.fab.farBad.contains p.line else s.m.poisoned (homeLevel p die) p n

/-- The written lines of a chunk with their global addresses (R226), the two of a block together (R240). -/
def Team.writtenLines (t : Team) (ch : Chunk) : List (Nat × List Byte) :=
  let line := fun (i n : Nat) => (ch.va + 128 * i, t.spadRead (4096 * ch.idx + 128 * i) n)
  (upFrom 0 16).flatMap fun b =>
    let lo := ch.written.contains (2 * b)
    let hi := ch.written.contains (2 * b + 1)
    if lo && hi then [line (2 * b) 256]
    else (if lo then [line (2 * b) 128] else []) ++ (if hi then [line (2 * b + 1) 128] else [])

/-- The offsets of the poisoned bytes of a written line, by its global address. -/
def Team.lineBad (t : Team) (ch : Chunk) (va n : Nat) : List Nat := t.spadBad (4096 * ch.idx + (va - ch.va)) n

/-- How an engine command reads a chunk that holds no data yet: under the translation it holds for the page, or one made now. -/
def State.chunkXlat (s : State) (c : Cmd) (ch : Chunk) : Xlat :=
  match c.leaf? ch.va with
  | some l => .ok l
  | none => s.translate (.engine c.engine) c.fn ch.va false

/-- Whether the fill of a chunk for a command waits for lines of a peer or of the host, or for a peer's translation. -/
def State.chunkWaits (s : State) (c : Cmd) (ch : Chunk) : Bool :=
  match s.chunkXlat c ch with
  | .ok leaf => !(s.gone (placeIn leaf ch.va)) && (s.chunkBytes c.readDie leaf ch.va).isNone
  | .walk .. => true
  | _ => false

/-- What such a fill waits for asked for. -/
def State.askChunk (s : State) (c : Cmd) (ch : Chunk) : State :=
  match s.chunkXlat c ch with
  | .ok leaf => (chunkLines leaf ch.va).foldl (fun s x => if x.2.away then s.askFar x.2 else s) s
  | .walk p f w => s.askWalk p f w
  | _ => s

/-- A BOUND chunk filled for a command, if its data is here: 0xFF and RERR from a departed peer, poison where the data has it
(R225, R281). A chunk whose page does not translate stays BOUND, and the command acts on the scratchpad as it is (log 65). -/
def State.fillFor (s : State) (c : Cmd) (team : Nat) (ch : Chunk) : State :=
  match s.chunkXlat c ch with
  | .ok leaf =>
    if s.gone (placeIn leaf ch.va) then
      (s.fillChunk c.issuer.launch team { ch with leaf := none } (List.replicate 4096 0xFF) []).cmdGone c
    else
      match s.chunkBytes c.readDie leaf ch.va with
      | some bs =>
        let bad := (chunkLines leaf ch.va).flatMap fun x =>
          (upFrom 0 4).flatMap fun k => if s.poisonAt (x.2.add (32 * k)) 32 c.readDie then upFrom (x.1 + 32 * k) 32 else []
        let s := (s.fillChunk c.issuer.launch team { ch with leaf := some leaf } bs bad).dropFar
          ((chunkLines leaf ch.va).map fun x => x.2.line)
        if bad.isEmpty then s else s.cmdMissed c
      | none => s
  | _ => s

/-- The chunk numbers of a map command's range. -/
def Cmd.mapRange (c : Cmd) : List Nat :=
  match c.src with
  | .spad _ off => if 5 ≤ c.form then chunksOf off (bitsOf (nth 0 c.regs 3) 24 0) else []
  | _ => []

/-- The chunks of a map command's range in a state of their own kind, FILLED or BOUND. -/
def State.cpChunks (s : State) (c : Cmd) (filled : Bool) : List Chunk :=
  match c.src, s.team? c.issuer.launch c.issuer.team with
  | .spad _ off, some t =>
    (chunksOf off (bitsOf (nth 0 c.regs 3) 24 0)).filterMap fun i =>
      (t.chunk? i).bind fun ch => if ch.filled == filled then some ch else none
  | _, _ => []

/-- The map commands of a command's team that were accepted before it and are still to act, where their ranges overlap (R275). -/
def State.mapsBefore (s : State) (c : Cmd) : List Cmd :=
  s.cmds.filter fun d => d.sameQueue c && decide (d.uid < c.uid) && decide (d.state = .accepted) && d.mapRange.any c.mapRange.contains

/-- The BOUND chunks that an SPFILL has still to fill: of those of its range that no later SPUNMAP has unmapped (R275). -/
def State.toFill (s : State) (c : Cmd) : List Chunk :=
  (s.cpChunks c false).filter fun ch => c.todo.any fun p => p.idx == ch.idx

/-- Those of an SPUNMAP's range that an SPFILL accepted before it is to fill, with that command. -/
def State.fillsBefore (s : State) (c : Cmd) : List (Cmd × Chunk) :=
  ((s.mapsBefore c).filter fun d => d.form == 6).flatMap fun d =>
    ((s.toFill d).filter fun ch => c.mapRange.contains ch.idx).map fun ch => (d, ch)

/-- Whether a map command has to wait before it can act: SPUNMAP for the data of fills that come before it (R275). -/
def State.mapWaits (s : State) (c : Cmd) : Bool :=
  c.engine == 1 && c.form == 8 && (s.fillsBefore c).any fun x => s.chunkWaits x.1 x.2

/-- Those fills made; the chunks that are unmapped now are no longer among those that the SPFILLs have to fill. -/
def State.fillEarlier (s : State) (c : Cmd) : State :=
  let s := (s.fillsBefore c).foldl (fun s x => s.fillFor x.1 c.issuer.team x.2) s
  (s.mapsBefore c).foldl (fun s d => if d.form = 6 then
    s.onCmd d.uid fun d => { d with todo := d.todo.filter fun p => !(c.mapRange.contains p.idx) } else s) s

/-! ### Acceptance (R19 to R21, R30, R31) -/

/-- Requests for granules of the inbound calendars of peers that a gather command charges (R411). -/
def State.askGrants (s : State) (c : Cmd) (of : Nat → Bool) : State :=
  if c.engine = 2 then
    let rowb := (c.gather.elim 0 fun a => descField a.desc 10 2) + 32
    ((s.peersCharged c).filter of).foldl (fun s p =>
      s.sendPeer p (.grantAsk p (rowb * ((s.chargesOf c).filter fun x => decide (x.2 = some p)).length))) s
  else s

/-- Arrivals stamped: a command that holds a queue entry, stands at the head of its team's queue and is not under an
undecided guard (R19). -/
def State.stampArrivals (s : State) : State :=
  s.cmds.foldl (fun s c =>
    if c.arrival == 0 && (decide (c.state = .presented) || decide (c.state = .admitting)) && s.hasEntry c &&
        (s.ahead c).isEmpty && (s.guardSays c).isSome then
      { s.onCmd c.uid (fun c => { c with arrival := s.uid }) with uid := s.uid + 1 }.askGrants c fun _ => true
    else s) s

/-- A fibre that waits at acceptance for a command goes on (R20). -/
def State.wakeIssuer (s : State) (c : Cmd) (g : Fibre → Fibre) : State :=
  s.onFibre c.issuer fun f => if f.status = .blocked (.accept c.uid) then (g f).wake s.ftime else g f

/-- A command under an undecided guard that stands at the head of its queue is held there, and its issuer goes on (R19,
R30). -/
def State.holdGuarded (s : State) : State :=
  s.cmds.foldl (fun s c =>
    if decide (c.state = .presented) && (s.guardSays c).isNone && s.hasEntry c && (s.ahead c).isEmpty then
      (s.onCmd c.uid fun c => { c with state := .held }).wakeIssuer c id
    else s) s

/-- Whether a command that has arrived waits for calendar room, and not for a grant, a device queue's entry or fills of commands
before it. -/
def State.waitsRoom (s : State) (c : Cmd) : Bool :=
  match s.demands c with
  | .ok none => false
  | _ => !(s.mapWaits c)

/-- Whether a command is the oldest that has arrived at its unit and waits for calendar room (R19). -/
def State.oldest (s : State) (c : Cmd) : Bool :=
  c.arrival != 0 && s.cmds.all fun d =>
    !(d.queued && d.engine == c.engine && d.unit == c.unit && d.arrival != 0 && decide (d.arrival < c.arrival) && s.waitsRoom d)

/-- What the engine answers when it looks at a command: a placement with t_end and PCT, a line it has to fetch first, or
nothing yet. -/
inductive Verdict where
  | accept (adds : List (CalKey × List (Nat × Nat))) (tEnd pct : Time) (far : Bool)
  | fetch (p : Place)
  | wait
  deriving DecidableEq, Repr

/-- Whether the engine can accept or take in a command now. -/
def State.verdict (s : State) (c : Cmd) : Verdict :=
  if !(s.oldest c && (decide (c.state = .presented) || decide (c.state = .admitting)) && s.acqKnown c) ||
      s.mapWaits c then .wait
  else
    match s.demands c with
    | .error p => .fetch p
    | .ok none => .wait
    | .ok (some ds) =>
      let start := if c.acq then Nat.max s.ftime c.acqWait else s.ftime
      match s.placeAll start ds with
      | none => .wait
      | some (adds, last) =>
        let tEnd := if last = 0 then start else last * Config.granule
        let far := c.far || (c.engine == 2 && ds.any fun d => d.granted.isSome && d.cost != 0)
        .accept adds tEnd (tEnd + c.terms far) far

/-- A resolving fibre goes on once every command it waits for has been admitted: D receives the largest PCT (R31). -/
def State.tryResolver (s : State) (fk : FKey) : State :=
  match s.fibre? fk with
  | none => s
  | some f =>
    match f.status with
    | .blocked (.guard _ d best) =>
      if s.cmds.any fun c => decide (c.state = .admitting) && decide (c.resolver = some fk) then s
      else s.setFibre ((f.writeG d (BitVec.ofNat 64 best)).wake s.ftime)
    | _ => s

/-- A map command's part of SPWB and SPUNMAP at its acceptance: the written lines of its FILLED chunks are taken, with the
translations that their chunks keep, to be performed at the home by its PCT; a line that is written later is not among them
(R275, R282). -/
def State.takeLines (s : State) (c : Cmd) : State :=
  match s.team? c.issuer.launch c.issuer.team with
  | none => s
  | some t =>
    let mine := s.cpChunks c true
    let lines := mine.flatMap t.writtenLines
    let bad := mine.flatMap fun ch => (t.writtenLines ch).flatMap fun l =>
      (t.lineBad ch l.1 l.2.length).map (l.1 + ·)
    let kept := mine.filterMap fun ch => ch.leaf.map fun l => (ch.va / 65536, l)
    s.onCmd c.uid fun c => { c with got := lines.flatMap (fun l => withAddr l.1 l.2), gotBad := bad, leaves := c.leaves ++ kept,
                                    out := lines.map fun l => ⟨l.1, l.1, l.2.length⟩ }

/-- What a map command does at its acceptance (R275): SPMAP binds its chunks, SPFILL notes those that it has to fill, SPWB and SPUNMAP
take the written lines of the FILLED ones, and SPUNMAP leaves every chunk PLAIN. Map commands act in acceptance order: fills of
earlier ones, of chunks that SPUNMAP unmaps, are made first. A chunk in a state that a form does not accept is left as it is (log 66). -/
def State.mapAccepted (s : State) (c : Cmd) : State :=
  match c.src with
  | .spad _ off =>
    let idxs := chunksOf off (bitsOf (nth 0 c.regs 3) 24 0)
    let chunks := fun (s : State) (g : Team → List Chunk) => s.onTeam c.issuer.launch c.issuer.team fun t => { t with chunks := g t }
    match c.form with
    | 5 => chunks s fun t =>
        ((idxs.filter fun i => (t.chunk? i).isNone).map fun i =>
          ⟨i, (nth 0 c.regs 1).toNat + 4096 * (i - off / 4096), false, none, [], none, false⟩) ++ t.chunks
    | 6 => s.onCmd c.uid fun c => { c with todo := idxs.map fun i => ⟨i, 0, 4096⟩ }
    | 7 => chunks (s.takeLines c) fun t => t.chunks.map fun ch => if idxs.contains ch.idx && ch.filled then { ch with written := [] } else ch
    | 8 => chunks ((s.fillEarlier c).takeLines c) fun t => t.chunks.filter fun ch => !(idxs.contains ch.idx)
    | _ => s
  | _ => s

/-- A command accepted or admitted: the calendar holds it, and its promise goes to its issuer, or to the resolving
fibre (R21, R31). -/
def State.acceptCmd (s : State) (c : Cmd) (adds : List (CalKey × List (Nat × Nat))) (tEnd pct : Time) (far : Bool) : State :=
  let dq := if c.engine = 4 ∧ c.form = 0 then (match s.launchPrio c with | .ok p => p | .error _ => 0) else 0
  let s := adds.foldl (fun s a => s.reserve a.1 a.2) s
  let stamp := s.uid
  let s := { s with uid := stamp + 1 }.onCmd c.uid fun c =>
    { c with state := .accepted, arrival := stamp, tEnd := tEnd, pct := pct, far := far, dq := dq }
  let s := if c.engine = 1 then s.mapAccepted c else if c.engine = 2 then s.rowsAccepted c else s
  match c.resolver with
  | none => s.wakeIssuer c fun f => { f with ft := Nat.max f.ft pct }
  | some fk =>
    (s.onFibre fk fun f =>
      match f.status with
      | .blocked (.guard q d best) => { f with status := .blocked (.guard q d (Nat.max best pct)) }
      | _ => f).tryResolver fk

/-- A command looked at by its engine. -/
def State.tryAccept (s : State) (c : Cmd) : State :=
  match s.verdict c with
  | .accept adds tEnd pct far => s.acceptCmd c adds tEnd pct far
  | .fetch p => s.askFar p
  | .wait => s

/-- The queues of the engines looked at after a change: arrivals, guards, and every command that can be accepted. -/
def State.pumpCmds : Nat → State → State
  | 0, s => s
  | n + 1, s =>
    let s := s.stampArrivals.holdGuarded
    match s.cmds.find? fun c => match s.verdict c with | .accept .. => true | _ => false with
    | some c => (s.tryAccept c).pumpCmds n
    | none => s

/-- The queues of the engines looked at. -/
def State.pump (s : State) : State := s.pumpCmds (s.cmds.length + 1)

/-! ### Presenting (R19, R20, R30) -/

/-- What a word asks an engine to do. -/
structure CmdAsk where
  engine : Nat
  form : Nat
  regs : List Word
  scope : Nat
  ord : Nat
  guard : Option (Nat × Bool)
  src : Spot
  dst : Spot
  leaves : List (Nat × Leaf)
  far : Bool
  gather : Option GatherAsk
  deriving DecidableEq, Repr

/-- A command presented at a word that has passed its checks: discarded at once when its guard has decided against it, from then
on unguarded when it has decided for it, else under its guard; it joins its queue, and the fibre stays blocked until the command
is accepted, or held (R20, R30). Its acquire begins at once, or with its admission (R33, R103). -/
def presentCmd (q : CmdAsk) (s : State) (f : Fibre) : WordOut :=
  let uid := s.uid
  let c : Cmd := { uid := uid, engine := q.engine, unit := unitOf q.engine f.core, issuer := f.key, core := f.core, fn := s.fnOf f,
                   ticket := f.nextTicket q.engine, form := q.form, regs := q.regs, scope := q.scope, ord := q.ord,
                   guard := q.guard, resolver := none, state := .presented, arrival := 0, acqWait := f.gwmax, tEnd := 0,
                   pct := 0, src := q.src, dst := q.dst, leaves := q.leaves, far := q.far, asked := false,
                   missed := false, due := 0, buf := [], dq := 0, gather := q.gather, grants := [], stale := [], bad := [], todo := [],
                   got := [], gotBad := [], out := [], probing := false, plan := none }
  let f := { f with seq := f.seq + 1 }
  match s.guardSays c with
  | some false => .next s f
  | decided =>
    let s := { s with uid := uid + 1, cmds := s.cmds ++ [if decided.isSome then { c with guard := none } else c] }
    let s := if c.acq then s.awaitIssuer uid f.key else s
    let s := if c.acq && decided.isSome then s.beginAcquire uid f.core q.scope else s
    match s.block f (.accept uid) with
    | .out s => .out s.pump
    | o => o

/-- Whether a word that presents a command waits: for a release hold, and with acquire for the fibre's atomics and
remote scratchpad accesses, whose GWCTs it needs (R103, R264). -/
def State.presentWaits (s : State) (f : Fibre) (acq : Bool) : Bool :=
  f.relHold.isSome || s.loadsOut f.key ||
    (acq && ((s.m.atoms.any fun a => decide (a.fibre = f.key)) || (s.m.spads.any fun a => decide (a.fibre = f.key))))

/-- The guard of the pending GUARD hint: slot and polarity. -/
def Fibre.guardHint (f : Fibre) : Option (Nat × Bool) := f.hints.guard.map fun g => (g.1.toNat, g.2)

/-- FIELD 5 for a SCOPE of 5 to 7 (R10, R39). -/
def scopeBad (sc : BitVec 3) : List Nat := if 5 ≤ sc.toNat then [5] else []

/-! ### Guard slots (R29 to R31, R184) -/

/-- A slot resolved by a fibre: held commands whose condition holds are to be admitted, the others are discarded; the
fibre blocks until all are, and its D receives the largest PCT (R31). A command under the slot that still waits at acceptance is
from then on unguarded, or discarded (R30). -/
def resolveSlot (q d : Nat) (value : Slot) (s : State) (f : Fibre) : WordOut :=
  let s := s.onTeam f.key.launch f.key.team fun t => { t with guards := setNth .unresolved t.guards q value }
  let under := fun (c : Cmd) => c.issuer.launch == f.key.launch && c.issuer.team == f.key.team &&
    decide (c.guard.map (·.1) = some q)
  let lost := s.cmds.filter fun c => under c && c.queued && decide (s.guardSays c = some false)
  let s := lost.foldl (fun s c => (s.dropCmd c.uid).wakeIssuer c id) s
  let won := s.cmds.filter fun c => under c && (decide (c.state = .held) || decide (c.state = .presented))
  let s := won.foldl (fun s c =>
    let s := s.onCmd c.uid fun c =>
      if c.state = .held then { c with guard := none, state := .admitting, resolver := some f.key } else { c with guard := none }
    if c.acq then s.beginAcquire c.uid c.core c.scope else s) s
  match s.block f (.guard q d 0) with
  | .out s => .out (s.pump.tryResolver f.key)
  | o => o

/-- The state of a slot of a fibre's team, and whether commands are held under it. -/
def State.slotOf (s : State) (f : Fibre) (q : Nat) : Slot × Bool :=
  ((s.teamOf f).elim .unresolved fun t => nth Slot.unresolved t.guards q,
   s.cmds.any fun c => c.issuer.launch == f.key.launch && c.issuer.team == f.key.team && decide (c.state = .held) &&
     decide (c.guard.map (·.1) = some q))

/-- A GSET or GCLR word (R29, R31, R184). -/
def resolveWord (value : Slot) (h : Gd) (d q : BitVec 6) : State → Host.Outcome State Fault Refusal :=
  runWord true h.pg h.pn false fun s f =>
    let bad := badValue (decide ((s.slotOf f q.toNat).1 ≠ .unresolved)) f.inTask 3
    withOpds [⟨1, d, .long⟩] bad (fun s f =>
      commitPoint (fun s f => if f.relHold.isSome then .stall else resolveSlot q.toNat d.toNat value s f) s f) s f

/-! ### Settling (R23, R24, R26) -/

/-- A command settles: it is gone, and a missed promise is reported. -/
def State.settle (s : State) (c : Cmd) : State :=
  let s := s.dropCmd c.uid
  if c.missed then s.postMiss c.issuer c.ticket else s

/-- Whether a command's work reaches a peer: a page that it holds, the home of a row, or a member of its group (R22, R410). -/
def State.cmdTouches (s : State) (c : Cmd) (peer : Nat) : Bool :=
  (match c.dst with | .cast g _ _ => Config.castMember g peer | _ => false) ||
  (c.leaves.any fun l => match l.2.base with | .peer p _ => p == peer | _ => false) ||
    (s.chargesOf c).any fun x => decide (x.2 = some peer)

/-- A free latency of an engine's write, short enough that its GWCT meets the promise (R77, R104). -/
def State.engineLatency (s : State) (c : Cmd) : Nat := Config.freeNat s.fresh % (c.pct - s.ftime + 1)

/-- COMMAND_ACCEPTANCE (R19): A stalled engine command obtains queue and calendar room and receives its PCT. -/
def execCommandAcceptance (cmd : Nat) (s : State) : Host.Outcome State Fault Refusal :=
  let s' := s.stampArrivals.holdGuarded
  match s'.cmd? cmd with
  | some c => .next (s'.tryAccept c).stampArrivals.holdGuarded
  | none => .next s'

/-- GSET (R184): Resolves a guard slot TRUE and waits for its admissions. -/
def execGset (h : Gd) (d : BitVec 6) (q : BitVec 6) (s : State) : Host.Outcome State Fault Refusal :=
  resolveWord .true_ h d q s

/-- GCLR (R184): Resolves a guard slot FALSE and waits for its admissions. -/
def execGclr (h : Gd) (d : BitVec 6) (q : BitVec 6) (s : State) : Host.Outcome State Fault Refusal :=
  resolveWord .false_ h d q s

/-- GRST (R184): Returns a resolved guard slot to UNRESOLVED; no effect on one that is so and holds no command. -/
def execGrst (h : Hdr) (q : BitVec 6) (s : State) : Host.Outcome State Fault Refusal :=
  runWord h.e h.pg h.pn false (fun s f =>
    let (v, held) := s.slotOf f q.toNat
    let bad := badValue (decide (v = .unresolved) && held) f.inTask 3
    withOpds [] bad (fun s f =>
      commitPoint (fun s f =>
        if f.relHold.isSome then .stall
        else .next (s.onTeam f.key.launch f.key.team fun t => { t with guards := setNth .unresolved t.guards q.toNat .unresolved }) f) s f) s f) s

end Sys2Proof.Machine
end

