-- ==== Sys2Proof/Machine/Ropes.lean ====
section
/-! DEFINITION. The loss of ropes: teams that end at once, ROPE_LOST, and what is left of their work (R126, R127, R331,
R364, R389). -/

namespace Sys2Proof.Machine

/-- The teams of a launch, by index, that run on a core. -/
def State.teamsOn (s : State) (launch core : Nat) : List Nat :=
  (s.teams.filter fun t => t.launch == launch && t.core == core && !t.ended).map (·.idx)

/-- A loss of a rope noted (R126, R127, R129): its entry, its count, and whether its fibres count as arrived at STEP from
now on: without RESTART, or when it was restarted in this step. A rope that is lost already is not lost again. -/
def State.noteLoss (s : State) (launch rope : Nat) : State :=
  s.onLaunch launch fun l =>
    if l.lost.any fun x => x.rope == rope && !x.restarted then l
    else
      let again := l.lost.any fun x => x.rope == rope && x.step == l.stepn
      let counted := !l.restart || again
      { l with entries := l.entries ++ [⟨5, 0x0C, 0xFFFF, rope, BitVec.ofNat 64 s.ftime⟩], ropesLost := l.ropesLost + 1, moving := [],
               lost := l.lost ++ [⟨rope, s.ftime, l.stepn, false, false, counted⟩],
               status := if counted then 3 else l.status }

/-- The belays of teams that end through a rope loss end with them (R303). -/
def State.endBelays (s : State) (launch : Nat) (teams : List Nat) : State :=
  teams.foldl (fun s t => s.onTeam launch t fun t => { t with belays := List.replicate 32 Belay.initial }) s

/-- What teams that end through a rope loss leave undone: their matrix entries are discarded, banks they had freed return to the
pool, and the scratchpad writes of their commands are discarded (R331, R342, R364). -/
def State.dropWork (s : State) (launch : Nat) (teams : List Nat) : State :=
  let mine := fun (l t : Nat) => l == launch && teams.contains t
  let (gone, stay) := s.mat.queue.partition fun e => mine e.launch e.team
  let s := { s with
    mat := { s.mat with queue := stay },
    cmds := s.cmds.map fun (c : Cmd) =>
      if mine c.issuer.launch c.issuer.team then
        match c.dst with
        | .spad _ _ => { c with dst := .none }
        | _ => c
      else c }
  (dedup (gone.map (·.core))).foldl (fun s core => s.queueMoves core) s.reclaim

/-- Bytes of an element of a matrix format (R335). -/
def fmtSize (fm : Nat) : Nat := if fm = 1 ∨ fm = 4 then 1 else if fm = 2 ∨ fm = 3 then 2 else 4

/-- The addresses and lengths of the 16 rows of a tile in its tensor (R335). -/
def tileSpans (d : List Byte) (m0 n0 : Nat) : List (Nat × Nat) :=
  (upFrom 0 16).map fun i =>
    (descField d 0 8 + (m0 + i) * descField d 20 4 + n0 * fmtSize (descField d 9 1),
     descField d 10 1 * fmtSize (descField d 9 1))

/-- The pieces of a range under translations that an entry holds. -/
def heldPieces (leaves : List (Nat × Leaf)) (va n : Nat) : List Piece :=
  (cutLines va n).filterMap fun p =>
    (leaves.find? fun l => l.1 == p.1 / 65536).map fun l => ⟨placeIn l.2 p.1, p.2, l.2, p.1⟩

/-- Where the rows of a DRAIN go in global memory. -/
def MatEntry.rowPieces (e : MatEntry) : List Piece :=
  match e.op with
  | .drain _ _ _ m0 n0 _ leaves => (tileSpans e.desc m0 n0).flatMap fun x => heldPieces leaves x.1 x.2
  | _ => []

/-- The fibre of a DRAIN. -/
def MatEntry.drainer (e : MatEntry) : Option FKey :=
  match e.op with
  | .drain k .. => some k
  | _ => none

/-- Whether byte `i` of a write lies in a piece; of a whole-block write the upper line's bytes count on from 128. -/
def OutWrite.holds (o : OutWrite) (i : Nat) (p : Piece) : Bool :=
  let at_ := if p.place.line = o.line then p.place.off else p.place.off + 128
  (decide (p.place.line = o.line) || decide (p.place.line = buddy o.line)) && decide (at_ ≤ i) && decide (i < at_ + p.n)

/-- A write without the rows that DRAINs have put into it; none where nothing else is in it. -/
def OutWrite.without (o : OutWrite) (drains : List MatEntry) : Option OutWrite :=
  let mine := drains.filter fun e => o.cmds.contains e.uid
  let who := mine.filterMap (·.drainer)
  let bytes := o.bytes.filter fun b => !(mine.any fun e => e.rowPieces.any (o.holds b.1))
  if mine.isEmpty then some o
  else if bytes.isEmpty then none
  else some { o with
    bytes := bytes, fibres := o.fibres.filter (!who.contains ·), vas := o.vas.filter (!who.contains ·.1),
    cmds := o.cmds.filter fun u => !(mine.any (·.uid == u)) }

/-- The writes and atomics of DRAINs that were not performed before an error struck these fibres do not take place
(R364). -/
def State.dropDrains (s : State) (struck : List Fibre) : State :=
  let draining := (struck.filter fun f => match f.status with | .blocked (.drained _ _) => true | _ => false).map (·.key)
  let drains := s.mat.queue.filter fun e => e.drainer.any draining.contains
  s.onMem fun m => { m with
    outs := m.outs.filterMap fun o => o.without drains,
    atoms := m.atoms.filter fun a => !(draining.contains a.fibre && a.dst.isNone) }

/-- ROPE_LOST taken by a fibre that is blocked in ROPEBAR (R126, R182): TPC is the ROPEBAR word. -/
def State.ropeTrap (s : State) (f : Fibre) (rope : Nat) : State :=
  s.trapEntry ({ f with arrivedRope := false }.wake s.ftime) 0x0C (BitVec.ofNat 64 rope) (f.pc - 4)

/-- A rope lost: the named teams of it end at once, without entries of their fibres; its other fibres that wait in
ROPEBAR take ROPE_LOST (R126). -/
def State.loseRope (s : State) (launch rope : Nat) (teams : List Nat) : State :=
  let struck := s.fibres.filter fun f => f.key.launch == launch && teams.contains f.key.team && decide (f.status ≠ .ended)
  let s := s.dropDrains struck
  let s := struck.foldl (fun s f => (s.abortTask f (.queued f.core)).retireFibre f) s
  let s := ((s.endBelays launch teams).dropWork launch teams).noteLoss launch rope
  let per := (s.launch? launch).elim 1 (·.rope)
  let waiting := s.fibres.filter fun f =>
    f.key.launch == launch && f.key.team / per == rope && decide (f.status = .blocked .ropebar)
  let s := waiting.foldl (fun s f => s.ropeTrap f rope) s
  let s := teams.foldl (fun s t => s.afterEnd ⟨launch, t, 0⟩) s
  s.tryStep launch

/-- The rope of a fibre that has consumed poison is lost: the teams of that rope on its core end (R423). -/
def State.consumePoison (s : State) (k : FKey) : State :=
  match s.launch? k.launch, s.team? k.launch k.team with
  | some l, some t =>
    let rope := k.team / l.rope
    s.loseRope k.launch rope ((s.teamsOn k.launch t.core).filter fun i => i / l.rope == rope)
  | _, _ => s

/-- An uncorrectable error of a core: every team on it ends, and each of their ropes is lost (R126). -/
def State.strikeCore (s : State) (core : Nat) : State :=
  s.launches.foldl (fun s l =>
    if decide (l.phase = .running) || decide (l.phase = .saving) then
      let teams := s.teamsOn l.id core
      (dedup (teams.map (· / l.rope))).foldl (fun s r => s.loseRope l.id r (teams.filter fun t => t / l.rope == r)) s
    else s) s

/-- Where a task goes that was in a slice of a core, or on its way there: to another one, a parked one with its page. -/
def TaskAt.leaves (at_ : TaskAt) (core other : Nat) : TaskAt :=
  match at_ with
  | .queued c => if c = core then .transit other else at_
  | .transit c => if c = core then .transit other else at_
  | .parked c fn page => if c = core then .parked other fn page else at_
  | _ => at_

/-- Tasks of a core's slices after an uncorrectable error of it, and those on their way to them (R389): in transit to another core
that the error has not struck; parked ones keep their page, where its slice has room for them. -/
def State.moveTasksOff (s : State) (core other : Nat) : State :=
  (upFrom 0 8).foldl (fun s w =>
    s.onWl w fun wl => wl.tasks.foldl (fun wl t =>
      let dest := t.at_.leaves core other
      if dest = t.at_ then wl else wl.moveTo t.uid dest) wl) s

/-- Tasks lost (R389): gone, counted as lost, each recorded. -/
def State.loseTasks (s : State) (wl : Nat) (uids : List Nat) (unit core : Nat) (addr : Nat) : State :=
  let n := ((s.wl wl).tasks.filter fun t => uids.contains t.uid).length
  let launch := (s.wl wl).bound.getD 0
  let s := s.onWl wl fun w => { w with tasks := w.tasks.filter (fun t => !(uids.contains t.uid)), lost := w.lost + n }
  (upFrom 0 n).foldl (fun s _ => s.errorRecord 1 unit 10 core addr launch) s

end Sys2Proof.Machine
end

