-- ==== Sys2Proof/Machine/Matrix.lean ====
section
/-! DEFINITION. Matrix words: MMA and ACC (R334 to R363). -/

namespace Sys2Proof.Machine

/-! ### Descriptors (R305 to R307, R334 to R338) -/

/-- Whether FORMAT names a table form. -/
def isTable (fm : Nat) : Bool := decide (0x40 ≤ fm) && decide (fm ≤ 0x43)

/-- Offsets of a list of (offset, at fault). -/
def faulty (l : List (Nat × Bool)) : List Nat := (l.filter (·.2)).map (·.1)

/-- Offsets of the bytes from `lo`, `n` of them, that are not zero. -/
def nonZero (d : List Byte) (lo n : Nat) : List Nat := (upFrom lo n).filter fun i => descField d i 1 != 0

/-- The offending fields of a matrix form, for a team with `spad` bytes of scratchpad (R334, R336). RSTRIDE below COLS × size is a
condition of three fields, the lowest of which is FORMAT (log 67). A LOC that names no space bounds no address. -/
def matrixBad (d : List Byte) (spad : Nat) : List Nat :=
  let base := descField d 0 8
  let loc := descField d 8 1
  let fm := descField d 9 1
  let rows := descField d 12 4
  let cols := descField d 16 4
  let rs := descField d 20 4
  let scale := descField d 24 8
  let flags := descField d 40 1
  let sc := flags % 2 == 1
  let outside := fun (last : Nat) => decide (loc ≤ 1) && decide ((if loc = 0 then spad else 2 ^ 57) < last)
  let blocks := ((rows + 127) / 128) * ((cols + 127) / 128)
  faulty [(0, base % 16 != 0 || (loc == 0 && decide (2 ^ 20 ≤ base)) ||
              outside (base + (rows - 1) * rs + cols * fmtSize fm)),
    (8, decide (1 < loc)), (9, (sc && fm != 1) || decide (rs < cols * fmtSize fm)), (10, !([16, 32, 64, 128].contains (descField d 10 1))),
    (11, descField d 11 1 != 0), (12, rows == 0 || decide (65536 < rows)), (16, cols == 0 || decide (65536 < cols)),
    (20, rs % 16 != 0 || decide (2 ^ 24 < rs)),
    (24, sc && (scale % 4 != 0 || outside (scale + 4 * blocks))),
    (32, flags / 2 % 2 == 1 && descField d 32 8 % 4 != 0), (40, decide (4 ≤ flags))] ++ nonZero d 41 23

/-- The offending fields of a table form with its home map (R305 to R307, R336). -/
def tableBad (d : List Byte) : List Nat :=
  let base := descField d 0 8
  let fm := descField d 9 1
  let bm := fm == 0x43
  let rowb := descField d 10 2
  let rows := descField d 12 4
  let rps := descField d 16 4
  let sp := descField d 20 2
  let nh := descField d 22 1
  let live := descField d 24 8
  let last := if bm then base + (rows - 1) / 8
    else base + (rows - 1) / Nat.max rps 1 * 65536 * sp + (rows - 1) % Nat.max rps 1 * rowb + rowb - 1
  let rowbBad := if bm then rowb != 0 else if fm = 0x42 then !([32, 64, 128].contains rowb)
    else rowb % 4 != 0 || decide (rowb < 4) || decide (4096 < rowb)
  faulty [(0, base % (if bm then 8 else 65536) != 0 || decide (2 ^ 57 ≤ last)), (8, descField d 8 1 != 1), (10, rowbBad),
    (12, rows == 0), (16, if bm then rps != 0 else rps == 0), (20, if bm then sp != 0 else sp == 0),
    (22, if bm then nh != 0 else nh == 0 || decide (64 < nh)), (23, descField d 23 1 != 0),
    (24, if fm = 0x42 then live % 8 != 0 else live != 0)] ++ nonZero d 32 32 ++
    ((upFrom 0 ((d.length - 64) / 2)).filter fun i =>
      let e := descField d (64 + 2 * i) 2
      decide (2 ^ 15 ≤ e) || (e / 2 ^ 14 % 2 == 1 && e % 4096 != 0)).map fun i => 64 + 2 * i

/-- What is wrong with a descriptor: REASON and DETAIL of TENSOR_FAULT (R336, R337). A table that straddles a stripe and breaks
another field reports that field under REASON 5, and a BASE with a bit set in [63:20] is looked at in matrix forms only, so a
table form with LOC 0 names LOC and an invalid FORMAT names LOC or FORMAT: R336 leaves both open (log 75). -/
def tdFault (d : List Byte) (spad : Nat) : Option (Nat × Nat) :=
  let fm := descField d 9 1
  if isTable fm then
    match leastField (tableBad d) with
    | some o => some (5, o)
    | none =>
      if fm != 0x43 && decide (65536 * descField d 20 2 < descField d 16 4 * descField d 10 2) then some (6, 0) else none
  else if fm = 0 ∨ 6 < fm then some (5, if 1 < descField d 8 1 then 8 else 9)
  else (leastField (matrixBad d spad)).map fun o => (5, o)

/-- Bytes of the home map that TDSET reads beside a descriptor. -/
def mapBytes (d : List Byte) : Nat :=
  if isTable (descField d 9 1) then 2 * descField d 22 1 else 0

/-! ### MMA signs (R346 to R348) -/

/-- An MMA word: a sign of a kind-1 belay with SB, RU and the A fragment; MMAP also records the row scale. -/
def mmaWord (fn n : Nat) (h : Hdr) (l : BitVec 5) (r : Bool) (a b : BitVec 6) : State → Host.Outcome State Fault Refusal :=
  runWord h.e h.pg h.pn false fun s f =>
    let sb := f.src b
    let bad := f.known b && (bitsOf sb 15 0 != 0 || decide (64 ≤ bitsOf sb 31 24))
    withOpds [⟨2, a, .srcGroup n⟩, ⟨3, b, .src⟩] (badValue bad f.inTask 3) (fun s f =>
      let frag := (upFrom a.toNat n).map f.readG
      signWord l.toNat ⟨fn, 1, f.src b, if r then 1 else 0, [], false, some frag⟩ s f) s f

/-! ### Banks and the matrix queue (R339 to R344) -/

/-- ACC_FAULT at a word (R343). -/
def accFault (s : State) (f : Fibre) (reason tile : Nat) : WordOut :=
  trapOwn s f 0x0A (accTval reason tile (bankMask (s.banksOf f.key.launch f.key.team)) 0 false)

/-- TENSOR_FAULT at a word (R337). -/
def tensorFault (s : State) (f : Fibre) (tdn reason detail : Nat) : WordOut :=
  trapOwn s f 0x0B (tensorTval tdn reason detail 0 false)

/-- The tile of a parameter word checked (R358 step 2), then `k` with the held banks; a full queue holds the slot. -/
def withTile (tile width : Nat) (k : List Nat → State → Fibre → WordOut) (s : State) (f : Fibre) : WordOut :=
  let banks := s.banksOf f.key.launch f.key.team
  if banks.isEmpty then accFault s f 3 tile
  else if !(tileValid banks tile width) then accFault s f 4 tile
  else if s.queueFull f.core then .stall
  else k banks s f

/-- An entry put at the end of a core's matrix queue. -/
def State.enqueue (s : State) (f : Fibre) (banks : List Nat) (tile width : Nat) (desc : List Byte) (op : MatOp) : State :=
  let e : MatEntry := ⟨s.uid, f.core, f.key.launch, f.key.team, banks, tile, width, desc, op⟩
  { s with uid := s.uid + 1, mat := { s.mat with queue := s.mat.queue ++ [e] } }

/-- The descriptor of ACCLD and DRAIN checked (R358 step 1), then `k` with it. -/
def withDesc (p : Word) (suits : Nat → Bool) (k : List Byte → State → Fibre → WordOut) (s : State) (f : Fibre) : WordOut :=
  let td := bitsOf p 29 24
  match (s.teamOf f).bind fun t => nth none t.tds td with
  | none => tensorFault s f td 1 0
  | some d =>
    if !(suits (descField d 9 1)) then tensorFault s f td 3 0
    else if decide (descField d 12 4 < bitsOf p 63 48 + 16) || decide (descField d 16 4 < bitsOf p 47 32 + descField d 10 1)
    then tensorFault s f td 7 0
    else k d s f

/-- Bits of a parameter word of ACCLD or DRAIN that must be zero (R358); `z` allows Z. -/
def paramBad (p : Word) (z : Bool) : Bool :=
  (!z && bitOf p 0) || bitsOf p 15 1 != 0 || bitsOf p 31 30 != 0

/-- Buffered bytes of spans, by offset in their concatenation. -/
def spansOver (buf : List (Nat × Byte)) : Nat → List (Nat × Nat) → List (Nat × Byte)
  | _, [] => []
  | at_, (va, n) :: r => (within va n buf).map (fun p => (p.1 + at_, p.2)) ++ spansOver buf (at_ + n) r

/-- The parts of several spans translated (R235), then `k`. -/
def withSpanPieces (spans : List (Nat × Nat)) (write : Bool) (access : Nat) (k : State → Fibre → List Piece → WordOut)
    (s : State) (f : Fibre) : WordOut :=
  let parts := spans.flatMap fun p => cutLines p.1 p.2
  match s.translateParts (.core f.core) (s.fnOf f) write parts with
  | .ok ps => k (s.cacheParts (.core f.core) (s.fnOf f) parts ps) f ps
  | x => xlatFault s f access x

/-- The pages and leaves of spans, for an entry that uses them later. -/
def spanLeaves (spans : List (Nat × Nat)) (ps : List Piece) : List (Nat × Leaf) :=
  dedup (((spans.flatMap fun p => cutLines p.1 p.2).zip ps).map fun x => (x.1.1 / 65536, x.2.leaf))

/-- Whether a 4-byte counter of DRAIN lies on a replicated page (R100). -/
def onReplica (leaves : List (Nat × Leaf)) (va : Nat) : Bool :=
  leaves.any fun p => p.1 == va / 65536 && (match p.2.base with | .repl _ => true | _ => false)

/-- DRAIN after its checks and translations (R361). -/
def drainWord (d : Nat) (p : Word) (maxAddr : Word) (banks : List Nat) (desc : List Byte) (leaves : List (Nat × Leaf)) :
    State → Fibre → WordOut :=
  commitPoint fun s f =>
    if f.relHold.isSome then .stall
    else
      let e := s.uid
      let op := MatOp.drain f.key d maxAddr (bitsOf p 63 48) (bitsOf p 47 32) (bitOf p 0) leaves
      (s.enqueue f banks (bitsOf p 23 16) (descField desc 10 1) desc op).block f (.drain e d)

/-! ### TBLD (R363) -/

/-- The first token of an entry that breaks R214, or 16 (R337). -/
def exprFaultFrom (e : Word) : Nat → Nat → Nat → Nat → Option Nat
  | 0, _, depth, _ => if depth = 1 then none else some 16
  | fuel + 1, t, depth, ops =>
    let c := exprTok e t
    let (p, q) := exprArity c
    if c = 0 then
      if depth != 1 then some 16 else (upFrom t (16 - t)).find? fun i => exprTok e i != 0
    else
      let ops := if 7 ≤ c then ops + 1 else ops
      if 7 < ops ∨ depth < p ∨ 4 < depth - p + q then some t else exprFaultFrom e fuel (t + 1) (depth - p + q) ops

/-- What is wrong with an entry. -/
def exprFault (e : Word) : Option Nat := exprFaultFrom e 16 0 0 0

/-- TBLD of an expression entry: the word holds its slot until the 8 bytes are read, then checks them. -/
def tbldExpr (x : Nat) (va : Word) (s : State) (f : Fibre) : WordOut :=
  match f.tableWord with
  | some e =>
    let f := { f with tableWord := none }
    match exprFault e with
    | some i => tensorFault s f x 8 i
    | none =>
      .next (s.onTeam f.key.launch f.key.team fun t => { t with exprs := setNth none t.exprs x (some e) }) f
  | none =>
    if f.waits tblReg || s.accessWaits f then .stall
    else
      withPieces va 8 false 0 (fun s f ps =>
        match s.loadGlobal f ⟨8, false⟩ tblReg 0 va.toNat ps with
        | none => .stall
        | some (s, f) => .hold (s.setFibre (f.holdAcq false))) s f

/-- TBLD of a pattern table: a long load of 256 bytes that replaces the table as a whole. -/
def tbldPattern (pt : Nat) (va : Word) (s : State) (f : Fibre) : WordOut :=
  if s.accessWaits f || s.tableLoading f pt then .stall
  else
    withPieces va 256 false 0 (fun s f ps =>
      match s.loadTo f ⟨256, false⟩ (.pattern pt) 0 va.toNat (within va.toNat 256 f.bufferedGlobal) ps with
      | none => .stall
      | some (s, f) => .next s (f.holdAcq false)) s f

/-- MMA_E4M3 (R353): Signs an MMA belay for an E4M3 product into the exact partial. -/
def execMmaE4m3 (h : Hdr) (l : BitVec 5) (r : Bool) (a : BitVec 6) (b : BitVec 6) (s : State) :
    Host.Outcome State Fault Refusal :=
  mmaWord 0 4 h l r a b s

/-- MMAP_E4M3 (R353): Signs an E4M3 product with scaling and promotion into V. -/
def execMmapE4m3 (h : Hdr) (l : BitVec 5) (r : Bool) (a : BitVec 6) (b : BitVec 6) (s : State) :
    Host.Outcome State Fault Refusal :=
  mmaWord 1 5 h l r a b s

/-- MMA_H (R354): Signs an FP16 matrix product into the tile. -/
def execMmaH (h : Hdr) (l : BitVec 5) (r : Bool) (a : BitVec 6) (b : BitVec 6) (s : State) :
    Host.Outcome State Fault Refusal :=
  mmaWord 2 4 h l r a b s

/-- MMA_BH (R354): Signs a BF16 matrix product into the tile. -/
def execMmaBh (h : Hdr) (l : BitVec 5) (r : Bool) (a : BitVec 6) (b : BitVec 6) (s : State) :
    Host.Outcome State Fault Refusal :=
  mmaWord 3 4 h l r a b s

/-- MMA_I8 (R355): Signs an INT8 matrix product into an INT32 tile. -/
def execMmaI8 (h : Hdr) (l : BitVec 5) (r : Bool) (a : BitVec 6) (b : BitVec 6) (s : State) :
    Host.Outcome State Fault Refusal :=
  mmaWord 4 4 h l r a b s

/-- ABALLOC (R341): Requests accumulator banks through the core's FIFO and blocks. -/
def execAballoc (h : Gd) (d : BitVec 6) (a : BitVec 6) (s : State) :
    Host.Outcome State Fault Refusal :=
  runWord true h.pg h.pn false (fun s f =>
    let n := f.src a
    let bad := f.known a && (n == 0 || decide (16 < n.toNat))
    withOpds [⟨1, d, .long⟩, ⟨2, a, .src⟩] (badValue bad f.inTask 2) (fun s f =>
      if f.inTask then taskFault s f 2
      else if !(s.banksOf f.key.launch f.key.team).isEmpty ||
          s.mat.abFifo.any (fun r => r.fibre.launch == f.key.launch && r.fibre.team == f.key.team) then accFault s f 1 0
      else
        commitPoint (fun s f =>
          if f.relHold.isSome then .stall
          else
            let fifo := s.mat.abFifo ++ [⟨f.core, f.key, n.toNat, d.toNat⟩]
            { s with mat := { s.mat with abFifo := fifo } }.block f (.aballoc n.toNat d.toNat)) s f) s f) s

/-- ABFREE (R342): Releases the team's accumulator banks. -/
def execAbfree (h : Hdr) (s : State) :
    Host.Outcome State Fault Refusal :=
  runWord h.e h.pg h.pn false (fun s f =>
    if f.inTask then taskFault s f 2
    else if (s.banksOf f.key.launch f.key.team).isEmpty then accFault s f 2 0
    else
      commitPoint (fun s f =>
        let holds := s.mat.holds.map fun h =>
          if h.launch == f.key.launch && h.team == f.key.team then { h with freed := true } else h
        .next ({ s with mat := { s.mat with holds := holds } }.reclaim) f) s f) s

/-- DRAIN (R361): Waits for a tile's entries and writes it out converted. -/
def execDrain (h : Gd) (d : BitVec 6) (a : BitVec 6) (b : BitVec 6) (s : State) :
    Host.Outcome State Fault Refusal :=
  runWord true h.pg h.pn false (fun s f =>
    let p := f.src a
    withOpds [⟨1, d, .long⟩, ⟨2, a, .src⟩, ⟨3, b, .src⟩] (badValue (f.known a && paramBad p true) f.inTask 2) (fun s f =>
      let mx := f.src b
      if f.inTask then taskFault s f 2
      else
        withDesc p (fun fm => decide (fm ≤ 6)) (fun desc =>
          withTile (bitsOf p 23 16) (descField desc 10 1) fun banks s f =>
            if mx.toNat % 4 != 0 then trapOwn s f 0x03 mx
            else
              let rows := tileSpans desc (bitsOf p 63 48) (bitsOf p 47 32)
              let side := descField desc 32 8
              let sides := (if descField desc 40 1 / 2 % 2 = 1 then [(side, 4)] else []) ++
                (if mx = 0 then [] else [(mx.toNat, 4)])
              let spans := (if descField desc 8 1 = 1 then rows else []) ++ sides
              withSpanPieces spans true 1 (fun s f ps =>
                let leaves := spanLeaves spans ps
                let host := ((spans.flatMap fun p => cutLines p.1 p.2).zip ps).find? fun x =>
                  match x.2.place with | .host _ => true | _ => false
                match leastField (((sides.find? fun x => onReplica leaves x.1).map (·.1)).toList ++ (host.map (·.1.1)).toList) with
                | some a => trapOwn s f 0x04 (BitVec.ofNat 64 a)
                | none =>
                  withSpans (if descField desc 8 1 = 0 then rows else []) 3
                    (drainWord d.toNat p mx banks desc leaves) s f) s f) s f) s f) s

/-- A word that reads spans of its own scratchpad as loads do: a poisoned byte of them is consumed, and the rope is lost (R338,
R360, R423); else `k`. -/
def withClean (spans : List (Nat × Nat)) (k : State → Fibre → WordOut) (s : State) (f : Fibre) : WordOut :=
  if spans.any fun x => !((s.teamOf f).elim true fun t => (t.spadBad x.1 x.2).isEmpty) then .out (s.consumePoison f.key) else k s f

/-- ACCZ (R359): Queues a clear of a tile. -/
def execAccz (h : Hdr) (a : BitVec 6) (s : State) :
    Host.Outcome State Fault Refusal :=
  runWord h.e h.pg h.pn false (fun s f =>
    let p := f.src a
    let bad := f.known a && (bitsOf p 7 0 != 0 || bitsOf p 15 10 != 0 || bitsOf p 63 24 != 0)
    withOpds [⟨2, a, .src⟩] (if bad then [2] else []) (fun s f =>
      let width := 16 * 2 ^ bitsOf p 9 8
      withTile (bitsOf p 23 16) width
        (fun banks s f => .next (s.enqueue f banks (bitsOf p 23 16) width [] .accz) f) s f) s f) s

/-- ACCLD (R360): Queues a load of a tile from a tensor. -/
def execAccld (h : Hdr) (a : BitVec 6) (s : State) :
    Host.Outcome State Fault Refusal :=
  runWord h.e h.pg h.pn false (fun s f =>
    let p := f.src a
    withOpds [⟨2, a, .src⟩] (if f.known a && paramBad p false then [2] else []) (fun s f =>
      withDesc p (fun fm => fm == 5 || fm == 6) (fun desc =>
        withTile (bitsOf p 23 16) (descField desc 10 1) fun banks s f =>
          let spans := tileSpans desc (bitsOf p 63 48) (bitsOf p 47 32)
          let entry := fun (s : State) => s.enqueue f banks (bitsOf p 23 16) (descField desc 10 1) desc
          if s.accessWaits f then .stall
          else if descField desc 8 1 = 0 then
            withSpans spans 0 (withClean spans (fun s f =>
              .next (entry s (.accld (some (spans.flatMap fun x => s.ownSpad f x.1 x.2)))) (f.holdAcq false))) s f
          else
            withSpanPieces spans false 0 (fun s f ps =>
              let n := 64 * descField desc 10 1
              match (entry s (.accld none)).loadTo f ⟨n, false⟩ (.acc s.uid) 0 (descField desc 0 8)
                  (spansOver f.bufferedGlobal 0 spans) ps with
              | none => .stall
              | some (s, f) => .next s (f.holdAcq false)) s f) s f) s f) s

/-- TDSET (R338): Loads a tensor descriptor from scratchpad and checks it. -/
def execTdset (h : Hdr) (t : BitVec 6) (a : BitVec 6) (s : State) :
    Host.Outcome State Fault Refusal :=
  runWord h.e h.pg h.pn false (fun s f =>
    withOpds [⟨2, a, .src⟩] [] (fun s f =>
      let addr := f.src a
      let off := bitsOf addr 19 0
      let size := (s.launchOf f).elim 0 (·.spadBytes)
      if addr.toNat % 64 != 0 then trapOwn s f 0x03 addr
      else if 2 ^ 20 ≤ addr.toNat ∨ size < off + 64 then trapOwn s f 0x04 addr
      else if s.accessWaits f then .stall
      else
        withSpans [(off, 64)] 0 (withClean [(off, 64)] (fun s f =>
          let n := mapBytes (s.ownSpad f off 64)
          if size < off + 64 + n then trapOwn s f 0x04 addr
          else
            withSpans [(off + 64, n)] 0 (withClean [(off + 64, n)] (fun s f =>
              let desc := s.ownSpad f off (64 + n)
              match tdFault desc size with
              | some (reason, detail) => tensorFault s f t.toNat reason detail
              | none =>
                let s := s.onTeam f.key.launch f.key.team fun tm => { tm with tds := setNth none tm.tds t.toNat (some desc) }
                .next s f)) s f)) s f) s f) s

/-- TDINV (R338): Marks a tensor descriptor not loaded. -/
def execTdinv (h : Hdr) (t : BitVec 6) (s : State) :
    Host.Outcome State Fault Refusal :=
  runWord h.e h.pg h.pn false (fun s f =>
    .next (s.onTeam f.key.launch f.key.team fun tm => { tm with tds := setNth none tm.tds t.toNat none }) f) s

/-- TBLD (R363): Loads a pattern table or expression entry from global memory. -/
def execTbld (h : Hdr) (t : BitVec 4) (a : BitVec 6) (s : State) :
    Host.Outcome State Fault Refusal :=
  runWord h.e h.pg h.pn false (fun s f =>
    withOpds [⟨2, a, .src⟩] [] (fun s f =>
      let va := f.src a
      if va.toNat % 8 != 0 then trapOwn s f 0x03 va
      else if t.toNat < 8 then tbldPattern t.toNat va s f
      else tbldExpr (t.toNat - 8) va s f) s f) s

end Sys2Proof.Machine
end

