-- ==== Sys2Proof/Machine/Copy.lean ====
section
/-! DEFINITION. The copy engine: COPY words, their checks, and what their commands do (chapter 08). -/

namespace Sys2Proof.Machine

/-! ### Operands (R268 to R270) -/

/-- Fields of the SB value (R269). -/
def cpLen (sb : Word) : Nat := bitsOf sb 24 0
def cpRows (sb : Word) : Nat := bitsOf sb 47 32
def cpSsp (sb : Word) : Bool := bitOf sb 25
def cpDsp (sb : Word) : Bool := bitOf sb 26

/-- The rows of an operand: offset from its address, and length. -/
def cpSpans (form : Nat) (sb : Word) (stride : Nat) : List (Nat × Nat) :=
  if form = 1 then (upFrom 0 (cpRows sb)).map fun r => (r * stride, cpLen sb) else [(0, cpLen sb)]

/-- Whether two ranges share a byte. -/
def meets (a n b m : Nat) : Bool := decide (a < b + m) && decide (b < a + n)

/-- Whether two lists of ranges share a byte. -/
def spansMeet (a : Nat) (xs : List (Nat × Nat)) (b : Nat) (ys : List (Nat × Nat)) : Bool :=
  xs.any fun x => ys.any fun y => decide (x.2 ≠ 0) && decide (y.2 ≠ 0) && meets (a + x.1) x.2 (b + y.1) y.2

/-- The team index and offset that a scratchpad address addresses, without checks (R220). -/
def State.spadOf (s : State) (f : Fibre) (addr : Word) : Nat × Nat :=
  let rope := (s.launchOf f).elim 1 (·.rope)
  (if bitOf addr 26 then f.key.team / rope * rope + bitsOf addr 25 20 else f.key.team, bitsOf addr 19 0)

/-- R270 step 2: the ranges of CPY or CPY2D overlap in one space. -/
def State.cpOverlap (s : State) (f : Fibre) (form : Nat) (src dst strides sb : Word) : Bool :=
  let xs := cpSpans form sb (bitsOf strides 31 0)
  let ys := cpSpans form sb (bitsOf strides 63 32)
  if form ≠ 0 ∧ form ≠ 1 then false
  else if cpSsp sb != cpDsp sb then false
  else if cpSsp sb then
    let a := s.spadOf f src
    let b := s.spadOf f dst
    a.1 == b.1 && spansMeet a.2 xs b.2 ys
  else spansMeet src.toNat xs dst.toNat ys

/-- R270 step 3: a reserved bit, or a field outside R269. -/
def cpBad (form : Nat) (sb : Word) : Bool :=
  let len := cpLen sb
  bitsOf sb 31 27 != 0 || bitsOf sb 63 48 != 0 ||
  (cpSsp sb && !([0, 1, 4].contains form)) || (cpDsp sb && !([0, 1, 2, 4].contains form)) ||
  (form != 1 && cpRows sb != 0) ||
  (match form with
   | 1 => len == 0 || decide (1048576 < len) || cpRows sb == 0 || decide (16777216 < len * cpRows sb)
   | 3 => bitsOf sb 24 2 != 0 || bitsOf sb 1 0 == 3
   | 0 | 2 | 4 => decide (16777216 < len)
   | _ => len == 0 || len % 4096 != 0)

/-- R270 step 4: the first misaligned address, with its alignment rule. -/
def cpMisaligned (form : Nat) (a a1 a2 sb : Word) : Option Word :=
  let bad := fun (w : Word) (n : Nat) => if w.toNat % n ≠ 0 then some w else none
  match form with
  | 3 => ((if bitsOf sb 1 0 = 0 then bad a 4096 else none).or (bad a2 8)).or (bad a1 64)
  | 4 => bad a2 8
  | 5 => (bad a1 4096).or (bad a 4096)
  | 6 | 7 | 8 => bad a 4096
  | _ => none

/-- The first offending address of rows at a scratchpad address (R221). -/
def State.spadBad (s : State) (f : Fibre) (addr : Word) (spans : List (Nat × Nat)) : Option Word :=
  spans.findSome? fun x =>
    let at_ := addr + BitVec.ofNat 64 x.1
    let size := (s.launchOf f).elim 0 (·.spadBytes)
    let off := bitsOf addr 19 0 + x.1
    if x.2 = 0 then none
    else if (s.spadTarget f addr 1).isNone then some at_
    else if size < off + x.2 then some (if off < size then at_ + BitVec.ofNat 64 (size - off) else at_)
    else none

/-- The first chunk of a map command's range in a state it does not accept (R275). -/
def Team.chunkBad (t : Team) (form : Nat) (addr : Word) (len : Nat) : Option Word :=
  (chunksOf (bitsOf addr 19 0) len).findSome? fun i =>
    if (t.chunk? i).isSome == (form == 5) then some (addr + BitVec.ofNat 64 (4096 * i - bitsOf addr 19 0)) else none

/-- R270 step 5; of a range outside the scratchpad and a chunk in the wrong state, the lower address is reported. FN 5–8 take RMT = 0
only; with RMT = 1 they raise ACCESS_VIOLATION with the address, a fault that R269 does not name (log 77). -/
def State.cpSpadFault (s : State) (f : Fibre) (form : Nat) (a a1 a2 sb : Word) : Option Word :=
  let len := cpLen sb
  if 5 ≤ form then
    if bitOf a 26 then some a
    else
      match s.spadBad f a [(0, len)], (s.teamOf f).bind fun t => t.chunkBad form a len with
      | some x, some y => some (if x.toNat ≤ y.toNat then x else y)
      | x, y => x.or y
  else if form = 2 then (if cpDsp sb then s.spadBad f a [(0, len)] else none)
  else if form = 3 then none
  else
    let xs := cpSpans form sb (bitsOf a2 31 0)
    let ys := cpSpans form sb (bitsOf a2 63 32)
    (if cpSsp sb then s.spadBad f a xs else none).or (if cpDsp sb then s.spadBad f a1 ys else none)

/-! ### Translation (R270 step 6, R272) -/

/-- Pages of a range: an address in each, with a length inside it. -/
def pagesOf (va n : Nat) : List (Nat × Nat) :=
  if n = 0 then []
  else (upFrom (va / 65536) ((va + n - 1) / 65536 - va / 65536 + 1)).map fun p => (Nat.max va (p * 65536), 1)

/-- Pages of rows at an address, each once. -/
def spanPages (va : Nat) (spans : List (Nat × Nat)) : List (Nat × Nat) :=
  let l := spans.flatMap fun x => pagesOf (va + x.1) x.2
  (dedup (l.map (·.1 / 65536))).map fun p => ((l.find? fun x => x.1 / 65536 == p).elim (p * 65536) (·.1), 1)

/-- Pages translated as an engine's, then `k` with their leaves; a fault is a fault of the word. -/
def withPages (engine : Nat) (pages : List (Nat × Nat)) (write : Bool) (k : List (Nat × Leaf) → State → Fibre → WordOut)
    (s : State) (f : Fibre) : WordOut :=
  match s.translateParts (.engine engine) (s.fnOf f) write pages with
  | .ok ps =>
    k ((pages.zip ps).map fun x => (x.1.1 / 65536, x.2.leaf)) (s.cacheParts (.engine engine) (s.fnOf f) pages ps) f
  | x => xlatFaultBy (if engine = 1 then 4 + dieOfCore f.core else 22) noCore s f (if write then 4 else 3) x

/-- Whether a page is replicated. -/
def isRepl (l : Leaf) : Bool := match l.base with | .repl _ => true | _ => false

/-- Whether a leaf lies in a peer window (R13). -/
def isPeer (l : Leaf) : Bool := match l.base with | .peer _ _ => true | _ => false

/-- The first-touch fills that rows of a scratchpad operand need: reads of the engine, whichever operand they lie in (R224,
R225). -/
def withFills (launch team : Nat) (spans : List (Nat × Nat)) (k : State → Fibre → WordOut) (s : State)
    (f : Fibre) : WordOut :=
  match spans with
  | [] => k s f
  | (off, n) :: r => withChunk launch team off n 3 (withFills launch team r k) s f

/-- The global addresses that a COPY word translates: as reads, and as writes. Of a map command they are those of the chunks that
it touches: BOUND ones to fill, FILLED ones with a written line (R270, R275). -/
def State.cpGlobals (s : State) (f : Fibre) (form : Nat) (a a1 a2 sb : Word) : List (Nat × Nat) × List (Nat × Nat) :=
  let len := cpLen sb
  let xs := spanPages a.toNat (cpSpans form sb (bitsOf a2 31 0))
  let ys := spanPages a1.toNat (cpSpans form sb (bitsOf a2 63 32))
  let chunkPages := fun (p : Chunk → Bool) =>
    (s.teamOf f).elim [] fun t => (chunksOf (bitsOf a 19 0) len).filterMap fun i =>
      (t.chunk? i).bind fun c => if p c then some (c.va, 1) else none
  match form with
  | 0 | 1 => (if cpSsp sb then [] else xs, if cpDsp sb then [] else ys)
  | 2 => ([], if cpDsp sb then [] else spanPages a.toNat [(0, len)])
  | 3 => if bitsOf sb 1 0 = 0 then ([(a.toNat, 1)], [(a1.toNat, 1), (a2.toNat, 1)]) else ([(a1.toNat, 1)], [(a2.toNat, 1)])
  | 4 => ((if cpSsp sb then [] else spanPages a.toNat [(0, len)]) ++ (if cpDsp sb then [] else spanPages a1.toNat [(0, len)]),
          [(a2.toNat, 1)])
  | 6 => (chunkPages fun c => !c.filled, [])
  | 7 | 8 => ([], chunkPages fun c => c.filled && !c.written.isEmpty)
  | _ => ([], [])

/-- The multicast group, frame and offset of a destination that lies in a window: every page of it at its place in the one group
(R410). Of any other destination the pages in a window raise ACCESS_VIOLATION. -/
def State.cpCast (s : State) (f : Fibre) (form : Nat) (dst : Nat) (pages : List (Nat × Nat)) : Option (Nat × Nat × Nat) :=
  match s.castWindow (s.fnOf f) dst with
  | none => none
  | some (g, fr, off) =>
    let fits := pages.all fun p =>
      match s.castWindow (s.fnOf f) p.1 with
      | some (g', fr', off') => g' == g && fr' * 65536 + off' + dst == fr * 65536 + off + p.1
      | none => false
    if form < 3 && fits then some (g, fr, off) else none

/-- The entry of a multicast group in the table of a switch die (R409). -/
def State.groupEntry (s : State) (sw group : Nat) : Word := lookupD 0 s.fab.groups (sw * 65536 + group)

/-- Whether this package is a member of a group, as the switch die of a unit has it (R409). -/
def State.castHere (s : State) (unit group : Nat) : Bool := bitOf (s.groupEntry (unit / 2) group) 32 && bitOf (s.groupEntry (unit / 2) group) 24

/-- What the export table of this package, where it is a member, says of the pages of a multicast (R402, R410): the first that it
refuses. -/
def State.castFault (s : State) (f : Fibre) (cast : Option (Nat × Nat × Nat)) (dst : Nat) (pages : List (Nat × Nat)) : Option XlatAll :=
  cast.bind fun x =>
    if !(s.castHere (dieOfCore f.core) x.1) then none
    else pages.findSome? fun p =>
      let e := s.exportOf ((x.2.1 * 65536 + x.2.2 + p.1 - dst) / 65536) true
      if e.cls = 0 then none
      else if e.cls ≤ 2 then some ((s.faulted (s.fnOf f) (p.1 / 65536) e.cls).at_ p.1)
      else some (.violation p.1 e.cls e.entry)

/-- A fault that the export table gives a multicast, a fault of the word; else `k`. -/
def withCast (x : Option XlatAll) (k : State → Fibre → WordOut) (s : State) (f : Fibre) : WordOut :=
  match x with
  | some x => xlatFaultBy (4 + dieOfCore f.core) noCore s f 4 x
  | none => k s f

/-- A COPY word (R267 to R270): its checks in their order, then the command. -/
def copyWord (form group : Nat) (h : Gd) (sc : BitVec 3) (o : BitVec 2) (a b : BitVec 6) :
    State → Host.Outcome State Fault Refusal :=
  runWord true h.pg h.pn false fun s f =>
    withOpds [⟨2, a, .srcGroup group⟩, ⟨3, b, .src⟩] (scopeBad sc) (fun s f =>
      let ra := f.readG a.toNat
      let ra1 := if 2 ≤ group then f.readG (a.toNat + 1) else 0
      let ra2 := if 3 ≤ group then f.readG (a.toNat + 2) else 0
      let sb := f.src b
      let team := fun (x : Word) => s.spadOf f x
      if f.inTask then taskFault s f 2
      else if s.cpOverlap f form ra ra1 ra2 sb then trapField s f 0x02 2
      else if cpBad form sb then trapField s f 0x02 3
      else
        match cpMisaligned form ra ra1 ra2 sb, s.cpSpadFault f form ra ra1 ra2 sb with
        | some x, _ => trapOwn s f 0x03 x
        | none, some x => trapOwn s f 0x04 x
        | none, none =>
          let dst := (if form = 2 then ra else ra1).toNat
          let (rd, wr) := s.cpGlobals f form ra ra1 ra2 sb
          let cast := if cpDsp sb then none else s.cpCast f form dst wr
          withPages 1 rd false (fun lr => withPages 1 (if cast.isSome then [] else wr) true fun lw => withCast (s.castFault f cast dst wr) fun s f =>
            let leaves := lr ++ lw
            let replicated := form == 3 && (match leaves.find? fun p => p.1 == ra1.toNat / 65536 with
              | some (_, l) => (match l.base with | .repl _ => true | _ => false)
              | none => false)
            if replicated then trapOwn s f 0x04 ra1
            else
              let xs := cpSpans form sb (bitsOf ra2 31 0)
              let ys := cpSpans form sb (bitsOf ra2 63 32)
              let at_ := fun (w : Word) (l : List (Nat × Nat)) => l.map fun x => ((team w).2 + x.1, x.2)
              let srcFill := if (form < 2 ∨ form = 4) ∧ cpSsp sb then at_ ra xs else []
              let dstFill := if form < 2 ∧ cpDsp sb then at_ ra1 ys
                else if form = 4 ∧ cpDsp sb then at_ ra1 [(0, cpLen sb)]
                else if form = 2 ∧ cpDsp sb then at_ ra [(0, cpLen sb)] else []
              let dstAddr := if form = 2 then ra else ra1
              withFills f.key.launch (team ra).1 srcFill (withFills f.key.launch (team dstAddr).1 dstFill (fun s f =>
                if s.presentWaits f (o.toNat % 2 == 1) then .stall
                else
                  commitPoint (fun s f =>
                    let spot := fun (sp : Bool) (w : Word) => if sp then Spot.spad (team w).1 (team w).2 else .global w.toNat
                    let src := if form = 2 ∨ form = 3 then .none else if 5 ≤ form then spot true ra else spot (cpSsp sb) ra
                    let dst := match cast with
                      | some (g, fr, off) => Spot.cast g fr off
                      | none => if form = 3 ∨ 5 ≤ form then .none else spot (cpDsp sb) dstAddr
                    presentCmd ⟨1, form, [ra, ra1, ra2, sb], sc.toNat, o.toNat, f.guardHint, src, dst, leaves,
                      cast.isSome || leaves.any (fun p => isPeer p.2), none⟩ s f) s f)) s f) s f) s f

/-! ### Reading and writing for a command (R102, R273, R281) -/

/-- Bytes of a range of an operand: at the home or the scratchpad; a peer's or the host's from what was fetched, 0xFF of
a departed peer. -/
def State.readSpot (s : State) (c : Cmd) (spot : Spot) (off n : Nat) : List Byte :=
  match spot with
  | .global va =>
    (cutLines (va + off) n).flatMap fun p =>
      match c.place? p.1 with
      | none => List.replicate p.2 0xFF
      | some (pl, leaf) =>
        if s.gone pl then List.replicate p.2 0xFF
        else if pl.away then (upFrom p.1 p.2).map fun a => (byteIn c.buf a).getD 0xFF
        else s.agentLine pl p.2 leaf.key c.readDie
  | .spad team o => (s.team? c.issuer.launch team).elim [] fun t => t.spadRead (o + off) n
  | _ => List.replicate n 0

/-- The offsets of a range whose bytes are poisoned: at the home, in the scratchpad, or as a peer sent them (R281, R423). -/
def State.poisonIn (s : State) (c : Cmd) (spot : Spot) (off n : Nat) : List Nat :=
  match spot with
  | .global va =>
    (upFrom 0 n).filter fun i =>
      match c.place? (va + off + i) with
      | some (pl, _) => if pl.away then c.bad.contains (va + off + i) else s.m.poisoned (homeLevel pl c.readDie) pl 1
      | none => false
  | .spad team o => (s.team? c.issuer.launch team).elim [] fun t => t.spadBad (o + off) n
  | _ => []

/-- Whether a range holds bytes of a departed peer, or a group has a member that has departed (R410, R413; log 73). -/
def State.goneIn (s : State) (c : Cmd) (spot : Spot) (off n : Nat) : Bool :=
  match spot with
  | .cast g _ _ => s.fab.peers.any fun p => p.departed.isSome && Config.castMember g p.id
  | .global va => (cutLines (va + off) n).any fun p => match c.place? p.1 with | some (pl, _) => s.gone pl | none => false
  | _ => false

/-- The metadata of a block that an agent writes whole in one transaction (R240): a free number of sectors where the page
compresses. -/
def State.packFor (s : State) (leaf : Leaf) (va n : Nat) : Nat :=
  if leaf.cmp = 1 && va % 256 == 0 && n == 256 then Config.freeNat (s.fresh + va) % 8 else 0

/-- The latency of a command's write: free, but no later write is performed before an earlier one (R274). -/
def State.latencyAfter (s : State) (c : Cmd) (after : Bool) : Nat :=
  if after then Nat.max (s.engineLatency c) (c.due - s.ftime) else s.engineLatency c

/-- The parts of a global range as an engine writes them: a whole block at once, else line by line. -/
def blockParts (va n : Nat) : List (Nat × Nat) := if va % 256 = 0 ∧ n = 256 then [(va, 256)] else cutLines va n

/-- Parts of a global range written at their homes (R102); a departed peer's are dropped. The GWCTs go to the command. -/
def State.writeParts (s : State) (c : Cmd) (lo : Nat) (bad : List Nat) (after : Bool) : List (Nat × Nat) → List Byte → State
  | [], _ => s
  | (va, k) :: r, bs =>
    let s := match c.place? va with
      | none => s
      | some (pl, leaf) =>
        if s.gone pl then s
        else
          let mine := (bad.filter fun i => decide (va ≤ lo + i) && decide (lo + i < va + k)).map fun i => lo + i - va
          let (s, g) := s.agentWrite pl (bs.take k) leaf.key (s.latencyAfter ((s.cmd? c.uid).getD c) after) .none (.cmdWrite c.uid)
            mine (s.packFor leaf va k)
          s.onCmd c.uid fun c => { c with due := Nat.max c.due g }
    s.writeParts c lo bad after r (bs.drop k)

/-- Parts of a range written at this package as a member of a group, by their offset from a frame; `bad` are the poisoned offsets. A
part whose frame it does not export any more is not written (log 73). -/
def State.castLocal (s : State) (c : Cmd) (frame : Nat) (bad : List Nat) : List (Nat × Nat) → List Byte → State
  | [], _ => s
  | (a, k) :: r, bs =>
    let e := s.exportOf (frame + a / 65536) true
    let s := if e.cls = 0 then
        (let mine := (bad.filter fun i => decide (a ≤ i) && decide (i < a + k)).map (· - a)
         let (s, g) := s.agentWrite (.dram (e.pa + a % 65536)) (bs.take k) e.key (s.engineLatency c) .none .none mine
         s.onCmd c.uid fun c => { c with due := Nat.max c.due g })
      else s
    s.castLocal c frame bad r (bs.drop k)

/-- The egress ports that a group's entry names on a switch die, of those that are up (R409). -/
def State.castPorts (s : State) (sw : Nat) (e : Word) : List Nat :=
  (upFrom 0 24).filterMap fun i =>
    let p := 24 * sw + i
    if bitOf e i && (nth Port.initial s.fab.ports p).state == 2 then some p else none

/-- A packet to the members of a group on its egress ports; with none it is not sent (R409). The flows on those ports carry it. -/
def State.sendCast (s : State) (group : Nat) (ports : List Nat) (frame off : Nat) (bs : List Byte) (bad : List Nat) : State :=
  if ports.isEmpty then s
  else
    let flows := s.fab.flows.map fun (x : Flow) => if ports.contains x.port then { x with last := s.ftime } else x
    { s with outbox := s.outbox ++ [.cast group ports frame off bs bad], fab := { s.fab with flows := flows } }

/-- Bytes written to a range of an operand; `bad` are offsets of poisoned ones, `after` asks that they follow every earlier write
of the command. -/
def State.writeSpot (s : State) (c : Cmd) (spot : Spot) (off : Nat) (bs : List Byte) (bad : List Nat) (after : Bool := false) :
    State :=
  match spot with
  | .global va => s.writeParts c (va + off) bad after (blockParts (va + off) bs.length) bs
  | .spad team o => s.onTeam c.issuer.launch team fun t => t.spadWrite (o + off) bs bad
  | .cast group frame o =>
    let e := s.groupEntry (c.unit / 2) group
    let here := s.castHere c.unit group
    let s := if bitOf e 32 then
        s.sendCast group (s.castPorts (c.unit / 2) e) (frame + (o + off) / 65536) ((o + off) % 65536) bs bad
      else s
    if here then s.castLocal c frame (bad.map (o + off + ·)) (cutLines (o + off) bs.length) bs else s
  | .none => s

/-! ### The parts of a command (R273, R274) -/

/-- Parts of a range cut at multiples of `k`: address and length of each. -/
def alignedParts (k : Nat) : Nat → Nat → Nat → List (Nat × Nat)
  | 0, _, _ => []
  | fuel + 1, a, n =>
    if n = 0 then []
    else
      let m := Nat.min n (k - a % k)
      (a, m) :: alignedParts k fuel (a + m) (n - m)

/-- The range cut at multiples of `k`. -/
def cutAt (k a n : Nat) : List (Nat × Nat) := alignedParts k (n / k + 2) a n

/-- The number from which the bytes of CMPB's range B are counted among the command's data. -/
def rangeB : Nat := 2 ^ 25

/-- The rows of an operand of a command: the number of the first byte, its offset from the operand's address, the length. -/
def Cmd.rows (c : Cmd) (stride first : Nat) : List CopyPart :=
  let sb := nth 0 c.regs 3
  if c.form = 1 then (upFrom 0 (cpRows sb)).map fun r => ⟨first + r * cpLen sb, r * stride, cpLen sb⟩ else [⟨first, 0, cpLen sb⟩]

/-- The address from which the offsets of an operand count, as far as alignment goes. -/
def Spot.start : Spot → Nat
  | .global va => va
  | .spad _ o => o
  | _ => 0

/-- The units in which an engine reads an operand: aligned, 8 bytes each (R274). -/
def unitsOf (spot : Spot) (rows : List CopyPart) : List CopyPart :=
  rows.flatMap fun r => (cutAt 8 (spot.start + r.off) r.n).map fun p =>
    ⟨r.idx + (p.1 - (spot.start + r.off)), p.1 - spot.start, p.2⟩

/-- The parts in which an engine writes an operand: whole blocks of a page that compresses at once, other global memory by units
of 8 bytes, or by lines where it lies elsewhere; a row of scratchpad or of a multicast window at once. -/
def Cmd.partsOut (c : Cmd) (spot : Spot) (rows : List CopyPart) : List CopyPart :=
  match spot with
  | .global va =>
    let cut := fun (x : Nat × Nat) =>
      match c.place? x.1 with
      | some (pl, leaf) => if pl.away then cutAt 128 x.1 x.2 else if leaf.cmp = 1 ∧ x.2 = 256 then [x] else cutAt 8 x.1 x.2
      | none => [x]
    rows.flatMap fun r => ((cutAt 256 (va + r.off) r.n).flatMap cut).map fun p => ⟨r.idx + (p.1 - (va + r.off)), p.1 - va, p.2⟩
  | _ => rows.filter fun r => r.n != 0

/-- What a CPYFP reads before its probe phase (R278, R279): the source page of mode 0, the INDEX of its result entry in modes 1 and 2. -/
def Cmd.fpSource (c : Cmd) : Spot × Nat :=
  if bitsOf (nth 0 c.regs 3) 1 0 = 0 then (.global (nth 0 c.regs 0).toNat, 4096) else (.global (nth 0 c.regs 2).toNat, 4)

/-- What a command has to read and to write. -/
def Cmd.toRead (c : Cmd) : List CopyPart :=
  match c.form with
  | 3 => unitsOf c.fpSource.1 [⟨0, 0, c.fpSource.2⟩]
  | 6 => c.todo
  | 0 | 1 => unitsOf c.src (c.rows (bitsOf (nth 0 c.regs 2) 31 0) 0)
  | 4 => unitsOf c.src (c.rows 0 0) ++ unitsOf c.dst (c.rows 0 rangeB)
  | _ => []
def Cmd.toWrite (c : Cmd) : List CopyPart :=
  match c.form with
  | 0 | 1 => c.partsOut c.dst (c.rows (bitsOf (nth 0 c.regs 2) 63 32) 0)
  | 2 => c.partsOut c.dst (c.rows 0 0)
  | 7 | 8 => c.out
  | _ => []

/-- The operand in which a part to be read lies. -/
def Cmd.spotOf (c : Cmd) (p : CopyPart) : Spot :=
  if c.form = 3 then c.fpSource.1 else if rangeB ≤ p.idx then c.dst else c.src

/-- Whether a part can be read: of a peer or of the host, once its bytes have come. -/
def State.partHere (s : State) (c : Cmd) (p : CopyPart) : Bool :=
  match c.spotOf p with
  | .global va => (cutLines (va + p.off) p.n).all fun x =>
      match c.place? x.1 with
      | some (pl, _) => !pl.away || s.gone pl || ((upFrom x.1 x.2).all fun a => (byteIn c.buf a).isSome)
      | none => true
  | _ => true

/-- A part read: its bytes are the command's, with their poison; RERR and a missed promise for a departed peer, a missed promise for
poison (R22, R281). Bytes of a departed peer are lost to a CPYFP as poisoned ones are. -/
def State.readPart (s : State) (c : Cmd) (p : CopyPart) : State :=
  let spot := c.spotOf p
  let bytes := withAddr p.idx (s.readSpot c spot p.off p.n)
  let bad := (s.poisonIn c spot p.off p.n).map (p.idx + ·)
  let gone := s.goneIn c spot p.off p.n
  let lost := if c.form = 3 && gone then upFrom p.idx p.n else bad
  let s := s.onCmd c.uid fun c =>
    { c with got := bytes ++ c.got, gotBad := lost ++ c.gotBad, todo := c.todo.filter fun x => x.idx != p.idx }
  let s := if bad.isEmpty then s else s.cmdMissed c
  if gone then s.cmdGone c else s

/-- The bytes of a part to be written: FILL's pattern, else what has been read. -/
def Cmd.dataOf (c : Cmd) (p : CopyPart) : List Byte :=
  if c.form = 2 then (upFrom 0 p.n).map fun i => nth 0 (bytesLE 8 (nth 0 c.regs 1).toNat) ((p.idx + i) % 8)
  else (upFrom p.idx p.n).map fun a => (byteIn c.got a).getD 0

/-- Where a part is written: a map command's lines lie at their own addresses. -/
def Cmd.destOf (c : Cmd) : Spot := if 5 ≤ c.form then .global 0 else c.dst

/-- A part written; a departed peer's bytes are dropped (R281). -/
def State.writePart (s : State) (c : Cmd) (p : CopyPart) : State :=
  let bad := (c.gotBad.filter fun a => decide (p.idx ≤ a) && decide (a < p.idx + p.n)).map (· - p.idx)
  let gone := s.goneIn c c.destOf p.off p.n
  let s := s.writeSpot c c.destOf p.off (c.dataOf p) bad
  let s := s.onCmd c.uid fun c => { c with out := c.out.filter fun x => x.idx != p.idx }
  if gone then s.cmdGone c else s

/-- Whether a part to be written has been read in full. -/
def Cmd.covered (c : Cmd) (p : CopyPart) : Bool :=
  c.todo.all fun x => decide (x.idx + x.n ≤ p.idx) || decide (p.idx + p.n ≤ x.idx)

/-- CMPB's result (R273): the least number where the ranges differ, or of the first uncorrectable byte (R281), or all ones. -/
def Cmd.compared (c : Cmd) : Nat :=
  let diff := (upFrom 0 (cpLen (nth 0 c.regs 3))).find? fun i => byteIn c.got i != byteIn c.got (rangeB + i)
  ((leastField (c.gotBad.map fun a => a % rangeB)).or diff).getD (2 ^ 64 - 1)

/-- What follows the last part of a command: CMPB writes its result, after everything else (R273, R274). -/
def State.lastPart (s : State) (c : Cmd) : State :=
  let s := if c.form = 4 then
      let at_ := Spot.global (nth 0 c.regs 2).toNat
      let gone := s.goneIn c at_ 0 8
      let s := s.writeSpot c at_ 0 (bytesLE 8 c.compared) [] true
      if gone then s.cmdGone c else s
    else s
  s.onCmd c.uid fun c => { c with state := .done }

/-! ### Completion -/

/-- The parts of a command's sources that lie with a peer or in host memory. -/
def State.farParts (s : State) (c : Cmd) : List (Nat × Nat × Place) :=
  let of := fun (spot : Spot) (spans : List (Nat × Nat)) =>
    match spot with
    | .global va => spans.flatMap fun x => (cutLines (va + x.1) x.2).filterMap fun p =>
        match c.place? p.1 with
        | some (pl, _) => if pl.away && !(s.gone pl) then some (p.1, p.2, pl) else none
        | none => none
    | _ => []
  let sb := nth 0 c.regs 3
  match c.form with
  | 0 | 1 => of c.src (cpSpans c.form sb (bitsOf (nth 0 c.regs 2) 31 0))
  | 3 => of c.fpSource.1 [(0, c.fpSource.2)]
  | 4 => of c.src [(0, cpLen sb)] ++ of c.dst [(0, cpLen sb)]
  | _ => []

/-- Whether a command writes scratchpad or changes chunks: that takes effect at its PCT (R104, R275). -/
def Cmd.atPct (c : Cmd) : Bool :=
  c.engine == 1 && (c.form == 6 || (match c.dst with | .spad _ _ => decide (c.form ≤ 2) | _ => false))

/-- The time by which an accepted command has to act next: a releasing command's writes leave room for lease horizons (R104). -/
def Cmd.deadline (c : Cmd) : Time :=
  let hasRoom := match c.engine with
    | 1 => c.rel
    | 2 => c.rel && (c.form == 3 || c.form == 4)
    | _ => c.rel && c.form == 1
  if hasRoom && decide (c.state = .accepted) then c.pct - 10032 else c.pct

/-- Whether a command's own requests to peers or to the host are unanswered. -/
def State.cmdRemote (s : State) (uid : Nat) : Bool :=
  s.fab.remote.any fun r => match r.why with
    | .cmdRead c _ => c == uid
    | .cmdWrite c => c == uid
    | _ => false

/-- The BOUND chunks that a command's scratchpad operands touch, with their teams (R224). -/
def State.boundOf (s : State) (c : Cmd) : List (Nat × Chunk) :=
  let of := fun (spot : Spot) (rows : List CopyPart) =>
    match spot with
    | .spad team o =>
      (s.team? c.issuer.launch team).elim [] fun t =>
        ((dedup (rows.flatMap fun r => chunksOf (o + r.off) r.n)).filterMap t.chunk?).filterMap fun ch =>
          if ch.filled then none else some (team, ch)
    | _ => []
  match c.form with
  | 0 | 1 => of c.src (c.rows (bitsOf (nth 0 c.regs 2) 31 0) 0) ++ of c.dst (c.rows (bitsOf (nth 0 c.regs 2) 63 32) 0)
  | 2 => of c.dst (c.rows 0 0)
  | 4 => of c.src (c.rows 0 0) ++ of c.dst (c.rows 0 0)
  | 6 => (s.toFill c).map fun ch => (c.issuer.team, ch)
  | _ => []

/-- Whether a command waits for something that lies elsewhere. -/
def State.copyWaits (s : State) (c : Cmd) : Bool := s.cmdRemote c.uid || (s.boundOf c).any fun x => s.chunkWaits c x.2

/-- A command begins: what lies elsewhere is asked for, and its parts are to be read and written. -/
def State.beginCopy (s : State) (c : Cmd) : State :=
  let s := (s.farParts c).foldl (fun s x => s.askBytes x.2.2 x.2.1 (.cmdRead c.uid x.1)) s
  s.onCmd c.uid fun c => { c with asked := true, todo := c.toRead, out := c.toWrite }

/-- Those parts of a list that are read or written next: all of them when time presses, else some. -/
def someParts (all : Bool) (n : Nat) (l : List CopyPart) : List CopyPart := if all then l else chosen n l

/-- Some parts of a command read or written, at free times and in a free order up to its deadline, where the rest follows;
scratchpad is written at the PCT (R104, R274). -/
def State.stepData (s : State) (c : Cmd) : State :=
  let all := decide (c.deadline ≤ s.ftime + 1)
  let mayWrite := !c.atPct || decide (c.pct ≤ s.ftime)
  let ready := c.todo.filter (s.partHere c)
  let can := if mayWrite then c.out.filter c.covered else []
  let turn := !ready.isEmpty && (can.isEmpty || Config.freeNat s.fresh % 2 == 0)
  let reads := if all || turn then someParts all (Config.freeNat (s.fresh + 1)) ready else []
  let s := reads.foldl (fun s p => s.readPart c p) s
  let c := (s.cmd? c.uid).getD c
  let writes := if all then (if mayWrite then c.out.filter c.covered else []) else if turn then []
    else someParts false (Config.freeNat (s.fresh + 2)) can
  let s := writes.foldl (fun s p => s.writePart c p) s
  let c := (s.cmd? c.uid).getD c
  if c.todo.isEmpty && c.out.isEmpty then s.lastPart c else s

/-- CPY, CPY2D, FILL and CMPB: the chunks that they touch for the first time are filled before (R225). -/
def State.stepMove (s : State) (c : Cmd) : State :=
  let bound := s.boundOf c
  if bound.any fun x => s.chunkWaits c x.2 then bound.foldl (fun s x => s.askChunk c x.2) s
  else
    let s := bound.foldl (fun s x => s.fillFor c x.1 x.2) s
    s.stepData ((s.cmd? c.uid).getD c)

/-- The lines that map commands before a command have taken and not written yet, in ranges that meet its own, written: map commands
are carried out in acceptance order, each against what the others left (R275). -/
def State.writeEarlier (s : State) (c : Cmd) : State :=
  ((s.mapsBefore c).filter fun d => decide (7 ≤ d.form)).foldl (fun s d => d.out.foldl (fun s p => s.writePart d p) s) s

/-- SPFILL: every BOUND chunk that it has to fill is filled at the PCT as an agent's read of its 4 KiB (R225, R275). -/
def State.stepSpfill (s : State) (c : Cmd) : State :=
  let s := s.writeEarlier c
  let bound := s.boundOf c
  if bound.any fun x => s.chunkWaits c x.2 then bound.foldl (fun s x => s.askChunk c x.2) s
  else if s.ftime < c.pct then s
  else (bound.foldl (fun s x => s.fillFor c x.1 x.2) s).onCmd c.uid fun c => { c with state := .done }

/-! ### Fingerprints and dedupe (R276 to R280) -/

/-- One bit of CRC-64/ECMA-182, reflected. -/
def crcBit (c : BitVec 64) : BitVec 64 := if c.getLsbD 0 then (c >>> 1) ^^^ 0xC96C5795D7870F42 else c >>> 1

/-- One byte of it. -/
def crcByte (c : BitVec 64) (b : Byte) : BitVec 64 :=
  (upFrom 0 8).foldl (fun c _ => crcBit c) (c ^^^ b.setWidth 64)

/-- CRC-64/ECMA-182: reflected, init and xorout all ones (R277, R404). -/
def crc64 (bs : List Byte) : BitVec 64 := ~~~ (bs.foldl crcByte (BitVec.allOnes 64))

/-- Why a CPYFP cannot go on with its reads: a line, or a translation of a peer's or the host's, has to come first; or its page
fails, or lies with a departed peer, or its data is uncorrectable (R279, R281). -/
inductive FpStop where
  | line (p : Place)
  | walk (peer frame : Nat) (write : Bool)
  | failed
  | gone
  | poison
  deriving DecidableEq, Repr

/-- The place of an address for a CPYFP: under the translation that the command holds, or under one made when it runs (R272,
R279). -/
def State.fpAt (s : State) (c : Cmd) (va : Nat) (write : Bool) : Except FpStop (Place × Leaf) :=
  let at_ := fun (l : Leaf) => if s.gone (placeIn l va) then .error .gone else .ok (placeIn l va, l)
  match c.leaf? va with
  | some l => at_ l
  | none =>
    match s.translate (.engine 1) c.fn va write with
    | .ok l => at_ l
    | .walk p f w => .error (.walk p f w)
    | _ => .error .failed

/-- Bytes of one line of the table or the pool that CPYFP reads, with every write performed there, so that a probe phase finds what the
one before it wrote (R280). -/
def State.fpLine (s : State) (c : Cmd) (p : Place) (leaf : Leaf) (n : Nat) : Except FpStop (List Byte) :=
  if p.away && (s.fab.farLine p.line).isNone then .error (.line p)
  else if s.poisonAt p n c.readDie then .error .poison
  else if !p.away then .ok (s.m.homeNewest (homeLevel p c.readDie) p.line leaf.key p.off n)
  else .ok (s.agentLine p n leaf.key c.readDie)

/-- Bytes of parts of them. -/
def State.fpParts (s : State) (c : Cmd) : List (Nat × Nat) → Except FpStop (List Byte)
  | [] => .ok []
  | (va, n) :: r =>
    match s.fpAt c va false with
    | .error e => .error e
    | .ok (p, leaf) =>
      match s.fpLine c p leaf n with
      | .error e => .error e
      | .ok bs => (s.fpParts c r).map (bs ++ ·)

/-- Bytes of the table or the pool that CPYFP reads. -/
def State.fpRead (s : State) (c : Cmd) (va n : Nat) : Except FpStop (List Byte) := s.fpParts c (cutLines va n)

/-- Whether a page takes CPYFP's write, and is not replicated where that matters. -/
def State.fpWritable (s : State) (c : Cmd) (repl : Bool) (va : Nat) : Except FpStop Unit :=
  match s.translate (.engine 1) c.fn va true with
  | .ok l => if s.gone (placeIn l va) then .error .gone else if repl || !(isRepl l) then .ok () else .error .failed
  | .walk p f w => .error (.walk p f w)
  | _ => .error .failed

/-- Whether all of some pages do. -/
def State.allWritable (s : State) (c : Cmd) : List Nat → Except FpStop Unit
  | [] => .ok ()
  | va :: r =>
    match s.fpWritable c false va with
    | .ok _ => s.allWritable c r
    | e => e

/-- A dedupe descriptor (R276). -/
structure Dedupe where
  slots : Nat
  lg : Nat
  probe : Nat
  pool : Nat
  pages : Nat
  next : Nat
  coll : Nat
  deriving DecidableEq, Repr

/-- The descriptor in 64 bytes, if every field is in range. -/
def dedupeOf (d : List Byte) : Option Dedupe :=
  let x : Dedupe := ⟨descField d 0 8, descField d 8 1, descField d 9 1, descField d 16 8, descField d 24 4, descField d 28 4, descField d 32 8⟩
  if x.slots % 4096 = 0 ∧ 4 ≤ x.lg ∧ x.lg ≤ 24 ∧ 1 ≤ x.probe ∧ x.probe ≤ 16 ∧ x.pool % 4096 = 0 ∧ descField d 10 6 = 0 ∧
      descField d 40 24 = 0 then some x else none

/-- A slot (R277) with its address. -/
structure FpSlot where
  at_ : Nat
  fp : Nat
  index : Nat
  count : Nat
  state : Nat
  deriving DecidableEq, Repr

/-- The bytes of a slot. -/
def FpSlot.bytes (x : FpSlot) : List Byte := bytesLE 8 x.fp ++ bytesLE 4 x.index ++ bytesLE 2 x.count ++ bytesLE 1 x.state ++ [0]

/-- The slot that probe(fp) visits at a step (R279); a slot array on a replicated page fails (R276). -/
def State.fpSlot (s : State) (c : Cmd) (d : Dedupe) (fp i : Nat) : Except FpStop FpSlot :=
  let at_ := d.slots + 16 * ((fp + i) % 2 ^ d.lg)
  match s.fpAt c at_ false with
  | .error e => .error e
  | .ok (_, leaf) =>
    if isRepl leaf then .error .failed
    else (s.fpRead c at_ 16).map fun b => ⟨at_, descField b 0 8, descField b 8 4, descField b 12 2, descField b 14 1⟩

/-- What the probe phase of a CPYFP comes to: the writes in their order, and the result entry (R278, R279). -/
structure FpPlan where
  writes : List (Nat × List Byte)
  index : Nat
  count : Nat
  status : Nat
  deriving DecidableEq, Repr

/-- What a search through the slots of a probe has found: the slots visited, the slot looked for, the first free one, and whether a
collision was met. -/
structure FpFound where
  seen : List Nat
  slot : Option FpSlot
  free : Option FpSlot
  coll : Bool
  deriving DecidableEq, Repr

/-- The search of an insert, slot by slot up to the one that it shares, or the first empty one (R279): nothing beyond is read. -/
def State.fpSearch (s : State) (c : Cmd) (d : Dedupe) (fp : Nat) (data : List Byte) : Nat → Nat → FpFound → Except FpStop FpFound
  | 0, _, r => .ok r
  | fuel + 1, i, r =>
    match s.fpSlot c d fp i with
    | .error e => .error e
    | .ok x =>
      let r := { r with seen := x.at_ :: r.seen }
      if x.state ≠ 1 then
        let r := { r with free := r.free.or (some x) }
        if x.state = 0 then .ok r else s.fpSearch c d fp data fuel (i + 1) r
      else if x.fp ≠ fp then s.fpSearch c d fp data fuel (i + 1) r
      else
        match s.fpRead c (d.pool + 4096 * x.index) 4096 with
        | .error e => .error e
        | .ok page =>
          if page = data then .ok { r with slot := some x } else s.fpSearch c d fp data fuel (i + 1) { r with coll := true }

/-- The search of modes 1 and 2: up to the live slot of a pool page, or the first empty one (R279). -/
def State.fpFind (s : State) (c : Cmd) (d : Dedupe) (fp n : Nat) : Nat → Nat → FpFound → Except FpStop FpFound
  | 0, _, r => .ok r
  | fuel + 1, i, r =>
    match s.fpSlot c d fp i with
    | .error e => .error e
    | .ok x =>
      let r := { r with seen := x.at_ :: r.seen }
      if x.state = 1 ∧ x.index = n then .ok { r with slot := some x }
      else if x.state = 0 then .ok r
      else s.fpFind c d fp n fuel (i + 1) r

/-- Mode 0 (R279): the outcome, once every page that the phase reads or writes has been translated. -/
def State.fpInsert (s : State) (c : Cmd) (desc : Nat) (d : Dedupe) (data : List Byte) : Except FpStop FpPlan :=
  let fp := (crc64 data).toNat
  match s.fpSearch c d fp data d.probe 0 ⟨[], none, none, false⟩ with
  | .error e => .error e
  | .ok r =>
    match s.allWritable c r.seen with
    | .error e => .error e
    | .ok _ =>
      match r.slot, r.free with
      | some x, _ =>
        let n := if x.count < 0xFFFF then x.count + 1 else x.count
        .ok ⟨[(x.at_, { x with count := n }.bytes)], x.index, n, 0⟩
      | none, none => .ok ⟨[], 0xFFFFFFFF, 0, 3⟩
      | none, some x =>
        if x.state ≠ 2 ∧ d.next = d.pages then .ok ⟨[], 0xFFFFFFFF, 0, 4⟩
        else
          let n := if x.state = 2 then x.index else d.next
          let at_ := d.pool + 4096 * n
          match s.fpWritable c true at_ with
          | .error e => .error e
          | .ok _ =>
            .ok ⟨[(at_, data), (x.at_, (FpSlot.mk x.at_ fp n 1 1).bytes)] ++
              (if x.state = 2 then [] else [(desc + 28, bytesLE 4 (d.next + 1))]) ++
              (if r.coll then [(desc + 32, bytesLE 8 (d.coll + 1))] else []), n, 1, if r.coll then 2 else 1⟩

/-- Modes 1 and 2 (R279). -/
def State.fpCount (s : State) (c : Cmd) (d : Dedupe) (release : Bool) (n : Nat) : Except FpStop FpPlan :=
  match s.fpRead c (d.pool + 4096 * n) 4096 with
  | .error e => .error e
  | .ok page =>
    match s.fpFind c d (crc64 page).toNat n d.probe 0 ⟨[], none, none, false⟩ with
    | .error e => .error e
    | .ok r =>
      match s.allWritable c (if release then r.seen else []) with
      | .error e => .error e
      | .ok _ =>
        match r.slot with
        | none => .ok ⟨[], n, 0, 5⟩
        | some x =>
          if release ∧ x.count ≠ 0xFFFF then
            let m := x.count - 1
            let x' := { x with count := m, state := if m = 0 then 2 else x.state }
            .ok ⟨[(x.at_, x'.bytes)], n, m, if m = 0 then 6 else 0⟩
          else .ok ⟨[], n, x.count, 0⟩

/-- The whole of a CPYFP whose source has been read (R276, R279). -/
def State.fpPlan (s : State) (c : Cmd) : Except FpStop FpPlan :=
  let desc := (nth 0 c.regs 1).toNat
  match s.fpRead c desc 64 with
  | .error e => .error e
  | .ok db =>
    match dedupeOf db with
    | none => .error .failed
    | some d =>
      let mode := bitsOf (nth 0 c.regs 3) 1 0
      let data := c.dataOf ⟨0, 0, c.fpSource.2⟩
      if !c.gotBad.isEmpty then .error .failed
      else if mode = 0 then s.fpInsert c desc d data
      else s.fpCount c d (mode == 1) (natLE data)

/-- Whether two commands are CPYFPs on one descriptor. -/
def Cmd.sameTable (c d : Cmd) : Bool :=
  c.engine == 1 && c.form == 3 && d.engine == 1 && d.form == 3 &&
    decide ((c.place? (nth 0 c.regs 1).toNat).map (·.1) = (d.place? (nth 0 d.regs 1).toNat).map (·.1))

/-- Whether a CPYFP's probe phase has to wait: for the phase that another on its descriptor has begun and not ended, or for one of
its own queue that was accepted before it (R280). -/
def State.tableBusy (s : State) (c : Cmd) : Bool :=
  s.cmds.any fun d => d.uid != c.uid && d.sameTable c && decide (d.state = .accepted) &&
    (d.probing || (d.sameQueue c && decide (d.uid < c.uid)))

/-- A CPYFP reads its source, unit by unit (R274), and then begins its phase; lines of other packages that were read before are not
used in it. -/
def State.beginFp (s : State) (c : Cmd) : State :=
  if !c.todo.isEmpty then
    (someParts (decide (c.deadline ≤ s.ftime + 1)) (Config.freeNat (s.fresh + 1)) (c.todo.filter (s.partHere c))).foldl
      (fun s p => s.readPart c p) s
  else if s.tableBusy c then s
  else (s.dropFar (s.fab.far.map (·.1))).onCmd c.uid fun c => { c with probing := true }

/-- The translations under which a CPYFP writes, held by the command from then on (R272). -/
def State.fpLeaves (s : State) (c : Cmd) (writes : List (Nat × List Byte)) : List (Nat × Leaf) :=
  (dedup (writes.map fun w => w.1 / 65536)).filterMap fun p =>
    match s.fpAt c (p * 65536) true with
    | .ok (_, l) => some (p, l)
    | .error _ => none

/-- The result entry of a CPYFP (R278). -/
def FpPlan.entry (p : FpPlan) (c : Cmd) : Nat × List Byte :=
  ((nth 0 c.regs 2).toNat, bytesLE 4 p.index ++ bytesLE 2 p.count ++ bytesLE 1 p.status ++ [0])

/-- The outcome of a CPYFP settled: its writes, then its result entry, are to be made in this order; their pages are cached and
held (R246, R272, R274). -/
def State.planFp (s : State) (c : Cmd) (p : FpPlan) : State :=
  let leaves := s.fpLeaves c p.writes
  let s := leaves.foldl (fun s l => s.cache (.engine 1) c.fn (l.1 * 65536) l.2) s
  (s.dropFar (s.fab.far.map (·.1))).onCmd c.uid fun c =>
    { c with plan := some (p.writes ++ [p.entry c]), leaves := c.leaves ++ leaves }

/-- The writes of a CPYFP made in their order: each waits for the answer to the one before, and none is performed before it. -/
def State.writeFp (s : State) (c : Cmd) : List (Nat × List Byte) → State
  | [] => s.onCmd c.uid fun c => { c with plan := some [], state := .done }
  | (va, bs) :: r =>
    if s.cmdRemote c.uid then s.onCmd c.uid fun c => { c with plan := some ((va, bs) :: r) }
    else
      let gone := s.goneIn c (.global va) 0 bs.length
      let s := s.writeSpot c (.global va) 0 bs [] true
      (if gone then s.cmdGone c else s).writeFp c r

/-- CPYFP (R279): its phase, its outcome, its writes. A failure changes nothing but the entry, whose INDEX and COUNT are then those of
no page; a departed page also sets RERR, and either it or uncorrectable data misses the promise (R22, R281). -/
def State.stepFp (s : State) (c : Cmd) : State :=
  match c.plan with
  | some ws => if s.cmdRemote c.uid then s else s.writeFp c ws
  | none =>
    let failed : FpPlan := ⟨[], 0xFFFFFFFF, 0, 7⟩
    match s.fpPlan c with
    | .ok p => s.planFp c p
    | .error (.line p) => s.askFar p
    | .error (.walk p f w) => s.askWalk p f w
    | .error .failed => s.planFp c failed
    | .error .gone => (s.cmdGone c).planFp c failed
    | .error .poison => (s.cmdMissed c).planFp c failed

/-! ### A command goes on -/

/-- Whether a done command can settle: its remote writes have been answered and, with release, every GWCT has passed (R104). One
that has missed its promise settles late, and the handler of its miss sees every write: their GWCTs have passed too (R24). -/
def State.canSettle (s : State) (c : Cmd) : Bool :=
  decide (c.state = .done) && !(s.cmdRemote c.uid) && (!(c.rel || c.missed) || decide (c.due ≤ s.ftime))

/-- A copy command goes on: it asks for what lies elsewhere, does its work, and settles. Map commands whose ranges overlap act in
acceptance order (R275): the lines of an earlier one are written before those of a later one. -/
def State.stepCopy (s : State) (c : Cmd) : State :=
  match c.state with
  | .accepted =>
    if c.acq && decide (s.ftime < c.acqWait) then s
    else if !c.asked then s.beginCopy c
    else
      match c.form with
      | 3 => if c.probing then s.stepFp c else s.beginFp c
      | 5 => s.onCmd c.uid fun c => { c with state := .done }
      | 6 => s.stepSpfill c
      | 7 | 8 => (s.writeEarlier c).stepData c
      | _ => s.stepMove c
  | .done => if s.canSettle c then s.settle c else s
  | _ => s

/-- Phases of a command in one instant, as far as it gets. -/
def State.runCopy (s : State) (uid : Nat) : Nat → State
  | 0 => s
  | n + 1 =>
    match s.cmd? uid with
    | some c => (s.stepCopy c).runCopy uid n
    | none => s

/-- COPY_COMMAND_COMPLETE (R273): The copy engine goes on with a command: reads, writes and release, by its PCT. -/
def execCopyCommandComplete (cmd : Nat) (s : State) : Host.Outcome State Fault Refusal :=
  match s.cmd? cmd with
  | some c => .next (if c.engine = 1 then s.runCopy cmd 7 else s)
  | none => .next s

/-- CPY (R273): Presents a byte copy. -/
def execCpy (h : Gd) (sc : BitVec 3) (o : BitVec 2) (a : BitVec 6) (b : BitVec 6) (s : State) :
    Host.Outcome State Fault Refusal :=
  copyWord 0 2 h sc o a b s

/-- CPY2D (R273): Presents a copy of rows with strides. -/
def execCpy2d (h : Gd) (sc : BitVec 3) (o : BitVec 2) (a : BitVec 6) (b : BitVec 6) (s : State) :
    Host.Outcome State Fault Refusal :=
  copyWord 1 3 h sc o a b s

/-- FILL (R273): Presents a fill with a 64-bit pattern. -/
def execFill (h : Gd) (sc : BitVec 3) (o : BitVec 2) (a : BitVec 6) (b : BitVec 6) (s : State) :
    Host.Outcome State Fault Refusal :=
  copyWord 2 2 h sc o a b s

/-- CPYFP (R279): Presents a fingerprint insert, release or query. -/
def execCpyfp (h : Gd) (sc : BitVec 3) (o : BitVec 2) (a : BitVec 6) (b : BitVec 6) (s : State) :
    Host.Outcome State Fault Refusal :=
  copyWord 3 3 h sc o a b s

/-- CMPB (R273): Presents a comparison of two ranges. -/
def execCmpb (h : Gd) (sc : BitVec 3) (o : BitVec 2) (a : BitVec 6) (b : BitVec 6) (s : State) :
    Host.Outcome State Fault Refusal :=
  copyWord 4 3 h sc o a b s

/-- SPMAP (R275): Presents a binding of scratchpad chunks. -/
def execSpmap (h : Gd) (sc : BitVec 3) (o : BitVec 2) (a : BitVec 6) (b : BitVec 6) (s : State) :
    Host.Outcome State Fault Refusal :=
  copyWord 5 2 h sc o a b s

/-- SPFILL (R275): Presents fills of BOUND chunks. -/
def execSpfill (h : Gd) (sc : BitVec 3) (o : BitVec 2) (a : BitVec 6) (b : BitVec 6) (s : State) :
    Host.Outcome State Fault Refusal :=
  copyWord 6 1 h sc o a b s

/-- SPWB (R275): Presents a write-back of FILLED chunks. -/
def execSpwb (h : Gd) (sc : BitVec 3) (o : BitVec 2) (a : BitVec 6) (b : BitVec 6) (s : State) :
    Host.Outcome State Fault Refusal :=
  copyWord 7 1 h sc o a b s

/-- SPUNMAP (R275): Presents a write-back and unmapping of chunks. -/
def execSpunmap (h : Gd) (sc : BitVec 3) (o : BitVec 2) (a : BitVec 6) (b : BitVec 6) (s : State) :
    Host.Outcome State Fault Refusal :=
  copyWord 8 1 h sc o a b s

end Sys2Proof.Machine
end

