-- ==== Sys2Proof/Machine/Vec.lean ====
section
/-! DEFINITION. The vector unit: lanes, integer saturation, the VEC hint, and the frame of a vector word (R186 to R200, R217, R218). -/

namespace Sys2Proof.Machine

/-! ### Lanes (R186) -/

/-- Lane `i` of width `w`, unsigned. -/
def laneU (w : Nat) (v : Word) (i : Nat) : Nat := v.toNat / 2 ^ (w * i) % 2 ^ w

/-- Lane `i` of width `w`, signed. -/
def laneS (w : Nat) (v : Word) (i : Nat) : Int :=
  let x := laneU w v i
  if 2 ^ (w - 1) ≤ x then (x : Int) - 2 ^ w else (x : Int)

/-- Lanes of width `w` put together, lane 0 first. -/
def packLanes (w : Nat) : List Nat → Nat
  | [] => 0
  | x :: r => x % 2 ^ w + 2 ^ w * packLanes w r

/-- An integer reduced to a lane of width `w` (R196: lanes wrap). -/
def wrapLane (w : Nat) (v : Int) : Nat × Word := ((v % 2 ^ w).toNat, 0)

/-- An integer clamped to `lo`..`hi` and reduced to a lane; SAT when the clamp changes it (R196). -/
def clampLane (w : Nat) (lo hi v : Int) : Nat × Word :=
  if v < lo then ((lo % 2 ^ w).toNat, fstSAT)
  else if hi < v then ((hi % 2 ^ w).toNat, fstSAT)
  else ((v % 2 ^ w).toNat, 0)

/-- sat8, sat16 and sat32: the signed range of the width. -/
def satLane (w : Nat) (v : Int) : Nat × Word := clampLane w (-(2 ^ (w - 1))) (2 ^ (w - 1) - 1) v

/-- satu8 and satu16: the unsigned range. -/
def satuLane (w : Nat) (v : Int) : Nat × Word := clampLane w 0 (2 ^ w - 1) v

/-- A lane of all ones or zero. -/
def boolLane (w : Nat) (c : Bool) : Nat × Word := (if c then 2 ^ w - 1 else 0, 0)

/-- Arithmetic shift right, rounding half up; an amount of 0 gives the value (R203). -/
def sarRound (v : Int) (n : Nat) : Int := if n = 0 then v else (v + 2 ^ (n - 1)) / 2 ^ n

/-! ### The VEC hint in execution (R197 to R200) -/

/-- The rounding mode of the word: the VEC field, RNE without one. -/
def Fibre.rounding (f : Fibre) : Rounding := (f.hints.vec.map fun v => roundingOf v.round).getD .rne

/-- The saturate-to-finite bit. -/
def Fibre.satFinite (f : Fibre) : Bool := f.hints.vec.elim false (·.sat)

/-- Bit `j` of the group mask: p[(N + j) mod 8] XOR P, of which p0 reads 1; all ones when N = 0 (R197). -/
def Fibre.groupMask (f : Fibre) (j : Nat) : Bool :=
  match f.hints.vec with
  | none => true
  | some v => v.mask == 0 || (f.pred (v.mask + BitVec.ofNat 3 j) != v.neg)

/-- Whether a destination lane is active. -/
def Fibre.laneActive (f : Fibre) (w i : Nat) : Bool :=
  f.groupMask (if w = 8 then i / 2 else if w = 16 then i else 2 * i)

/-- Whether masked-off lanes merge, so that the word reads the old D (R188, R198). -/
def Fibre.merges (f : Fibre) : Bool := f.hints.vec.elim false fun v => v.mask != 0 && !v.zero

/-- A result over all lanes: active lanes from `lane`, the others merged or zeroed; and the flags of the active ones. -/
def Fibre.lanes (f : Fibre) (w : Nat) (old : Word) (lane : Nat → Nat × Word) : Word × Word :=
  let rs := (upFrom 0 (64 / w)).map fun i =>
    if f.laneActive w i then lane i else (if f.merges then laneU w old i else 0, 0)
  (BitVec.ofNat 64 (packLanes w (rs.map (·.1))), rs.foldl (fun acc r => acc ||| r.2) 0)

/-- D, as a source when the word reads its old value (R188). -/
def Fibre.oldD (f : Fibre) (acc : Bool) (d : BitVec 6) : List Opd := if acc || f.merges then [⟨1, d, .src⟩] else []

/-- A fixed-latency vector word of SA and SB with lanes of width `w`; `acc` forms read the old D (R188, R217, R218). -/
def vecAB (h : Hdr) (w : Nat) (acc : Bool) (d a b : BitVec 6)
    (lane : Fibre → Word → Word → Word → Nat → Nat × Word) : State → Host.Outcome State Fault Refusal :=
  runWord h.e h.pg h.pn true fun s f =>
    withOpds (⟨1, d, .dst⟩ :: f.oldD acc d ++ f.srcsAB a b) f.ksrcBad (fun s f =>
      let r := f.lanes w (f.src d) (lane f (s.srcA f a) (s.srcB f b) (f.src d))
      .next s ((f.setFlags r.2).writeFixed d r.1)) s f

/-- A fixed-latency unary vector word; `extra` are fields at fault for other reasons than a register code. -/
def vecA (h : Hdr) (w : Nat) (acc : Bool) (extra : List Nat) (d a : BitVec 6)
    (lane : Fibre → Word → Word → Nat → Nat × Word) : State → Host.Outcome State Fault Refusal :=
  runWord h.e h.pg h.pn true fun s f =>
    withOpds (⟨1, d, .dst⟩ :: f.oldD acc d ++ [⟨2, a, .src⟩]) extra (fun s f =>
      let r := f.lanes w (f.src d) (lane f (f.src a) (f.src d))
      .next s ((f.setFlags r.2).writeFixed d r.1)) s f

end Sys2Proof.Machine
end

