-- ==== Sys2Proof/Machine/Cvt.lean ====
section
/-! DEFINITION. Conversions: FCVT and FCVT2 (R209, R210). -/

namespace Sys2Proof.Machine

/-- CVT_S2_H4LO (R209): Widens the low FP16 lanes to FP32. -/
def execCvtS2H4lo (h : Hdr) (d : BitVec 6) (a : BitVec 6) (s : State) :
    Host.Outcome State Fault Refusal :=
  vecA h 32 false [] d a (fun f x _ i => fp16.convert fp32 f.rounding f.satFinite (laneU 16 x i)) s

/-- CVT_S2_H4HI (R209): Widens the high FP16 lanes to FP32. -/
def execCvtS2H4hi (h : Hdr) (d : BitVec 6) (a : BitVec 6) (s : State) :
    Host.Outcome State Fault Refusal :=
  vecA h 32 false [] d a (fun f x _ i => fp16.convert fp32 f.rounding f.satFinite (laneU 16 x (i + 2))) s

/-- FP32 lane `i` of the four of two registers. -/
def fourS (x y : Word) (i : Nat) : Nat := if i < 2 then laneU 32 x i else laneU 32 y (i - 2)

/-- CVT_H4_S2 (R209): Narrows four FP32 values to FP16. -/
def execCvtH4S2 (h : Hdr) (d : BitVec 6) (a : BitVec 6) (b : BitVec 6) (s : State) :
    Host.Outcome State Fault Refusal :=
  vecAB h 16 false d a b (fun f x y _ i => fp32.convert fp16 f.rounding f.satFinite (fourS x y i)) s

/-- CVT_BH4_S2 (R209): Narrows four FP32 values to BF16. -/
def execCvtBh4S2 (h : Hdr) (d : BitVec 6) (a : BitVec 6) (b : BitVec 6) (s : State) :
    Host.Outcome State Fault Refusal :=
  vecAB h 16 false d a b (fun f x y _ i => fp32.convert bf16 f.rounding f.satFinite (fourS x y i)) s

/-- CVT_E4M3_S2 (R209): Shift-in conversion of four FP32 values to E4M3. -/
def execCvtE4m3S2 (h : Hdr) (d : BitVec 6) (a : BitVec 6) (b : BitVec 6) (s : State) :
    Host.Outcome State Fault Refusal :=
  vecAB h 8 true d a b (fun f x y o i => 
    if i < 4 then fp32.convert fpE4m3 f.rounding f.satFinite (fourS x y i) else (laneU 8 o (i - 4), 0)) s

/-- CVT_S2_E4M3 (R209): Widens two selected E4M3 bytes to FP32. -/
def execCvtS2E4m3 (h : Hdr) (d : BitVec 6) (a : BitVec 6) (b : BitVec 6) (s : State) :
    Host.Outcome State Fault Refusal :=
  vecAB h 32 false d a b (fun f x y _ i => fpE4m3.convert fp32 f.rounding f.satFinite (laneU 8 x (2 * (laneU 2 y 0) + i))) s

/-- CVT_E5M2_S2 (R209): Shift-in conversion of four FP32 values to E5M2. -/
def execCvtE5m2S2 (h : Hdr) (d : BitVec 6) (a : BitVec 6) (b : BitVec 6) (s : State) :
    Host.Outcome State Fault Refusal :=
  vecAB h 8 true d a b (fun f x y o i => 
    if i < 4 then fp32.convert fpE5m2 f.rounding f.satFinite (fourS x y i) else (laneU 8 o (i - 4), 0)) s

/-- CVT_S2_E5M2 (R209): Widens two selected E5M2 bytes to FP32. -/
def execCvtS2E5m2 (h : Hdr) (d : BitVec 6) (a : BitVec 6) (b : BitVec 6) (s : State) :
    Host.Outcome State Fault Refusal :=
  vecAB h 32 false d a b (fun f x y _ i => fpE5m2.convert fp32 f.rounding f.satFinite (laneU 8 x (2 * (laneU 2 y 0) + i))) s

/-- CVT_S2_W (R209): Converts signed words to FP32. -/
def execCvtS2W (h : Hdr) (d : BitVec 6) (a : BitVec 6) (s : State) :
    Host.Outcome State Fault Refusal :=
  vecA h 32 false [] d a (fun f x _ i => fpOfInt f.rounding (laneS 32 x i)) s

/-- CVT_W_S2 (R210): Converts FP32 to signed words with clamping. -/
def execCvtWS2 (h : Hdr) (d : BitVec 6) (a : BitVec 6) (s : State) :
    Host.Outcome State Fault Refusal :=
  vecA h 32 false [] d a (fun f x _ i => fpToInt f.rounding (laneU 32 x i)) s

/-- CVT_S2_BH4LO (R209): Widens the low BF16 lanes to FP32. -/
def execCvtS2Bh4lo (h : Hdr) (d : BitVec 6) (a : BitVec 6) (s : State) :
    Host.Outcome State Fault Refusal :=
  vecA h 32 false [] d a (fun f x _ i => bf16.convert fp32 f.rounding f.satFinite (laneU 16 x i)) s

/-- CVT_S2_BH4HI (R209): Widens the high BF16 lanes to FP32. -/
def execCvtS2Bh4hi (h : Hdr) (d : BitVec 6) (a : BitVec 6) (s : State) :
    Host.Outcome State Fault Refusal :=
  vecA h 32 false [] d a (fun f x _ i => bf16.convert fp32 f.rounding f.satFinite (laneU 16 x (i + 2))) s

/-- CVT_H4_E4M3 (R209): Widens four E4M3 bytes to FP16. -/
def execCvtH4E4m3 (h : Hdr) (d : BitVec 6) (a : BitVec 6) (b : BitVec 6) (s : State) :
    Host.Outcome State Fault Refusal :=
  vecAB h 16 false d a b (fun f x y _ i => fpE4m3.convert fp16 f.rounding f.satFinite (laneU 8 x (4 * (laneU 1 y 0) + i))) s

/-- CVT_E4M3_H4 (R209): Shift-in conversion of four FP16 values to E4M3. -/
def execCvtE4m3H4 (h : Hdr) (d : BitVec 6) (a : BitVec 6) (s : State) :
    Host.Outcome State Fault Refusal :=
  vecA h 8 true [] d a (fun f x o i => 
    if i < 4 then fp16.convert fpE4m3 f.rounding f.satFinite (laneU 16 x i) else (laneU 8 o (i - 4), 0)) s

/-- TRUNC_W_S2 (R210): Converts FP32 to signed words rounding toward zero. -/
def execTruncWS2 (h : Hdr) (d : BitVec 6) (a : BitVec 6) (s : State) :
    Host.Outcome State Fault Refusal :=
  vecA h 32 false [] d a (fun _ x _ i => fpToInt .rz (laneU 32 x i)) s

/-- CVT_S2_WZ (R209): Converts unsigned words to FP32. -/
def execCvtS2Wz (h : Hdr) (d : BitVec 6) (a : BitVec 6) (s : State) :
    Host.Outcome State Fault Refusal :=
  vecA h 32 false [] d a (fun f x _ i => fpOfInt f.rounding (laneU 32 x i : Int)) s

end Sys2Proof.Machine
end

