-- ==== Sys2Proof/Machine/Lnch.lean ====
section
/-! DEFINITION. LNCH words, and what the launch engine does for their commands (R131). -/

namespace Sys2Proof.Machine

/-! ### The words -/

/-- An LNCH word: alignment, the translation of its one page as the access asks, no replicated counter (R100, R131). -/
def lnchWord (n align : Nat) (write counter : Bool) (va : Word) (k : List (Nat × Leaf) → State → Fibre → WordOut) (s : State)
    (f : Fibre) : WordOut :=
  if f.inTask then taskFault s f 2
  else if va.toNat % align ≠ 0 then trapOwn s f 0x03 va
  else
    withPages 4 (pagesOf va.toNat n) write (fun leaves s f =>
      let replicated := leaves.any fun p => isRepl p.2
      if counter && replicated then trapOwn s f 0x04 va else k leaves s f) s f

/-- A command of the launch engine. -/
def lnchCmd (form : Nat) (regs : List Word) (sc : BitVec 3) (o : BitVec 2) (leaves : List (Nat × Leaf)) (s : State)
    (f : Fibre) : WordOut :=
  if s.presentWaits f (o.toNat % 2 == 1) then .stall
  else
    commitPoint (presentCmd ⟨4, form, regs, sc.toNat, o.toNat, none, .global (nth 0 regs 0).toNat, .none, leaves,
      leaves.any (fun p => isPeer p.2), none⟩) s f

/-- LAUNCH (R131): Copies a launch descriptor into a device queue. -/
def execLaunch (h : Gd) (sc : BitVec 3) (o : BitVec 2) (a : BitVec 6) (s : State) : Host.Outcome State Fault Refusal :=
  runWord true h.pg h.pn false (fun s f =>
    withOpds [⟨2, a, .src⟩] (scopeBad sc) (fun s f =>
      lnchWord 256 256 false false (f.src a) (fun l s f => lnchCmd 0 [f.src a] sc o l s f) s f) s f) s

/-- EVSIG (R131): Adds a value to an event counter. -/
def execEvsig (h : Gd) (sc : BitVec 3) (o : BitVec 2) (a : BitVec 6) (b : BitVec 6) (s : State) :
    Host.Outcome State Fault Refusal :=
  runWord true h.pg h.pn false (fun s f =>
    withOpds [⟨2, a, .src⟩, ⟨3, b, .src⟩] (scopeBad sc) (fun s f =>
      lnchWord 8 8 true true (f.src a) (fun l s f => lnchCmd 1 [f.src a, f.src b] sc o l s f) s f) s f) s

/-- EVWAIT (R131): Blocks until an event counter reaches a value; counted in SEQ (R25). -/
def execEvwait (h : Gd) (sc : BitVec 3) (o : BitVec 2) (a : BitVec 6) (b : BitVec 6) (s : State) :
    Host.Outcome State Fault Refusal :=
  runWord true h.pg h.pn false (fun s f =>
    withOpds [⟨2, a, .src⟩, ⟨3, b, .src⟩] (scopeBad sc) (fun s f =>
      lnchWord 8 8 false true (f.src a) (fun _ s f =>
        if f.relHold.isSome || (decide (2 ≤ o.toNat) && s.narrowOut f.key) then .stall
        else
          commitPoint (fun s f =>
            let rel := decide (2 ≤ o.toNat)
            let s := if rel then s.writeBacks f.core sc.toNat [f.key] [] else s
            s.block { f with seq := f.seq + 1 } (.evwait (f.src a).toNat (f.src b) (o.toNat % 2 == 1)
              (if rel then some sc.toNat else none) false)) s f) s f)
      s f) s

/-! ### What the engine does (R131) -/

/-- A counter of an event or of DONE added to at its home, as a DEVICE-scope atomic (R94, R112): a peer or the host gets
a request. The GWCT is answered. -/
def State.agentAdd (s : State) (p : Place) (key : Nat) (v : Word) (latency : Nat) (why : RemoteWhy) : State × Time :=
  match p with
  | .peer i a => (s.sendRemote i false (.atomic (frameOf a).1 (frameOf a).2 8 .add v 0) why, s.ftime)
  | .host a => (s.sendRemote s.fab.id true (.atomic (frameOf a).1 (frameOf a).2 8 .add v 0) why, s.ftime)
  | _ =>
    let old := natLE (s.m.homeNewest (homeLevel p 0) p.line key p.off 8)
    s.agentWrite p (bytesLE 8 ((old + v.toNat) % 2 ^ 64)) key latency .none why

/-- LAUNCH's descriptor into the entry it has in its device queue. -/
def State.doLaunch (s : State) (c : Cmd) : State :=
  let own := (s.launch? c.issuer.launch).elim 0 (·.prio)
  let bs := s.readSpot c c.src 0 256
  let s := { s with q := { s.q with device := setNth [] s.q.device c.dq (nth [] s.q.device c.dq ++ [(c.fn, own, bs)]) } }
  let s := if s.goneIn c c.src 0 256 then s.cmdGone c else s
  s.onCmd c.uid fun c => { c with state := .done }

/-- EVSIG's addition. -/
def State.doEvsig (s : State) (c : Cmd) : State :=
  let s := match c.place? (nth 0 c.regs 0).toNat with
    | none => s
    | some (pl, leaf) =>
      if s.gone pl then s.cmdGone c
      else
        let (s, g) := s.agentAdd pl leaf.key (nth 0 c.regs 1) (s.engineLatency c) (.cmdWrite c.uid)
        s.onCmd c.uid fun c => { c with due := Nat.max c.due g }
  s.onCmd c.uid fun c => { c with state := .done }

/-- A command of the launch engine goes on. -/
def State.stepLnch (s : State) (c : Cmd) : State :=
  match c.state with
  | .accepted =>
    if c.acq && decide (s.ftime < c.acqWait) then s
    else if c.form = 1 then s.doEvsig c
    else if !c.asked then
      let far := (cutLines (nth 0 c.regs 0).toNat 256).filterMap fun p =>
        (c.place? p.1).bind fun x => if x.1.away && !(s.gone x.1) then some (p.1, p.2, x.1) else none
      let s := far.foldl (fun s x => s.askBytes x.2.2 x.2.1 (.cmdRead c.uid x.1)) s
      s.onCmd c.uid fun c => { c with asked := true }
    else if s.cmdRemote c.uid then s
    else s.doLaunch c
  | .done => if s.canSettle c then s.settle c else s
  | _ => s

/-- Phases of a command in one instant. -/
def State.runLnch (s : State) (uid : Nat) : Nat → State
  | 0 => s
  | n + 1 =>
    match s.cmd? uid with
    | some c => (s.stepLnch c).runLnch uid n
    | none => s

/-- LNCH_COMMAND_COMPLETE (R131): A LAUNCH descriptor is in its device queue or an EVSIG addition is performed. -/
def execLnchCommandComplete (cmd : Nat) (s : State) : Host.Outcome State Fault Refusal :=
  match s.cmd? cmd with
  | some c => .next (if c.engine = 4 then s.runLnch cmd 3 else s)
  | none => .next s

/-- EVWAIT_SATISFIED (R131): A waiting EVWAIT observes its counter at the value and resumes. The spec does not say what becomes
of one whose counter's page is denied, or gives a class 3 or 4 fault, while it waits: the model leaves it blocked until the page
translates again, and records the fault once (R431; log 63). -/
def execEvwaitSatisfied (k : FKey) (s : State) : Host.Outcome State Fault Refusal :=
  match s.fibre? k with
  | none => .next s
  | some f =>
    match f.status with
    | .blocked (.evwait va value acq none told) =>
      if f.saved then .next s else
      let resume := fun (s : State) (f : Fibre) => s.setFibre ({ f with acqHold := f.acqHold || acq }.wake s.ftime)
      let goneAt := match s.walk (s.fnOf f) va with
        | .ok (l, _) => s.gone (placeIn l va)
        | .error _ => false
      if goneAt then .next (resume s (f.setFlags fstRERR))
      else
        match s.agentGet (s.fnOf f) frontDie va 8 with
        | .bytes bs =>
          let s' := s.dropFar (s.linesOf (s.fnOf f) va 8)
          .next (if value.toNat ≤ natLE bs then resume s' f else s')
        | .away p => .next (s.askFar p)
        | .fault (.page a c) => .next (s.raiseFault (s.fnOf f) (a / 65536) c 3 k.launch)
        | .fault (.walk p fr w) => .next (s.askWalk p fr w)
        | .fault (.violation _ c e) =>
          .next (if told then s
            else (s.xlatRecord c e 22 noCore k.launch).setFibre { f with status := .blocked (.evwait va value acq none true) })
        | .fault (.ok _) => .next s
    | _ => .next s

end Sys2Proof.Machine
end

