-- ==== Sys2Proof/Machine/Gather.lean ====
section
/-! DEFINITION. The gather engine: GATH words, the switch path, the homes, and the merge (chapter 10, R411). -/

namespace Sys2Proof.Machine

/-! ### The word (R309 to R314) -/

/-- Fields of the SA value (R310). -/
def gList (a : Word) : Nat := bitsOf a 19 0
def gCount (a : Word) : Nat := bitsOf a 30 20
def gTd (a : Word) : Nat := bitsOf a 39 32
def gBags (a : Word) : Nat := bitsOf a 47 40
def gAtd (a : Word) : Nat := bitsOf a 55 48

/-- Fields of the SB value (R311). -/
def gData (b : Word) : Nat := bitsOf b 19 0
def gMask (b : Word) : Nat := bitsOf b 39 20
def gT (b : Word) : Bool := bitOf b 40
def gN (b : Word) : Bool := bitOf b 41
def gQry (b : Word) : Nat := bitsOf b 59 48

/-- Whether a form pools bags. -/
def pools (form : Nat) : Bool := form == 1 || form == 2

/-- R313 step 2. -/
def gBadA (form : Nat) (a : Word) : Bool :=
  bitOf a 31 || bitsOf a 63 56 != 0 || gCount a == 0 || decide (1024 < gCount a) || decide (64 ≤ gTd a) ||
  (if pools form then gBags a == 0 else gBags a != 0) ||
  (if form = 5 then gAtd a != 0xFF && decide (64 ≤ gAtd a) else gAtd a != 0)

/-- The regions of a command that are read, and written (R312): offset and length. -/
def gRegions (form rowb : Nat) (a b : Word) : List (Nat × Nat) × List (Nat × Nat) :=
  let n := gCount a
  let list := (gList a, 4 * n)
  let mask := if gMask b = 0xFFFFF then [] else [(gMask b, 8 * ((n + 63) / 64))]
  match form with
  | 0 => ([list], (gData b, n * rowb) :: mask)
  | 1 | 2 => ([list, (gList a + 4 * n, 4 * (gBags a + 1))], (gData b, gBags a * rowb) :: mask)
  | 3 | 4 => ([list, (gData b, n * rowb)], mask)
  | _ => ([list, (64 * gQry b, rowb)], (gData b, 2 * n) :: mask)

/-- Whether two ranges share a byte; an empty one shares none. -/
def regionsMeet (x y : Nat × Nat) : Bool := decide (x.2 ≠ 0) && decide (y.2 ≠ 0) && meets x.1 x.2 y.1 y.2

/-- Whether a written region overlaps another region of the command. -/
def gOverlap (rd wr : List (Nat × Nat)) : Bool :=
  (wr.any fun w => rd.any (regionsMeet w)) ||
  (match wr with
   | [x, y] => regionsMeet x y
   | _ => false)

/-- R313 step 3. With a TD that is not loaded HAMD's DATA, whose size does not depend on ROWB, can still overlap: the spec says that
only LIST, bag offsets and MASK can then; the model has the overlap raise FIELD 3 (log 74). -/
def gBadB (form rowb : Nat) (a b : Word) : Bool :=
  bitsOf b 47 42 != 0 || bitsOf b 63 60 != 0 || (form != 5 && gQry b != 0) ||
  gOverlap (gRegions form rowb a b).1 (gRegions form rowb a b).2

/-- Whether a table FORMAT suits a form (R309). -/
def gSuits (form fm : Nat) : Bool :=
  match form with
  | 0 | 3 => decide (0x40 ≤ fm) && decide (fm ≤ 0x42)
  | 1 | 2 | 4 => fm == 0x41
  | _ => fm == 0x42

/-- R313 step 4: the descriptor concerned and the REASON. -/
def gDescFault (form : Nat) (a : Word) (td atd : Option (List Byte)) : Option (Nat × Nat) :=
  let look := fun (n : Nat) (suits : Nat → Bool) (d : Option (List Byte)) =>
    match d with
    | none => some (n, 1)
    | some d => if !(isTable (descField d 9 1)) then some (n, 2) else if !(suits (descField d 9 1)) then some (n, 3) else none
  (look (gTd a) (gSuits form) td).or (if form = 5 ∧ gAtd a ≠ 0xFF then look (gAtd a) (· == 0x43) atd else none)

/-- TVAL of TENSOR_FAULT at a GATH word. -/
def gTensorTval (td reason : Nat) : Word := BitVec.ofNat 64 (td + reason * 2 ^ 8)

/-- R313 step 5. -/
def gMisaligned (a b : Word) : Option Nat :=
  if gList a % 4 ≠ 0 then some (gList a) else if gData b % 16 ≠ 0 then some (gData b)
  else if gMask b ≠ 0xFFFFF ∧ gMask b % 8 ≠ 0 then some (gMask b) else none

/-- The 32-bit values of bytes. -/
def words32 : Nat → List Byte → List Nat
  | 0, _ => []
  | n + 1, bs => natLE (bs.take 4) :: words32 n (bs.drop 4)

/-- Whether bag offsets are in order (R313 step 8). -/
def bagsOk (offs : List Nat) (count : Nat) : Bool :=
  offs.head? == some 0 && offs.getLast? == some count && (offs.zip (offs.drop 1)).all fun p => decide (p.1 ≤ p.2)

/-- The list, bag offsets and query captured (R313 step 8, R314), then the command. A table page that the list needs and that lies in a
multicast window raises ACCESS_VIOLATION (R410), with the page's address as TVAL (log 73). -/
def gCapture (form : Nat) (sc : BitVec 3) (o : BitVec 2) (a b : Word) (desc adesc : List Byte) (s : State) (f : Fibre) :
    WordOut :=
  match s.teamOf f with
  | none => .stall
  | some t =>
    let n := gCount a
    let offs := if pools form then words32 (gBags a + 1) (t.spadRead (gList a + 4 * n) (4 * (gBags a + 1))) else []
    if pools form && !(bagsOk offs n) then trapOwn s f 0x0B (gTensorTval (gTd a) 4)
    else
      let ask : GatherAsk := ⟨desc, adesc, words32 n (t.spadRead (gList a) (4 * n)), offs,
        if form = 5 then t.spadRead (64 * gQry b) (descField desc 10 2) else []⟩
      match (ask.pages form).find? fun p => (s.castWindow (s.fnOf f) (p * 65536)).isSome with
      | some p => trapOwn s f 0x04 (BitVec.ofNat 64 (p * 65536))
      | none =>
      presentCmd ⟨2, form, [a, b], sc.toNat, o.toNat, f.guardHint, .none, .spad f.key.team 0, [], false, some ask⟩ s f

/-- A GATH word: the checks of R313 in their order, then the capture. Of several regions beyond the scratchpad the spec does not say
which gives the first offending offset: the model looks at the regions read, in the order of R312, and then at those written
(log 74). -/
def gathWord (form : Nat) (h : Gd) (sc : BitVec 3) (o : BitVec 2) (a b : BitVec 6) : State → Host.Outcome State Fault Refusal :=
  runWord true h.pg h.pn false fun s f =>
    withOpds [⟨2, a, .src⟩, ⟨3, b, .src⟩] (scopeBad sc) (fun s f =>
      let x := f.src a
      let y := f.src b
      let td := (s.teamOf f).bind fun t => nth none t.tds (gTd x)
      let atd := (s.teamOf f).bind fun t => nth none t.tds (gAtd x)
      let rowb := td.elim 0 fun d => if isTable (descField d 9 1) then descField d 10 2 else 0
      let size := (s.launchOf f).elim 0 (·.spadBytes)
      if f.inTask then taskFault s f 2
      else if gBadA form x then trapField s f 0x02 2
      else if gBadB form rowb x y then trapField s f 0x02 3
      else
        match gDescFault form x td atd with
        | some (n, reason) => trapOwn s f 0x0B (gTensorTval n reason)
        | none =>
          let (rd, wr) := gRegions form rowb x y
          match gMisaligned x y, (rd ++ wr).find? fun r => decide (size < r.1 + r.2) with
          | some off, _ => trapOwn s f 0x03 (BitVec.ofNat 64 off)
          | none, some r => trapOwn s f 0x04 (BitVec.ofNat 64 (Nat.max r.1 size))
          | none, none =>
            withSpans rd 3 (withSpans wr 3 fun s f =>
              if s.presentWaits f (o.toNat % 2 == 1) then .stall
              else
                commitPoint (gCapture form sc o x y (td.getD []) (if form = 5 ∧ gAtd x ≠ 0xFF then atd.getD [] else [])) s f) s f) s f

/-! ### The split (R317 to R319, R323, R329) -/

/-- What the allow bitmap of HAMD says of a row (R308, R329); `gone` is a word with a departed peer, which fails the position as a
row of that peer would (log 68). -/
inductive Allow where
  | yes
  | no
  | fails
  | gone
  | away (p : Place)
  | walk (peer frame : Nat)
  deriving DecidableEq, Repr

/-- The allow bit in a word at a place of the bitmap. -/
def State.allowBit (s : State) (c : Cmd) (p : Place) (leaf : Leaf) (r : Nat) : Allow :=
  if s.gone p then .gone
  else if p.away && (s.fab.farLine p.line).isNone then .away p
  else if s.poisonAt p 8 c.readDie then .fails
  else if natLE (s.agentLine p 8 leaf.key c.readDie) / 2 ^ (r % 64) % 2 = 1 then .yes else .no

/-- The allow bit of a row, read by the requesting switch die under the translation that the command holds. -/
def State.allowed (s : State) (c : Cmd) (adesc : List Byte) (r : Nat) : Allow :=
  if adesc.isEmpty then .yes
  else if descField adesc 12 4 ≤ r then .no
  else
    let va := bitWord (descField adesc 0 8) r
    match c.place? va with
    | none => .fails
    | some (p, leaf) =>
      match s.admitPeer c.fn (va / 65536) false leaf with
      | .ok _ => s.allowBit c p leaf r
      | .walk q f _ => .walk q f
      | _ => .fails

/-- A group made a row of a part, with its home index. -/
def State.gRow (s : State) (c : Cmd) (a : GatherAsk) (g : Nat × List Nat) : Nat × GRow :=
  let live := if c.form = 5 ∧ descField a.desc 24 8 ≠ 0 then
      (let va := bitWord (descField a.desc 24 8) g.1
       (c.place? va).map fun x => (⟨x.1, 8, x.2, va⟩ : Piece))
    else none
  (homeOf a.desc g.1, ⟨g.1, g.2, s.piecesOf c a g.1, none, live, none⟩)

/-- Whether a row cannot be served: a failed page of the row or of its liveness word. -/
def GRow.fails (r : GRow) (c : Cmd) (a : GatherAsk) : Bool :=
  r.pieces.isNone || (c.form == 5 && descField a.desc 24 8 != 0 && r.live.isNone)

/-- Elements of one row with those of another added (R326). -/
def addBytes (x y : List Byte) : List Byte :=
  ((words32 (x.length / 4) x).zip (words32 (y.length / 4) y)).flatMap fun p => bytesLE 4 (fp32.addR .rne p.1 p.2).1

/-- The source bytes of a contribution (R317, R325, R326): the row of the highest position, or the folded sum. -/
def foldSum (rows : List (List Byte)) : List Byte :=
  match rows with
  | [] => []
  | x :: r => r.foldl addBytes x

/-- The bytes of pieces by frame and offset of their peer. -/
def partsOf : List Piece → List Byte → List (Nat × Nat × List Byte)
  | [], _ => []
  | p :: r, bs =>
    (match p.place with | .peer _ q => [((frameOf q).1, (frameOf q).2, bs.take p.n)] | _ => []) ++ partsOf r (bs.drop p.n)

/-- The scratchpad offsets of the source row of a position (R317). -/
def Cmd.sourceAt (c : Cmd) (a : GatherAsk) (p : Nat) : Nat := gData (nth 0 c.regs 1) + p * descField a.desc 10 2

/-- A contribution sent under the next number of its core and home die (R327): to a home die here it waits for its turn, to a peer it
goes over the fabric. -/
def State.giveContrib (s : State) (c : Cmd) (a : GatherAsk) (t : Team) (r : Nat × GRow) : State :=
  let (die, peer) := s.homeEntry a.desc r.1
  let rowb := descField a.desc 10 2
  let src := fun (p : Nat) => t.spadRead (c.sourceAt a p) rowb
  let add := c.form == 4
  let bytes := if add then foldSum (r.2.poss.map src) else src (maxList r.2.poss)
  let key := seqKey c.core peer die
  let seq := lookupD 0 s.gat.given key
  let uid := s.uid
  let pieces := r.2.pieces.getD []
  let x : Contrib := ⟨uid, c.uid, r.2.poss, c.core, die, seq, peer, pieces, bytes, add, false⟩
  let s := { s with uid := uid + 1, gat := { s.gat with contribs := s.gat.contribs ++ [x], given := putNat s.gat.given key ((seq + 1) % seqMod) } }
  match peer with
  | none => s
  | some q => s.sendRemote q false (.contrib c.core die seq add false (partsOf pieces bytes)) (.contrib uid)

/-- The verdict on a group: what the row's own page says comes before the allow bit (R329). -/
structure GAsked where
  row : Nat × GRow
  allow : Allow
  deriving DecidableEq, Repr

/-- The groups of a command with their rows and allow bits. -/
def State.askedOf (s : State) (c : Cmd) (a : GatherAsk) : List GAsked :=
  (c.groups a).map fun g =>
    let r := s.gRow c a g
    ⟨r, if r.2.fails c a then .fails else if c.form = 5 then s.allowed c a.adesc g.1 else .yes⟩

/-- The lines of the allow bitmap's words that a command reads. -/
def Cmd.allowLines (c : Cmd) (a : GatherAsk) : List Place :=
  if a.adesc.isEmpty then []
  else (c.groups a).filterMap fun g => (c.place? (bitWord (descField a.adesc 0 8) g.1)).map fun x => x.1.line

/-- Whether a contribution's source is poisoned: that of its highest position, or any that SCADD folds. Its positions then fail, and
nothing of its row is written (R22, R323; log 74). -/
def Team.sourceBad (t : Team) (c : Cmd) (a : GatherAsk) (r : GRow) : Bool :=
  let ps := if c.form = 4 then r.poss else [maxList r.poss]
  ps.any fun p => !(t.spadBad (c.sourceAt a p) (descField a.desc 10 2)).isEmpty

/-- A gather command split, its allow bits known (R317 to R319): failed and refused positions, a part for each home, and for SCATTER
and SCADD the contributions in ascending order of first position. Work on a departed peer, or one of an earlier incarnation, misses the
promise (R413). -/
def State.splitRows (s : State) (c : Cmd) (a : GatherAsk) (asked : List GAsked) : State :=
  let outside := ((a.list.zip (upFrom 0 a.list.length)).filter fun p => decide (descField a.desc 12 4 ≤ p.1)).map (·.2)
  let of := fun (p : GAsked → Bool) => (asked.filter p).flatMap (·.row.2.poss)
  let team := s.team? c.issuer.launch c.issuer.team
  let spoilt := fun (x : GAsked) => c.scatters && decide (x.allow = .yes) && team.elim true fun t => t.sourceBad c a x.row.2
  let good := (asked.filter fun x => decide (x.allow = .yes) && !(spoilt x)).map (·.row)
  let lost := fun (x : GAsked) => s.homeGone c (s.homeEntry a.desc x.row.1).2
  let homes := (upFrom 0 (descField a.desc 22 1)).filter fun h => good.any fun r => r.1 == h
  let parts : List GPart := if c.scatters then [] else homes.map fun h =>
    let (die, peer) := s.homeEntry a.desc h
    ⟨h, die, peer, (good.filter fun r => r.1 == h).map (·.2), 0, []⟩
  let rerr := asked.any fun x => decide (x.allow = .gone) || lost x
  let job : GJob := ⟨c.uid, parts, outside ++ of fun x => decide (x.allow = .fails) || decide (x.allow = .gone) || spoilt x,
    of fun x => decide (x.allow = .no), [], rerr⟩
  let s := { (s.dropFar (c.allowLines a)) with gat := { s.gat with jobs := s.gat.jobs ++ [job] } }
  let s := if rerr || asked.any spoilt then s.cmdMissed c else s
  if c.scatters then team.elim s fun t => good.foldl (fun s r => s.giveContrib c a t r) s else s

/-- The scratchpad of a command's team where it is to be read or written, its chunks that hold no data filled first, then `k`: an
invalidation may have emptied them since the word (R225, R251). -/
def State.onFilled (s : State) (c : Cmd) (spans : List (Nat × Nat)) (k : State → State) : State :=
  let bound := (s.team? c.issuer.launch c.issuer.team).elim [] fun t =>
    ((dedup (spans.flatMap fun x => chunksOf x.1 x.2)).filterMap t.chunk?).filter fun ch => !ch.filled
  if c.dst = .none then k s
  else if bound.any (s.chunkWaits c) then bound.foldl (fun s ch => s.askChunk c ch) s
  else k (bound.foldl (fun s ch => s.fillFor c c.issuer.team ch) s)

/-- The regions of a command that the engine reads, or writes, after its acceptance (R312, R314): the source rows, or the results. -/
def Cmd.gSpans (c : Cmd) (a : GatherAsk) (read : Bool) : List (Nat × Nat) :=
  let r := gRegions c.form (descField a.desc 10 2) (nth 0 c.regs 0) (nth 0 c.regs 1)
  if !read then r.2 else if c.scatters then r.1.drop 1 else []

/-- Whether an earlier SCATTER or SCADD of the core has still to be split: splits of a core follow acceptance order (R327), but one
whose acquire is not over holds back none that is (log 74). -/
def State.splitsAfter (s : State) (c : Cmd) : Bool :=
  c.scatters && s.cmds.any fun d =>
    d.engine == 2 && d.scatters && d.core == c.core && decide (d.state = .accepted) && decide (d.arrival < c.arrival) &&
      !(d.acq && decide (s.ftime < d.acqWait)) && !(s.gat.jobs.any fun j => j.cmd == d.uid)

/-- A gather command split: what the allow bits need of a peer is asked for first, after the command's acquire (R329). -/
def State.splitGather (s : State) (c : Cmd) (a : GatherAsk) : State :=
  let s := if c.asked then s else (s.dropFar (c.allowLines a)).onCmd c.uid fun c => { c with asked := true }
  let asked := s.askedOf c a
  let more := fun (s : State) (x : GAsked) =>
    match x.allow with
    | .away p => s.askFar p
    | .walk q f => s.askWalk q f false
    | _ => s
  if asked.any fun x => match x.allow with | .away _ | .walk .. => true | _ => false then asked.foldl more s
  else s.onFilled c (c.gSpans a true) fun s => s.splitRows c a asked

/-- The job of a gather command. -/
def State.job? (s : State) (cmd : Nat) : Option GJob := s.gat.jobs.find? fun j => j.cmd == cmd

/-- The state with a job changed. -/
def State.onJob (s : State) (cmd : Nat) (g : GJob → GJob) : State :=
  { s with gat := { s.gat with jobs := s.gat.jobs.map fun j => if j.cmd == cmd then g j else j } }

/-- GATHER_SPLIT (R317): The requesting switch die folds, translates and splits a gather command by home. -/
def execGatherSplit (cmd : Nat) (s : State) : Host.Outcome State Fault Refusal :=
  match s.cmd? cmd with
  | some c =>
    match c.gather with
    | some a =>
      if decide (c.state = .accepted) && !(c.acq && decide (s.ftime < c.acqWait)) && (s.job? cmd).isNone &&
          !(s.splitsAfter c) then .next (s.splitGather c a)
      else .next s
    | none => .next s
  | none => .next s

/-! ### At the homes (R320, R321, R329, R330) -/

/-- Bytes of pieces read at their home: from what was fetched of a peer; none where a byte is missing or poisoned. -/
def State.readPieces (s : State) (c : Cmd) (die va : Nat) : List Piece → Option (List Byte)
  | [] => some []
  | p :: r =>
    let bs := if p.place.away then (upFrom va p.n).mapM fun a => byteIn c.buf a
      else if s.m.poisoned (homeLevel p.place die) p.place p.n then none
      else some (s.agentLine p.place p.n p.leaf.key die)
    match bs, s.readPieces c die (va + p.n) r with
    | some x, some y => some (x ++ y)
    | _, _ => none

/-- The liveness of a row of HAMD (R329): none where its word cannot be read. -/
def State.rowLive (s : State) (c : Cmd) (a : GatherAsk) (die : Nat) (r : GRow) : Option Bool :=
  match r.live with
  | none => some true
  | some p => (s.readPieces c die (bitWord (descField a.desc 24 8) r.row) [p]).map fun bs => natLE bs / 2 ^ (r.row % 64) % 2 == 1

/-- Ones in bytes. -/
def popBytes (bs : List Byte) : Nat :=
  bs.foldl (fun n b => n + (upFrom 0 8).foldl (fun k i => k + b.toNat / 2 ^ i % 2) 0) 0

/-- f of R321, element by element. -/
def poolF (max : Bool) (x y : List Byte) : List Byte :=
  ((words32 (x.length / 4) x).zip (words32 (y.length / 4) y)).flatMap fun p =>
    bytesLE 4 (if max then (fp32.minMax true p.1 p.2).1 else (fp32.addR .rne p.1 p.2).1)

/-- The part of a bag pooled at one home (R321): its delivered positions in ascending order; none if there is none. -/
def poolAt (max : Bool) (rows : List GRow) (lo hi : Nat) : Option (List Byte) :=
  ((upFrom lo (hi - lo)).filterMap fun p => (rows.find? fun r => r.poss.contains p).bind (·.data)).foldl (fun acc x =>
    match acc with
    | none => some x
    | some y => some (poolF max y x)) none

/-- The pooled bags of a part. -/
def poolBags (form : Nat) (offs : List Nat) (rows : List GRow) : List (Nat × List Byte) :=
  ((offs.zip (offs.drop 1)).zip (upFrom 0 (offs.length - 1))).filterMap fun b =>
    (poolAt (form == 2) rows b.1.1 b.1.2).map fun x => (b.2, x)

/-- A row served: its bytes, unless it fails or, for HAMD, was not live when its word was read. -/
def State.serveRow (s : State) (c : Cmd) (a : GatherAsk) (die : Nat) (r : GRow) : GRow × Option Bool :=
  match r.alive with
  | none => (r, none)
  | some false => (r, some false)
  | some true =>
    match r.pieces.bind (s.readPieces c die (rowAddr a.desc r.row)) with
    | some bs => ({ r with data := some bs }, some true)
    | none => (r, none)

/-- A part served (R320): rows read, bags pooled, distances taken, positions failed or refused. -/
def State.servePart (s : State) (c : Cmd) (a : GatherAsk) (p : GPart) : State :=
  let done := p.rows.map fun r => s.serveRow c a p.die r
  let rows := done.map (·.1)
  let failed := (done.filter fun x => x.2 == none).flatMap (·.1.poss)
  let refused := (done.filter fun x => x.2 == some false).flatMap (·.1.poss)
  let dist := if c.form = 5 then rows.flatMap fun r =>
      match r.data with
      | some bs => r.poss.map fun q => (q, popBytes ((bs.zip a.query).map fun x => x.1 ^^^ x.2))
      | none => []
    else []
  let p' := { p with rows := rows, stage := 3, pooled := if pools c.form then poolBags c.form a.offs rows else [] }
  s.onJob c.uid fun j => { j with parts := j.parts.map (fun x => if x.home == p.home then p' else x), failed := j.failed ++ failed,
                                  refused := j.refused ++ refused, dist := j.dist ++ dist, rerr := j.rerr || s.homeGone c p.peer }

/-- Reads that a part needs of a peer: its liveness words first, then its rows, of HAMD those that are live (R330). -/
def GPart.asks (p : GPart) (a : GatherAsk) : List (Nat × Piece) :=
  if p.stage = 0 then p.rows.filterMap fun r => r.live.bind fun x => if x.place.away then some (x.va, x) else none
  else (p.rows.filter fun r => r.alive == some true).flatMap fun r =>
    ((cutLines (rowAddr a.desc r.row) (descField a.desc 10 2)).zip (r.pieces.getD [])).filterMap fun x =>
      if x.2.place.away then some (x.1.1, x.2) else none

/-- A part goes on: its liveness words are read before any row of it, what a peer holds is asked for, and it is served once that is
here (R330). -/
def State.stepPart (s : State) (c : Cmd) (a : GatherAsk) (p : GPart) : State :=
  if p.stage = 3 || s.cmdRemote c.uid then s
  else if p.stage = 2 then s.servePart c a p
  else
    let p := if p.stage = 1 then { p with rows := p.rows.map fun r => { r with alive := s.rowLive c a p.die r } } else p
    let s := (p.asks a).foldl (fun s x => if s.gone x.2.place then s else s.askBytes x.2.place x.2.n (.cmdRead c.uid x.1)) s
    s.onJob c.uid fun j => { j with parts := j.parts.map fun x => if x.home == p.home then { p with stage := p.stage + 1 } else x }

/-- Stages of a part in one instant. -/
def State.runPart (s : State) (c : Nat) (home : Nat) : Nat → State
  | 0 => s
  | n + 1 =>
    match s.cmd? c, (s.job? c).bind fun j => j.parts.find? fun p => p.home == home with
    | some cmd, some p =>
      match cmd.gather with
      | some a => (s.stepPart cmd a p).runPart c home n
      | none => s
    | _, _ => s

/-- MSE_PART_SERVICE (R320): A home die's memory-side engines fetch, pool or update the rows of a part. -/
def execMsePartService (cmd home : Nat) (s : State) : Host.Outcome State Fault Refusal := .next (s.runPart cmd home 3)

/-! ### Contributions (R325 to R328) -/

/-- Positions of a command failed. -/
def State.failPositions (s : State) (cmd : Nat) (ps : List Nat) : State := s.onJob cmd fun j => { j with failed := j.failed ++ ps }

/-- Pieces with the lines of one block put together, as a whole-block write takes them (R240). -/
def joinPieces : List Piece → List Piece
  | p :: q :: r =>
    if p.va % 256 = 0 ∧ p.n = 128 ∧ q.n = 128 then { p with n := 256 } :: joinPieces r else p :: joinPieces (q :: r)
  | l => l

/-- A contribution's pieces written at their home: each element added, or the bytes copied. -/
def State.applyPieces (s : State) (x : Contrib) (latency : Nat) : List Piece → List Byte → State
  | [], _ => s
  | p :: r, bs =>
    let mine := bs.take p.n
    let old := s.m.homeNewest (homeLevel p.place x.die) p.place.line p.leaf.key p.place.off p.n
    let new := if x.add then addBytes old mine else mine
    let (s, g) := s.agentWrite p.place new p.leaf.key latency .none .none [] (s.packFor p.leaf p.va p.n)
    let s := s.onCmd x.cmd fun c => { c with due := Nat.max c.due g }
    s.applyPieces x latency r (bs.drop p.n)

/-- A contribution applied in its turn, or its number skipped (R327). A poisoned row is left alone by SCADD, and its positions fail
(R323); the spec does not say whether SCATTER, which reads nothing of the row, fails there too or overwrites it: the model has it
written (log 74). -/
def State.applyContrib (s : State) (x : Contrib) (latency : Nat) : State :=
  let bad := x.pieces.any fun p => s.m.poisoned (homeLevel p.place x.die) p.place p.n
  let latency := match s.cmd? x.cmd with | some c => Nat.min latency (c.pct - s.ftime) | none => latency
  let s := if x.lost || (bad && x.add) then s.failPositions x.cmd x.poss
    else s.applyPieces x latency (if x.add then x.pieces else joinPieces x.pieces) x.bytes
  let key := seqKey x.core none x.die
  { s with gat := { s.gat with contribs := s.gat.contribs.filter (fun y => y.uid != x.uid),
                               applied := putNat s.gat.applied key ((x.seq + 1) % seqMod) } }

/-- SCADD_CONTRIBUTION_APPLY (R327): A home applies scatter contributions of one core in sequence order. -/
def execScaddContributionApply (contrib latency : Nat) (s : State) : Host.Outcome State Fault Refusal :=
  match s.gat.contribs.find? fun x => x.uid == contrib with
  | some x =>
    .next (if x.peer.isNone && lookupD 0 s.gat.applied (seqKey x.core none x.die) == x.seq then s.applyContrib x latency else s)
  | none => .next s

/-! ### The merge (R322 to R324) -/

/-- pool(j) over the homes (R321): +0.0 in every element where no position was delivered, NaN elements canonical. -/
def poolAll (form rowb : Nat) (parts : List GPart) (j : Nat) : List Byte :=
  let r := parts.foldl (fun acc p =>
    match acc, (p.pooled.find? fun x => x.1 == j).map (·.2) with
    | none, x => x
    | some a, some x => some (poolF (form == 2) a x)
    | some a, none => some a) none
  match r with
  | none => List.replicate rowb 0
  | some bs => (words32 (rowb / 4) bs).flatMap fun e =>
      bytesLE 4 (if e / 2 ^ 23 % 256 = 255 ∧ e % 2 ^ 23 ≠ 0 then 0x7FC00000 else e)

/-- DATA of a command: offset from DATA, and bytes (R322). -/
def gDataOut (c : Cmd) (a : GatherAsk) (j : GJob) : List Byte :=
  let rowb := descField a.desc 10 2
  let n := a.list.length
  let rows := j.parts.flatMap (·.rows)
  match c.form with
  | 0 => (upFrom 0 n).flatMap fun p => ((rows.find? fun r => r.poss.contains p).bind (·.data)).getD (List.replicate rowb 0)
  | 1 | 2 => (upFrom 0 (a.offs.length - 1)).flatMap fun b => poolAll c.form rowb j.parts b
  | 5 => (upFrom 0 n).flatMap fun p => bytesLE 2 ((j.dist.find? fun x => x.1 == p).elim 0xFFFF (·.2))
  | _ => []

/-- The mask's bytes (R312, R322). -/
def gMaskOut (a : GatherAsk) (j : GJob) : List Byte :=
  let n := a.list.length
  let ok := fun (p : Nat) => decide (p < n) && !(j.failed.contains p) && !(j.refused.contains p)
  (upFrom 0 (8 * ((n + 63) / 64))).map fun i =>
    BitVec.ofNat 8 ((upFrom 0 8).foldl (fun v b => if ok (8 * i + b) then v + 2 ^ b else v) 0)

/-- The results written into the issuing team's scratchpad, the mask last; nothing for a team that was lost (R331). -/
def State.mergeGather (s : State) (c : Cmd) (a : GatherAsk) (j : GJob) : State :=
  let b := nth 0 c.regs 1
  let s := match c.dst with
    | .spad team _ =>
      s.onTeam c.issuer.launch team fun t =>
        let t := t.spadWrite (gData b) (gDataOut c a j)
        if gMask b = 0xFFFFF then t else t.spadWrite (gMask b) (gMaskOut a j)
    | _ => s
  let s := if j.rerr then s.cmdRerr c else s
  s.onCmd c.uid fun c => { c with state := .done }

/-- Whether a job has nothing left to do at the homes. -/
def State.jobServed (s : State) (j : GJob) : Bool :=
  (j.parts.all fun p => p.stage == 3) && !(s.gat.contribs.any fun x => x.cmd == j.cmd) && !(s.cmdRemote j.cmd)

/-- A gather command goes on: merged once served, settled in time, GATHER_FAILED posted after it (R324). -/
def State.stepGather (s : State) (c : Cmd) : State :=
  match s.job? c.uid, c.gather with
  | some j, some a =>
    if c.state = .accepted then (if s.jobServed j then s.onFilled c (c.gSpans a false) fun s => s.mergeGather c a j else s)
    else if s.canSettle c then
      let s := (s.settle c)
      let s := { s with gat := { s.gat with jobs := s.gat.jobs.filter fun x => x.cmd != c.uid } }
      if gT (nth 0 c.regs 1) && !j.failed.isEmpty then s.post c.issuer 0x0E c.ticket else s
    else s
  | _, _ => s

/-- GATHER_MERGE (R322): Replies are merged into scratchpad with the mask and the command completes. -/
def execGatherMerge (cmd : Nat) (s : State) : Host.Outcome State Fault Refusal :=
  match s.cmd? cmd with
  | none => .next s
  | some c =>
    let s := s.stepGather c
    match s.cmd? cmd with
    | some c => .next (if c.state = .done then s.stepGather c else s)
    | none => .next s

/-! ### Inbound reservations (R411) -/

/-- Whether a packet's header is taken: joined, this domain, not older than 250,000 ticks, of the sender's current incarnation (R400,
R412, R415). -/
def State.takesHead (s : State) (h : PktHead) : Bool := s.takesPacket h.domain h.ageTicks && s.current h.src h.inc

/-- The first requests that wait, granted as far as the inbound calendar has room (R411). -/
def State.grantWaiting (s : State) : Nat → State
  | 0 => s
  | n + 1 =>
    match s.fab.inboundWaits with
    | [] => s
    | (peer, bytes) :: rest =>
      let share := bitsOf s.fab.cfg 39 32 * 65536
      match if share = 0 then ([], 0) else placeIn' (fun g => share - lookupD 0 s.fab.inbound g) (s.granulesFrom s.ftime) bytes with
      | (adds, 0) =>
        let kept := s.fab.inbound.filter fun p => decide (s.ftime / Config.granule ≤ p.1)
        let inbound := adds.foldl (fun u a => putNat u a.1 (lookupD 0 u a.1 + a.2)) kept
        ({ s with fab := { s.fab with inbound := inbound, inboundWaits := rest } }.sendPeer peer (.grant peer adds)).grantWaiting n
      | _ => s

/-- GATHER_GRANT_REQUEST (R411): A target package grants inbound gather calendar granules in arrival order; a request that finds no
room waits. -/
def execGatherGrantRequest (head : PktHead) (bytes : Nat) (s : State) : Host.Outcome State Fault Refusal :=
  if !(s.takesHead head) then .next s
  else
    .next ({ s with fab := { s.fab with inboundWaits := s.fab.inboundWaits ++ [(head.src, bytes)] } }.grantWaiting
      (s.fab.inboundWaits.length + 1))

/-- GATHER_GRANT (R411): A grant reaches the requesting switch die, letting acceptance proceed. -/
def execGatherGrant (cmd : Nat) (head : PktHead) (granules : List (Nat × Nat)) (s : State) : Host.Outcome State Fault Refusal :=
  match s.cmd? cmd with
  | some c =>
    if s.takesHead head && c.engine == 2 && c.queued && (s.peersCharged c).contains head.src &&
        !(c.grants.any fun g => g.1 == head.src) then
      .next (s.onCmd cmd fun c => { c with grants := c.grants ++ [(head.src, granules)] }).pump
    else .next s
  | none => .next s

/-- GATHER (R322): Presents a gather of table rows into scratchpad. -/
def execGather (h : Gd) (sc : BitVec 3) (o : BitVec 2) (a : BitVec 6) (b : BitVec 6) (s : State) :
    Host.Outcome State Fault Refusal :=
  gathWord 0 h sc o a b s

/-- GSUM (R321): Presents a gather with bag sums. -/
def execGsum (h : Gd) (sc : BitVec 3) (o : BitVec 2) (a : BitVec 6) (b : BitVec 6) (s : State) :
    Host.Outcome State Fault Refusal :=
  gathWord 1 h sc o a b s

/-- GMAX (R321): Presents a gather with bag maxima. -/
def execGmax (h : Gd) (sc : BitVec 3) (o : BitVec 2) (a : BitVec 6) (b : BitVec 6) (s : State) :
    Host.Outcome State Fault Refusal :=
  gathWord 2 h sc o a b s

/-- SCATTER (R325): Presents a write of rows to a table. -/
def execScatter (h : Gd) (sc : BitVec 3) (o : BitVec 2) (a : BitVec 6) (b : BitVec 6) (s : State) :
    Host.Outcome State Fault Refusal :=
  gathWord 3 h sc o a b s

/-- SCADD (R326): Presents an addition of rows to a table. -/
def execScadd (h : Gd) (sc : BitVec 3) (o : BitVec 2) (a : BitVec 6) (b : BitVec 6) (s : State) :
    Host.Outcome State Fault Refusal :=
  gathWord 4 h sc o a b s

/-- HAMD (R329): Presents Hamming distances of rows to a query. -/
def execHamd (h : Gd) (sc : BitVec 3) (o : BitVec 2) (a : BitVec 6) (b : BitVec 6) (s : State) :
    Host.Outcome State Fault Refusal :=
  gathWord 5 h sc o a b s

end Sys2Proof.Machine
end

