-- ==== Sys2Proof/Machine/Pipe.lean ====
section
/-! DEFINITION. The memory pipe's own moves: fills, merges, arrivals of writes, GWCTs, atomics, the sequencer of
replicated pages, remote scratchpad accesses, chunk fills (R76 to R81, R94 to R101, R223 to R225, R228 to R232). -/

namespace Sys2Proof.Machine

/-- A GWCT folded into a fibre's GWMAX (R83), or into what an ended fibre still holds (R264). -/
def State.foldGwct (s : State) (k : FKey) (g : Time) : State :=
  let s := s.onFibre k fun f => { f with gwmax := Nat.max f.gwmax g }
  s.onMem fun m => { m with held := m.held.map fun h => if h.fibre = k then { h with gwmax := Nat.max h.gwmax g } else h }

/-- The GWCT of a write or atomic with a number: in its fibre's GWMAX, and in the VT of the pushes that the fibre issued after
it (R379). -/
def State.foldWrite (s : State) (k : FKey) (ord : Nat) (g : Time) : State :=
  let s := s.foldGwct k g
  { s with cairn := { s.cairn with pushes := s.cairn.pushes.map fun p =>
    if p.issuer = k ∧ ord < p.uid then { p with vt := Nat.max p.vt g } else p } }

/-- The longest write latency of a level, by which a release of an engine command can be promised (R77, R104; log 4). -/
def maxLatency : Nat := 10000

/-! ### Order on the way to a level -/

/-- Whether a write on its way touches a line: its bytes from offset 128 on are those of the next line (R232). -/
def OutWrite.touches (o : OutWrite) (line : Place) : Bool :=
  decide (o.line = line) || (decide (o.line.add 128 = line) && o.bytes.any fun b => decide (128 ≤ b.1))

/-- Whether a write of a core, or a write-back of its die's L2, is on its way to a line, with a number below a bound. -/
def MemState.outBefore (m : MemState) (core : Nat) (line : Place) (below : Nat) : Bool :=
  m.outs.any fun o => decide (o.uid < below) && o.touches line &&
    (o.core == core || decide (o.issuer = .die (dieOfCore core)))

/-- Whether an atomic of a core is on its way to a line, with a number below a bound. -/
def MemState.atomBefore (m : MemState) (core : Nat) (line : Place) (below : Nat) : Bool :=
  m.atoms.any fun a => decide (a.ord < below) && a.core == core && a.onLine line

/-- Whether a write or atomic of a core, or a write-back of its die's L2, is on its way to a line, with a number below
a bound. -/
def MemState.inFlight (m : MemState) (core : Nat) (line : Place) (below : Nat) : Bool :=
  m.outBefore core line below || m.atomBefore core line below

/-- Whether an atomic has to wait for what is on its way to its line: one at a home for what has a lower number; one in an L1 for
every write of its core and of its die's L2, and one in an L2 for every write of that L2, since the tagged bytes they carry are
in no copy meanwhile (R79, R84, R95). -/
def MemState.atomWaits (m : MemState) (a : AtomReq) (lv : Level) (line : Place) : Bool :=
  m.inFlight a.core line a.ord ||
  m.outs.any fun o => o.touches line &&
    (match lv with
     | .l1 _ => o.core == a.core || decide (o.issuer = .die (dieOfCore a.core))
     | .l2 d => decide (o.issuer = .die d)
     | _ => false)

/-! ### What the level above gives (R76, R78, R101) -/

/-- A line as the level above supplies it: bytes, the end of the lease, and the GWCT of a pending write of the core's own
that they show, or 0. -/
structure Supply where
  bytes : List Byte
  lease : Time
  gwct : Time
  deriving DecidableEq, Repr

/-- A line supplied by the home that is a die's own, or the replica of that die. -/
def State.fromHome (s : State) (core : Nat) (line : Place) (key lease : Nat) : State × Supply :=
  let lv := homeLevel line (dieOfCore core)
  let bytes := s.m.homeBytes s.ftime lv line (some core) key 0 128
  let g := seenGwct s.ftime (some core) (s.m.pendingAt lv line)
  if g = 0 then
    let e := s.m.leaseEnd s.ftime lv line lease false
    (s.onMem (·.grant lv line e false), ⟨bytes, e, 0⟩)
  else (s, ⟨bytes, s.ftime, g⟩)

/-- The copy of a line in the L2 of a die, once that holds what it fetched: bytes and lease of its copy, then the bytes
it holds DIE-tagged, then the writes at the L2 that the core sees. -/
def State.fromL2 (s : State) (core : Nat) (line : Place) (lease : Nat) (below : List Byte) (belowEnd : Time) (g : Time) :
    State × Supply :=
  let die := dieOfCore core
  let lv := Level.l2 die
  let dirty := (s.m.l2Line? die line).elim [] (·.dirty)
  let ps := s.m.pendingAt lv line
  let sn := seen s.ftime (some core) ps
  let bytes := (below.zip (upFrom 0 128)).map fun b =>
    match newest sn b.2 with
    | some x => x.1
    | none => (byteIn dirty b.2).getD b.1
  let g := Nat.max g (seenGwct s.ftime (some core) ps)
  if g = 0 then
    let e := Nat.min (s.m.leaseEnd s.ftime lv line lease false) belowEnd
    (s.onMem (·.grant lv line e false), ⟨bytes, e, 0⟩)
  else (s, ⟨bytes, s.ftime, g⟩)

/-- Room in a die's L2 for a copy of one more line (R2, R81): a full L2 evicts a copy, and one that is not full may, since
the lines of which the die is the home take part of it; the manual names no replacement order, so which copy goes is free
(log 6, log 50). DIE-tagged bytes of the evicted copy are written back to its home. -/
def State.roomL2 (s : State) (die : Nat) (line : Place) : State :=
  match s.m.l2.filter fun l => l.die == die && decide (l.line ≠ line) with
  | [] => s
  | l :: r =>
    let n := r.length + 1
    let pick := Config.freeNat s.fresh % (if Config.l2Lines ≤ n then n else 2 * n)
    match (l :: r)[pick]? with
    | some v => ({ s.takeFresh with uid := s.uid + 1 }).pushDieAs s.uid (Config.coresPerDie * die) v.line (.evictL2 die) [] []
    | none => s.takeFresh

/-- An L2 copy put in place. -/
def State.putL2 (s : State) (die : Nat) (line : Place) (snap : List Byte) (lease : Time) (key : Nat) : State :=
  let s := if (s.m.l2Line? die line).isSome then s else s.roomL2 die line
  let old := s.m.l2Line? die line
  let l : L2Line := ⟨die, line, lease, snap, old.elim [] (·.dirty), key, old.elim 0 (·.cmp)⟩
  s.onMem fun m => { m.dropL2 die line with l2 := l :: (m.dropL2 die line).l2 }

/-- The copy a die's L2 can serve now. -/
def MemState.l2Copy (m : MemState) (now : Time) (die : Nat) (line : Place) (key : Nat) : Option L2Line :=
  match m.l2Line? die line with
  | some l => if decide (now < l.lease) && l.key == key && l.snap.length == 128 then some l else none
  | none => none

/-- A line supplied to a core from below its L1: by its die's home or replica, or by its die's L2, which fetches it from
its home first; none for a line of a peer or of the host that the L2 does not hold. A core whose own write is pending at
the home is served there, and not from a copy that another core has fetched since (R78, R84). -/
def State.supply (s : State) (core : Nat) (line : Place) (key lease : Nat) : Option (State × Supply) :=
  let die := dieOfCore core
  if homedOn line die then some (s.fromHome core line key lease)
  else
    let g := seenGwct s.ftime (some core) (s.m.pendingAt .home line)
    match if g = 0 then s.m.l2Copy s.ftime die line key else none with
    | some l => some (s.fromL2 core line lease l.snap l.lease 0)
    | none =>
      if line.away then none
      else
        let bytes := s.m.homeBytes s.ftime .home line (some core) key 0 128
        if g = 0 then
          let e := s.m.leaseEnd s.ftime .home line lease false
          let s := (s.onMem (·.grant .home line e false)).putL2 die line bytes e key
          some (s.fromL2 core line lease bytes e 0)
        else some (s.fromL2 core line lease bytes s.ftime g)

/-! ### Fills (R229 to R231, R239) -/

/-- The offsets of the poisoned bytes of a line at the home that a core reads it from (R423). -/
def State.badOffs (s : State) (core : Nat) (line : Place) : List Nat :=
  let lv := homeLevel line (dieOfCore core)
  if s.m.poisoned lv line 128 then (upFrom 0 128).filter fun i => s.m.poisoned lv (line.add i) 1 else []

/-- A line installed in an L1 by a fill, its TEAM-tagged bytes kept over the fetched ones (R229); no line is filled under
policy 2 (R91, R230), or without a lease and written bytes. -/
def State.installL1 (s : State) (core : Nat) (line : Place) (policy key : Nat) (x : Supply) : State :=
  if policy = 2 then s
  else
    match s.m.l1Line? core line with
    | some l => s.putL1 { l with lease := x.lease, snap := x.bytes, key := key }
    | none => if x.lease ≤ s.ftime then s else s.putL1 ⟨core, line, x.lease, x.bytes, [], policy == 1, key, 0⟩

/-- The bytes of a core's line that its own TEAM-tagged bytes lie over. -/
def MemState.underTeam (m : MemState) (core : Nat) (line : Place) (bs : List Byte) : List Byte :=
  let dirty := (m.l1Line? core line).elim [] (·.dirty)
  (bs.zip (upFrom 0 bs.length)).map fun b => (byteIn dirty b.2).getD b.1

/-- The way of a set that makes room for a block's other line: one free of written bytes, and not the line just filled
(R239). -/
def MemState.cleanWay (m : MemState) (now : Time) (core : Nat) (line keep : Place) : Option L1Line :=
  victim now ((m.ways core line).filter fun l => l.dirty.isEmpty && decide (l.line ≠ keep))

/-- The other line of a block put into the L1 beside the one just filled, where the set has a way free of written bytes
(R239). It takes the normal insert class, whatever the class of the fill (log 52). -/
def State.putBuddy (s : State) (core : Nat) (line : Place) (key : Nat) (x : Supply) : State :=
  let b := buddy line
  if x.gwct ≠ 0 ∨ x.lease ≤ s.ftime then s
  else if (s.m.ways core b).length < 16 then s.putL1 ⟨core, b, x.lease, x.bytes, [], false, key, 0⟩
  else
    match s.m.cleanWay s.ftime core b line with
    | some v => (s.onMem (·.dropL1 core v.line)).putL1 ⟨core, b, x.lease, x.bytes, [], false, key, 0⟩
    | none => s

/-- Whether the other line of a block is wanted with a filled one: no copy is there whose lease lasts or that has written bytes, no
entry asks for it, and no write of the core is on its way to it. -/
def State.wantsBuddy (s : State) (core : Nat) (line : Place) : Bool :=
  let b := buddy line
  decide (b ≠ line) && (s.m.l1Line? core b).all (fun l => l.dirty.isEmpty && decide (l.lease ≤ s.ftime)) && !(s.m.asked core b) &&
    !(s.m.inFlight core b s.uid)

/-- The other line of a block installed with a filled one, under the same lease (R239). -/
def State.installBuddy (s : State) (core : Nat) (line : Place) (key lease : Nat) (until_ : Time) : State :=
  if s.wantsBuddy core line && (s.badOffs core (buddy line)).isEmpty then
    match s.supply core (buddy line) key lease with
    | some (s', x) =>
      if x.gwct = 0 then s'.putBuddy core line key { x with lease := Nat.min x.lease until_ } else s
    | none => s
  else s

/-- The prediction kept with the translations of a page after a fill of a block of it: the sectors of that block (R239). -/
def State.predict (s : State) (core : Nat) (line : Place) : State :=
  let page := fun (p : Place) => p.addr / 65536
  let sectors := match line with
    | .dram _ | .repl _ =>
      match lookupD 0 s.m.blockMeta (backing (homeLevel line (dieOfCore core)) line / 256) with
      | 0 => 8
      | k => k
    | _ => 8
  let upd := fun (t : TlbEnt) =>
    if decide (t.holder = .core core) && decide (t.leaf.base = (line.sub (line.addr % 65536))) && page t.leaf.base == page line
    then { t with g := sectors } else t
  { s with x := { s.x with tlb := s.x.tlb.map upd } }

/-- Parts of loads that wait for an entry get their bytes; loads that have all of theirs perform. -/
def State.serveLoads (s : State) (entry : Nat) (bytes : List Byte) (gwct : Time) (rerr : Bool) : State :=
  let mine := fun (l : LoadReq) => l.parts.any fun p => p.entry == some entry && p.got.isNone
  let part := fun (p : LoadPart) =>
    if p.entry == some entry && p.got.isNone then { p with got := some ((bytes.drop p.place.off).take p.n) } else p
  let give := fun (l : LoadReq) => { l with rerr := l.rerr || rerr, parts := l.parts.map part }
  let served := (s.m.loads.filter mine).map give
  let s := s.onMem fun m => { m with loads := (m.loads.map fun l => if mine l then give l else l).filter fun l => !l.done }
  let s := if gwct = 0 then s else served.foldl (fun s l => s.foldGwct l.fibre gwct) s
  let s := if rerr then served.foldl (fun s l => s.remoteError l.fibre l.va) s else s
  (served.filter (·.done)).foldl (fun s l => s.finishLoad l) s

/-- The fibres whose loads of an entry read a poisoned byte of its line (R423). -/
def State.poisonedBy (s : State) (e : Mshr) (bad : List Nat) : List FKey :=
  dedup ((s.m.loads.filter fun l => l.parts.any fun p =>
    p.entry == some e.uid && p.got.isNone && bad.any fun i => decide (p.place.off ≤ i) && decide (i < p.place.off + p.n)).map (·.fibre))

/-- A fill completed with what the level above supplies, of which the bytes at some offsets are poisoned: a line with poison is
delivered and not installed (R423). The loads also see the TEAM atomics of their core whose GWCT has not passed (R78, R94). -/
def State.fill (s : State) (e : Mshr) (lease : Nat) (x : Supply) (bad : List Nat) : State :=
  let victims := s.poisonedBy e bad
  let s := s.onMem fun m => { m with mshrs := m.mshrs.filter fun y => y.uid != e.uid }
  let bytes := s.m.underTeam e.core e.line x.bytes
  let s := s.predict e.core e.line
  let keep := decide (x.gwct = 0) && bad.isEmpty
  let s := if keep then s.installL1 e.core e.line e.policy e.key x else s
  let s := if keep && e.policy != 2 && decide (s.ftime < x.lease) then s.installBuddy e.core e.line e.key lease x.lease else s
  let g := Nat.max x.gwct (s.m.latestPending s.ftime (.l1 e.core) e.line)
  victims.foldl (fun s k => s.consumePoison k) (s.serveLoads e.uid bytes g false)

/-- A fill of a line of a departed peer, or of host memory behind a lost link: 0xFF bytes (R413). -/
def State.fillGone (s : State) (e : Mshr) : State :=
  let s := s.onMem fun m => { m with mshrs := m.mshrs.filter fun y => y.uid != e.uid }
  s.serveLoads e.uid (s.m.underTeam e.core e.line (List.replicate 128 0xFF)) (s.m.latestPending s.ftime (.l1 e.core) e.line) true

/-- The line of an entry asked for at a peer, with its whole block where the other line is wanted too (R239), or over the
host link. -/
def State.askFill (s : State) (e : Mshr) : State :=
  match e.line with
  | .peer i p =>
    if e.policy ≠ 2 && s.wantsBuddy e.core e.line then s.askBytes (.peer i (p / 256 * 256)) 256 (.fill e.uid)
    else s.askBytes e.line 128 (.fill e.uid)
  | _ => s.askBytes e.line 128 (.fill e.uid)

/-- Whether an older entry of the same core and line is not filled: entries of a line are filled in the order in which they were
allocated, so that no load is served before an earlier one of its fibre (R84). -/
def MemState.olderEntry (m : MemState) (e : Mshr) : Bool :=
  m.mshrs.any fun x => x.core == e.core && decide (x.line = e.line) && decide (x.uid < e.uid)

/-- L1_FILL (R76): A miss-status entry is filled under a lease and its loads perform; a line elsewhere is asked for
first (R101, R403). -/
def execL1Fill (entry lease : Nat) (s : State) : Host.Outcome State Fault Refusal :=
  match s.m.mshrs.find? fun e => e.uid == entry with
  | none => .next s
  | some e =>
    if s.m.inFlight e.core e.line s.uid || e.remoteReq.isSome || s.m.olderEntry e then .next s
    else if s.gone e.line then .next (s.fillGone e)
    else
      let bad := s.badOffs e.core e.line
      match s.supply e.core e.line e.key lease with
      | some (s, x) => .next (s.fill e lease x bad)
      | none =>
        let s' := s.askFill e
        .next (s'.onMem fun m => { m with mshrs := m.mshrs.map fun y => if y.uid == entry then { y with remoteReq := some s.uid } else y })

/-! ### Merging (R232) -/

/-- Whether a write may join another in the window. -/
def OutWrite.joins (w o : OutWrite) : Bool :=
  decide (w.line = o.line) && decide (w.level = o.level) && w.scope == o.scope && w.policy == o.policy && w.key == o.key &&
    w.cmp == o.cmp && !w.release && !o.release && !(w.bytes.any fun b => o.bytes.any fun c => c.1 == b.1) &&
    !(w.fibres.any o.fibres.contains)

/-- What a merged write is for: a horizon that one of the two has to raise is raised. -/
def WriteKind.join : WriteKind → WriteKind → WriteKind
  | .store, k => k
  | .fenceWb, .store => .fenceWb
  | .fenceWb, k => k
  | k, _ => k

/-- Two writes of the window as one. -/
def OutWrite.join (o w : OutWrite) : OutWrite :=
  { o with bytes := o.bytes ++ w.bytes, kind := o.kind.join w.kind, fibres := o.fibres ++ w.fibres,
           cmds := dedup (o.cmds ++ w.cmds), vas := o.vas ++ w.vas, pushOn := o.pushOn.orElse fun _ => w.pushOn,
           backFor := dedup (o.backFor ++ w.backFor), backCmds := dedup (o.backCmds ++ w.backCmds) }

/-- Whether two writes have a byte in common; of the second the offsets may count from the line before. -/
def OutWrite.overlaps (w x : OutWrite) : Bool :=
  let base := if x.line = w.line then 0 else 128
  w.bytes.any fun b => x.bytes.any fun c => b.1 + base == c.1

/-- Whether one of two writes may not pass the other: they have a byte in common, or one fibre has issued both (R233). -/
def OutWrite.keeps (w x : OutWrite) : Bool := w.overlaps x || w.fibres.any x.fibres.contains

/-- Whether anything of the core or of its die's L2 stands between two writes of a line that the later one may not pass: an atomic to
the line, or a write (R233). -/
def between (atoms : List AtomReq) (rest : List OutWrite) (o w : OutWrite) : Bool :=
  (atoms.any fun a => decide (o.uid < a.ord) && decide (a.ord < w.uid) && a.core == w.core && a.onLine w.line) ||
  (rest.any fun x => decide (o.uid < x.uid) && decide (x.uid < w.uid) && x.touches w.line &&
    (x.core == w.core || decide (x.issuer = .die (dieOfCore w.core))) && w.keeps x)

/-- The writes of a window merged, the first first: each joins an earlier one that it may join with nothing between that it may not
pass. -/
def mergeOuts (atoms : List AtomReq) (rest : List OutWrite) : List OutWrite → List OutWrite → List OutWrite
  | acc, [] => acc
  | acc, w :: r =>
    match acc.find? fun o => w.joins o && !(between atoms (rest ++ acc) o w) with
    | some o => mergeOuts atoms rest (acc.map fun x => if x.uid = o.uid then o.join w else x) r
    | none => mergeOuts atoms rest (acc ++ [w]) r

/-- Whether a write covers its line. -/
def OutWrite.whole (o : OutWrite) : Bool := (upFrom 0 128).all fun i => o.bytes.any fun b => b.1 == i

/-- Whether two writes are of one shape, so that they can be one whole-block write. -/
def OutWrite.pairs (o w : OutWrite) : Bool :=
  decide (w.line = buddy o.line) && decide (w.line ≠ o.line) && decide (w.level = o.level) && w.scope == o.scope &&
    w.policy == o.policy && w.key == o.key && w.cmp == o.cmp && w.whole && o.whole && !o.release && !w.release

/-- The whole-block write of two whole writes of the lines of a block (R232, R240), the lower line's first. -/
def OutWrite.block (o w : OutWrite) : OutWrite :=
  let (lo, hi) := if o.line.addr / 128 % 2 = 0 then (o, w) else (w, o)
  { lo.join { hi with bytes := hi.bytes.map fun b => (b.1 + 128, b.2) } with uid := Nat.min o.uid w.uid }

/-- WRITE_MERGE_WINDOW (R232): The coalescer's 8-clock window closes and its writes are sent merged: the window of the line
whose write came first, with the whole other line of its block where that was formed in the same window. -/
def execWriteMergeWindow (core : Nat) (s : State) : Host.Outcome State Fault Refusal :=
  match s.m.outs.find? fun o => o.core == core && o.open_ with
  | none => .next s
  | some first =>
    if s.ftime ≤ first.born + 8 then .next s
    else
      let of := fun (line : Place) (o : OutWrite) =>
        o.core == core && o.open_ && decide (o.line = line) && decide (o.born ≤ first.born + 8)
      let closed := fun (line : Place) => (s.m.outs.filter (of line)).map fun o => { o with open_ := false }
      let others := fun (line : Place) => s.m.outs.filter fun o => !(of line o)
      let mine := mergeOuts s.m.atoms (others first.line) [] (closed first.line)
      let its := mergeOuts s.m.atoms (others (buddy first.line)) [] (closed (buddy first.line))
      let rest := others first.line
      let alone := fun (line : Place) => !(rest.any fun o => o.core == core && o.touches line && !(of (buddy first.line) o)) &&
        !(s.m.atomBefore core line s.uid)
      let outs := match mine, its with
        | [o], [w] =>
          if o.pairs w && alone first.line && alone (buddy first.line) then
            rest.filter (fun o => !(of (buddy first.line) o)) ++ [o.block w]
          else rest ++ mine
        | _, _ => rest ++ mine
      .next (s.onMem fun m => { m with outs := outs })

/-! ### Arrivals of writes (R77, R79, R81, R99) -/

/-- A horizon raised by a write-back: of an eviction that of its L1 or L2 (R81), of a fence, an acquire or CLWB the
model's own (log 14). -/
def State.raiseHorizon (s : State) (o : OutWrite) (g : Time) : State :=
  let up := fun (l : List (Nat × Time)) (i : Nat) => putNat l i (Nat.max (lookupD 0 l i) g)
  match o.kind with
  | .store => s
  | .evictL1 c => s.onMem fun m => { m with wbL1 := up m.wbL1 c }
  | .evictL2 d => s.onMem fun m => { m with wbL2 := up m.wbL2 d }
  | .fenceWb =>
    match o.issuer with
    | .core c => s.onMem fun m => { m with fenceL1 := up m.fenceL1 c }
    | .die d => s.onMem fun m => { m with fenceL2 := up m.fenceL2 d }
    | .none => s

/-- The GWCT of a write given to those it is for: its fibres, commands that wait for it, a write-back horizon. -/
def State.giveGwct (s : State) (o : OutWrite) (g : Time) : State :=
  let s := o.fibres.foldl (fun s k => s.foldWrite k o.uid g) s
  let s := o.cmds.foldl (fun s c => s.onCmd c fun c => { c with acqWait := Nat.max c.acqWait g }) s
  s.raiseHorizon o g

/-- A write no longer on its way. -/
def State.dropOut (s : State) (uid : Nat) : State := s.onMem fun m => { m with outs := m.outs.filter fun o => o.uid != uid }

/-- The two halves of a write by line: a whole-block write has both (R232). -/
def OutWrite.halves (o : OutWrite) : List (Place × List (Nat × Byte)) := lineHalves o.line o.bytes

/-- The metadata of a block that a write covers whole (R240): a free number of sectors where its page compresses. -/
def OutWrite.pack (o : OutWrite) (fresh : Nat) : Nat :=
  if o.cmp = 1 && decide (256 ≤ o.bytes.length) then Config.freeNat fresh % 8 else 0

/-- A write pending at its level under one GWCT; `full` is that of the whole write where it has more parts (R99). -/
def State.land (s : State) (o : OutWrite) (lv : Level) (g : Time) (full : Time := 0) : State :=
  o.halves.foldl (fun s h => s.onMem fun m => m.arrive o.uid lv h.1 h.2 g o.issuer o.key [] (o.pack s.fresh) full o.cmp) s

/-- The runs of consecutive offsets in a write, for requests over the fabric. -/
def byteRuns : List (Nat × Byte) → List (Nat × List Byte)
  | [] => []
  | (o, b) :: r =>
    match byteRuns r with
    | (o', bs) :: t => if o' = o + 1 then (o, b :: bs) :: t else (o, [b]) :: (o', bs) :: t
    | [] => [(o, [b])]

/-- The bytes of a write in order of offset, each once, the newest value. -/
def OutWrite.sorted (o : OutWrite) : List (Nat × Byte) :=
  (upFrom 0 256).filterMap fun i => (byteIn o.bytes i).map fun b => (i, b)

/-- A write that a departed peer completes: its GWCT is now, and its stores set RERR (R101, R413, R414). -/
def State.outGone (s : State) (o : OutWrite) : State :=
  let s := (s.dropOut o.uid).giveGwct o s.ftime
  let s := o.fibres.foldl (fun s k => s.onFibre k fun f => f.setFlags fstRERR) s
  o.vas.foldl (fun s v => s.remoteError v.1 v.2) s

/-- Whether a write may arrive: it has left the coalescer, and nothing of its core to its line is before it. It does not wait for
an atomic in the L1 or L2, which waits for it. -/
def State.mayArrive (s : State) (o : OutWrite) : Bool :=
  !o.open_ && o.halves.all fun h => !(s.m.outBefore o.core h.1 o.uid) &&
    !(s.m.atoms.any fun a => !a.narrow && decide (a.ord < o.uid) && a.core == o.core && a.onLine h.1)

/-- Whether a write has been sent to a peer or over the host link. -/
def State.sentOut (s : State) (uid : Nat) : Bool := s.fab.remote.any fun r => decide (r.why = .write uid)

/-- Whether an earlier write of a core to host memory has not left: the posted writes of a core leave in order (R403). -/
def State.hostBefore (s : State) (o : OutWrite) : Bool :=
  match o.line with
  | .host _ => s.m.outs.any fun x => x.core == o.core && decide (x.uid < o.uid) &&
      (match x.line with | .host _ => true | _ => false) && !(s.sentOut x.uid)
  | _ => false

/-- What follows the arrival of a write at a die's L2 that its line is to leave at once: the tagged bytes go on to the home
in the place of that write (R79, R87). -/
def State.pushOn (s : State) (o : OutWrite) : State :=
  match o.pushOn with
  | some kind => s.pushDieAs o.uid o.core o.line kind o.backFor o.backCmds
  | none => s

/-- Another write-back of the same L2 on its way that makes one whole-block write with a given one (R240). -/
def State.blockMate (s : State) (o : OutWrite) : Option OutWrite :=
  match o.issuer with
  | .die _ => s.m.outs.find? fun w => decide (w.issuer = o.issuer) && o.pairs w && s.mayArrive w
  | _ => none

/-- WRITE_ARRIVAL (R77): A write reaches its level and receives its GWCT; one to a peer or to host memory is sent there. -/
def execWriteArrival (wr latency : Nat) (s : State) : Host.Outcome State Fault Refusal :=
  match s.m.outs.find? fun o => o.uid == wr with
  | none => .next s
  | some o =>
    if !(s.mayArrive o) || s.sentOut wr || s.hostBefore o then .next s
    else
      let lat := Nat.min latency maxLatency
      match o.level, o.line with
      | .home, .repl _ => .next s
      | .home, .dram _ =>
        let mate := s.blockMate o
        let whole := mate.elim o o.block
        let g := maxList (whole.halves.map fun h => s.m.gwctFor s.ftime .home h.1 lat)
        let s := (s.land whole .home g).dropOut wr
        .next ((mate.elim s fun w => s.dropOut w.uid).giveGwct whole g)
      | .home, line =>
        if s.gone line then .next (s.outGone o)
        else .next ((byteRuns o.sorted).foldl (fun s r => s.askStore (line.add r.1) r.2 (.write wr) [] (o.pack s.fresh)) s)
      | lv, _ =>
        let g := maxList (o.halves.map fun h => s.m.gwctFor s.ftime lv h.1 lat)
        .next ((((s.land o lv g).dropOut wr).giveGwct o g).pushOn o)

/-- REPLICATED_WRITE_SEQUENCE (R99): The sequencer stamps and multicasts a write to the four replicas. -/
def execReplicatedWriteSequence (wr latency : Nat) (s : State) : Host.Outcome State Fault Refusal :=
  match s.m.outs.find? fun o => o.uid == wr with
  | none => .next s
  | some o =>
    match o.level, o.line with
    | .home, .repl _ =>
      if !(s.mayArrive o) then .next s
      else
        let lat := Nat.min latency maxLatency
        let at_ := fun (d : Nat) => maxList (o.halves.map fun h => s.m.replGwct s.ftime d h.1 lat)
        let gs := (upFrom 0 4).map fun d => (d, at_ d)
        let full := maxList (gs.map (·.2))
        let s := gs.foldl (fun s (x : Nat × Nat) => s.land o (.replica x.1) x.2 full) s
        let s := s.onMem fun m => { m with stamp := m.stamp + 1 }
        .next ((s.dropOut wr).giveGwct o full)
    | _, _ => .next s

/-! ### GWCTs pass (R77) -/

/-- The sectors of a block with reserved metadata that a write does not cover, which read as poisoned from then on (R238). -/
def MemState.reserved (m : MemState) (block : Nat) (bs : List (Nat × Byte)) : List Nat :=
  if 8 ≤ lookupD 0 m.blockMeta block then (upFrom (block * 8) 8).filter fun x => !(coversSector bs x) else []

/-- A pending write made the value of memory, with the metadata and poison of its block (R238, R240, R423). -/
def MemState.settle (m : MemState) (p : Pending) : MemState :=
  let base := backing p.level p.line
  let bs := p.bytes.map fun b => (base + b.1, b.2)
  let bad := dedup ((p.bad.map fun o => (base + o) / 32) ++ m.reserved (base / 256) bs)
  let m := m.store p.key bs
  let meta_ := m.blockMeta.filter fun x => x.1 != base / 256
  { m with poison := m.poison ++ bad.filter (fun x => !(m.poison.contains x)),
           blockMeta := if p.pack = 0 then meta_ else (base / 256, p.pack) :: meta_ }

/-- The bytes of a pending write made those of its level: memory at a home or replica, the DIE-tagged bytes of an L2. What is
noted of a write at a peer's home, or of an atomic in an L1, ends. -/
def State.settlePending (s : State) (p : Pending) : State :=
  match p.level with
  | .l2 d =>
    let s := if (s.m.l2Line? d p.line).isSome then s else s.roomL2 d p.line
    let old := s.m.l2Line? d p.line
    let dirty := overlay p.bytes.reverse (old.elim [] (·.dirty))
    let l : L2Line := match old with
      | some l => { l with dirty := dirty, cmp := p.cmp }
      | none => ⟨d, p.line, 0, [], dirty, p.key, p.cmp⟩
    s.onMem fun m => { m.dropL2 d p.line with l2 := l :: (m.dropL2 d p.line).l2 }
  | .l1 _ => s
  | _ => if p.line.away then s else s.onMem fun m => m.settle p

/-- GWCT_PASSED (R77): A pending write becomes its line's value at its level, in the order in which they arrived. -/
def execGwctPassed (pend : Nat) (s : State) : Host.Outcome State Fault Refusal :=
  let ready := s.m.pend.filter fun p => p.uid == pend && decide (p.full ≤ s.ftime) &&
    ((s.m.pendingAt p.level p.line).head?.elim false fun q => q.uid == p.uid)
  let s' := ready.foldl (fun s p => s.settlePending p) s
  .next (s'.onMem fun m => { m with pend := m.pend.filter fun p => !(ready.contains p) })

/-! ### Atomics (R94, R95, R259) -/

/-- D of an atomic and what else follows it: the result, or the end of a fibre whose counter it was (R105, R179). -/
def State.atomDone (s : State) (a : AtomReq) (old : Word) (g : Time) (rerr : Bool) : State :=
  let s := s.onMem fun m => { m with atoms := m.atoms.filter fun x => x.uid != a.uid }
  let s := s.foldWrite a.fibre a.uid g
  let flags := if rerr then fstRERR else 0
  let s := if rerr then s.remoteError a.fibre a.va else s
  match a.dst with
  | some d => s.onMem fun m => { m with results := m.results ++ [⟨a.uid, a.fibre, [(d, old)], flags⟩] }
  | none =>
    let s := s.onFibre a.fibre fun f => f.setFlags flags
    match s.fibre? a.fibre with
    | some f => if f.status = .blocked .counting then (s.retireFibre f).afterEnd f.key else s
    | none => s

/-- The new value of an atomic whose old value is known. -/
def AtomReq.new (a : AtomReq) (old : Nat) : Nat := atomNew a.op a.width old (cutTo a.width a.operand) (cutTo a.width a.compare)

/-- An atomic at a home or an L2, whose old value is known: its write arrives there, or it takes the latest pending GWCT
of the line (R77, R259). -/
def State.atomAtLevel (s : State) (a : AtomReq) (lv : Level) (p : Place) (old latency : Nat) : State :=
  let new := a.new old
  let d := atomOld a.width a.signed old
  if new = old then s.atomDone a d (s.m.latestPending s.ftime lv p.line) false
  else
    let g := s.m.gwctFor s.ftime lv p.line latency
    let s := s.onMem fun m => m.arrive a.uid lv p.line (withAddr p.off (bytesLE a.width new)) g (.core a.core) a.key
    s.atomDone a d g false

/-- The CMP of the translation that a core holds of a place, or 0. -/
def State.cmpOf (s : State) (core : Nat) (p : Place) : Nat :=
  (s.x.tlb.find? fun t => decide (t.holder = .core core) && decide (t.leaf.base = p.sub (p.addr % 65536))).elim 0 (·.leaf.cmp)

/-- An atomic in an L1 that has the line's bytes under its own: the line becomes TEAM-tagged and the write has a GWCT at
that L1, which loads of the line fold; one that writes nothing takes the latest such GWCT (R77, R78, R94, R259). -/
def State.atomInL1 (s : State) (a : AtomReq) (p : Place) (old latency : Nat) : State :=
  let new := a.new old
  let d := atomOld a.width a.signed old
  let lv := Level.l1 a.core
  if new = old then s.atomDone a d (s.m.latestPending s.ftime lv p.line) false
  else
    let g := s.m.gwctFor s.ftime lv p.line latency
    let s := s.storeL1 a.core p (bytesLE a.width new) 0 a.key (s.cmpOf a.core p)
    (s.onMem fun m => m.arrive a.uid lv p.line [] g (.core a.core) a.key).atomDone a d g false

/-- An atomic of TEAM scope on what the level above supplies. -/
def State.atomTeamOn (a : AtomReq) (p : Place) (latency : Nat) (x : State × Supply) : State :=
  let bytes := x.1.m.underTeam a.core p.line x.2.bytes
  let s := if x.2.gwct = 0 then x.1.installL1 a.core p.line 0 a.key x.2 else x.1.foldWrite a.fibre a.uid x.2.gwct
  s.atomInL1 a p (natLE ((bytes.drop p.off).take a.width)) latency

/-- An atomic of TEAM scope: served by the L1 line, else by what the level above supplies. -/
def State.atomTeam (s : State) (a : AtomReq) (p : Place) (latency : Nat) : Option State :=
  match (s.m.l1Line? a.core p.line).bind fun l => l.serve s.ftime p.off a.width with
  | some bs => some (s.atomInL1 a p (natLE bs) latency)
  | none => (s.supply a.core p.line a.key latency).map (State.atomTeamOn a p latency)

/-- An atomic at the L2 of a die that is not the line's home, on the newest bytes there over those it was supplied. -/
def State.atomDieOn (a : AtomReq) (die : Nat) (p : Place) (latency : Nat) (x : State × Supply) : State :=
  let s := x.1
  let newer := s.m.dieBytes die p.line
  let bytes := (x.2.bytes.zip (upFrom 0 128)).map fun b => (byteIn newer b.2).getD b.1
  let s := if x.2.gwct = 0 then s else s.foldWrite a.fibre a.uid x.2.gwct
  s.atomAtLevel a (.l2 die) p (natLE ((bytes.drop p.off).take a.width)) latency

/-- An atomic at the L2 of a die that is not the line's home: on the newest bytes there, or on what the L2 fetches. -/
def State.atomDie (s : State) (a : AtomReq) (die : Nat) (p : Place) (latency : Nat) : Option State :=
  (s.supply a.core p.line a.key latency).map (State.atomDieOn a die p latency)

/-- An atomic sent to a peer or over the host link, or for the line it needs (R94, R403). -/
def State.askAtom (s : State) (a : AtomReq) (p : Place) : State :=
  let s := s.onMem fun m => { m with atoms := m.atoms.map fun x => if x.uid == a.uid then { x with remote := true } else x }
  match a.at_, p with
  | .level .home _, .peer i q => s.sendRemote i false (.atomic (frameOf q).1 (frameOf q).2 a.width a.op a.operand a.compare) (.atomic a.uid)
  | .level .home _, .host q => s.sendRemote s.fab.id true (.atomic (frameOf q).1 (frameOf q).2 a.width a.op a.operand a.compare) (.atomic a.uid)
  | _, _ => s.askBytes p.line 128 (.atomic a.uid)

/-- An atomic at a place executes; poison it meets loses its fibre's rope (R423). -/
def State.runAtom (s : State) (a : AtomReq) (lv : Level) (p : Place) (latency : Nat) : State :=
  if s.gone p then s.atomDone a (BitVec.allOnes 64) s.ftime true
  else if s.m.poisoned (homeLevel p (dieOfCore a.core)) p a.width then
    (s.onMem fun m => { m with atoms := m.atoms.filter fun x => x.uid != a.uid }).consumePoison a.fibre
  else
    match lv with
    | .l1 _ => (s.atomTeam a p latency).getD (s.askAtom a p)
    | .l2 d => (s.atomDie a d p latency).getD (s.askAtom a p)
    | lv =>
      if p.away then s.askAtom a p
      else s.atomAtLevel a lv p (natLE (s.m.homeNewest lv p.line a.key p.off a.width)) latency

/-- ATOMIC_EXECUTION (R94): An atomic executes at its level and returns its old value. -/
def execAtomicExecution (atom latency : Nat) (s : State) : Host.Outcome State Fault Refusal :=
  match s.m.atoms.find? fun a => a.uid == atom with
  | none => .next s
  | some a =>
    match a.at_ with
    | .spad .. => .next s
    | .level lv p =>
      if a.remote || s.m.atomWaits a lv p.line then .next s
      else .next (s.runAtom a lv p (Nat.min latency maxLatency))

/-! ### Remote scratchpad and mapped chunks (R97, R223, R225) -/

/-- Whether nothing of a fibre to a target team is before an access. -/
def MemState.spadFirst (m : MemState) (k : FKey) (launch team uid : Nat) : Bool :=
  !(m.spads.any fun x => decide (x.fibre = k) && x.launch == launch && x.team == team && decide (x.uid < uid)) &&
  !(m.atoms.any fun x => decide (x.fibre = k) && decide (x.uid < uid) &&
    (match x.at_ with | .spad l t _ => l == launch && t == team | _ => false))

/-- The blocks of 128 B that an access of a scratchpad touches. -/
def spadBlocks (off n : Nat) : List Nat := if n = 0 then [] else upFrom (off / 128) ((off + n - 1) / 128 - off / 128 + 1)

/-- A write of a rope-mate in a team's scratchpad noted with its GWCT (R223). -/
def State.noteSpad (s : State) (launch team off n : Nat) (g : Time) : State :=
  let left := s.m.spadPend.filter fun x => decide (s.ftime < x.gwct)
  s.onMem fun m => { m with spadPend := (spadBlocks off n).map (fun b => ⟨launch, team, b, g⟩) ++ left }

/-- Whether a range of a team's scratchpad has a poisoned word. -/
def State.spadPoisoned (s : State) (launch team off n : Nat) : Bool :=
  (s.team? launch team).elim false fun t => !(t.spadBad off n).isEmpty

/-- A load or store at a rope-mate's scratchpad (R223), or a load of an own word that is poisoned; one that reads poison loses the
fibre's rope (R423). -/
def State.runSpad (s : State) (a : SpadReq) : State :=
  let s := s.onMem fun m => { m with spads := m.spads.filter fun x => x.uid != a.uid }
  match a.load with
  | some l =>
    let bs := (s.team? a.launch a.team).elim (List.replicate a.n 0) fun t => t.spadRead a.off a.n
    let give := fun (x : LoadReq) => { x with parts := x.parts.map fun p => { p with got := some bs } }
    let mine := s.m.loads.filter fun x => x.uid == l
    let bad := s.spadPoisoned a.launch a.team a.off a.n
    let s := s.onMem fun m => { m with loads := m.loads.filter fun x => x.uid != l }
    if bad then s.consumePoison a.fibre else mine.foldl (fun s x => s.finishLoad (give x)) s
  | none =>
    let s := s.onTeam a.launch a.team fun t => t.spadWrite a.off a.bytes
    (s.noteSpad a.launch a.team a.off a.n (s.ftime + 4)).foldWrite a.fibre a.uid (s.ftime + 4)

/-- An atomic at a rope-mate's scratchpad; one that writes nothing takes the latest pending GWCT of its block (R259). -/
def State.runSpadAtom (s : State) (a : AtomReq) (launch team off : Nat) : State :=
  let old := (s.team? launch team).elim 0 fun t => natLE (t.spadRead off 8)
  let new := a.new old
  let d := atomOld 8 a.signed old
  if s.spadPoisoned launch team off 8 then
    (s.onMem fun m => { m with atoms := m.atoms.filter fun x => x.uid != a.uid }).consumePoison a.fibre
  else if new = old then s.atomDone a d (s.m.spadGwct s.ftime launch team off) false
  else
    let s := s.onTeam launch team fun t => t.spadWrite off (bytesLE 8 new)
    (s.noteSpad launch team off 8 (s.ftime + 4)).atomDone a d (s.ftime + 4) false

/-- REMOTE_SCRATCHPAD_ACCESS (R223): A rope-mate scratchpad access takes effect at its target. -/
def execRemoteScratchpadAccess (acc : Nat) (s : State) : Host.Outcome State Fault Refusal :=
  match s.m.spads.find? fun x => x.uid == acc, s.m.atoms.find? fun x => x.uid == acc with
  | some a, _ => .next (if s.m.spadFirst a.fibre a.launch a.team acc then s.runSpad a else s)
  | none, some a =>
    match a.at_ with
    | .spad l t off => .next (if s.m.spadFirst a.fibre l t acc then s.runSpadAtom a l t off else s)
    | _ => .next s
  | none, none => .next s

/-- A fill of a chunk from a departed peer: 0xFF bytes, and RERR for the fibre that touched it (R413). -/
def State.chunkGone (s : State) (t : Team) (c : Chunk) (k : FKey) : State :=
  let s := (s.fillChunk t.launch t.idx { c with leaf := none } (List.replicate 4096 0xFF) []).onFibre k fun f => f.setFlags fstRERR
  s.remoteError k c.va

/-- CHUNK_FILL_COMPLETE (R225): A first-touch fill of a mapped chunk completes. A fill from a departed peer gives 0xFF
bytes and RERR (R413); poison loses the rope of the fibre that touched the chunk (R423). -/
def execChunkFillComplete (launch team chunk : Nat) (s : State) : Host.Outcome State Fault Refusal :=
  match (s.team? launch team).bind fun t => (t.chunk? chunk).map fun c => (t, c) with
  | none => .next s
  | some (t, c) =>
    match c.fill, c.leaf with
    | some k, some leaf =>
      let die := dieOfCore t.core
      let place := placeIn leaf c.va
      if s.gone place then .next (s.chunkGone t c k)
      else
        match s.chunkBytes die leaf c.va with
        | none => .next ((chunkLines leaf c.va).foldl (fun s x => s.askFar x.2) s)
        | some bs =>
          let bad := (chunkLines leaf c.va).any fun x =>
            s.m.poisoned (homeLevel x.2 die) x.2 128 || s.fab.farBad.contains x.2.line
          let s := (s.fillChunk launch team c bs []).dropFar ((chunkLines leaf c.va).map fun x => x.2.line)
          .next (if bad then s.consumePoison k else s)
    | _, _ => .next s

end Sys2Proof.Machine
end

