-- ==== Sys2Proof/Machine/FaultSvc.lean ====
section
/-! DEFINITION. The fault service: fault requests and verdicts, invalidations, translations of peers (R248 to R254). -/

namespace Sys2Proof.Machine

/-! ### Verdicts (R248, R384) -/

/-- The host queues whose slot waits for a page of a function. -/
def State.queuesOn (s : State) (fn page : Nat) : List Nat :=
  (upFrom 0 s.q.host.length).filter fun i =>
    let q := nth HostQueue.initial s.q.host i
    bitsOf q.cfg 29 24 == fn && decide (q.wait = some page)

/-- What waits for a page of a function goes on: fibres, tasks, and what the launch engine does, which reads again where it stood; with
a denial it skips the slot of a host queue, and the launch that waits completes with its status (R70, R110, R112, R248). -/
def State.wakePage (s : State) (fn page : Nat) (deny : Bool) : State :=
  let s := (s.queuesOn fn page).foldl
    (fun s n => if deny then s.skipSlot n else s.onQueue n fun q => { q with wait := none }) s
  { s with
    fibres := s.fibres.map fun f => if f.status = .parked fn page then f.wake s.ftime else f,
    cairn := { s.cairn with wls := s.cairn.wls.map fun w => w.unpark fn page },
    launches := s.launches.map fun l =>
      match l.phase with
      | .faultWait va status checked =>
        if l.fn ≠ fn ∨ va / 65536 ≠ page then l
        else if deny then { l with phase := .complete, status := status }
        else { l with phase := if checked then .checked else .queued }
      | _ => l }

/-- A request closed with retry, or with a denial that lasts until an invalidation covers the page (R248). -/
def State.closeFault (s : State) (fn : Nat) (r : FaultReq) (deny : Bool) : State :=
  let s := s.onFn fn fun f => { f with faults := f.faults.filter (fun x => x.id != r.id),
                                       denials := if deny then r.page :: f.denials else f.denials }
  s.wakePage fn r.page deny

/-! ### Posting requests (R248, R250) -/

/-- The log of a fault ring's size. -/
def Fn.ringLog (f : Fn) : Nat := bitsOf f.fqcfg 3 0

/-- Whether a fault ring is enabled, and whether it has no room. -/
def Fn.ringOn (f : Fn) : Bool := bitOf f.fqcfg 16
def Fn.ringFull (f : Fn) : Bool := decide (2 ^ f.ringLog ≤ (f.fqtail + 2 ^ 32 - f.fqhead) % 2 ^ 32)

/-- The 32 bytes of a request. -/
def FaultReq.bytes (r : FaultReq) : List Byte :=
  bytesLE 8 (r.page * 65536) ++ bytesLE 4 r.id ++ bytesLE 1 r.cls ++ bytesLE 1 r.access ++ bytesLE 2 0 ++
    bytesLE 8 r.launch ++ bytesLE 8 r.at_

/-- A write of an agent at a virtual address of a function, part by part under translations made now. -/
def State.agentPut (s : State) (fn : Nat) : List (Nat × Nat) → List Byte → State
  | [], _ => s
  | (va, n) :: r, bs =>
    let s := match s.walk fn va with
      | .ok (leaf, _) => (s.agentWrite (placeIn leaf va) (bs.take n) leaf.key 0 .none).1
      | .error _ => s
    s.agentPut fn r (bs.drop n)

/-- A request written to its function's ring, or denied where the ring is disabled or cannot be written; with the ring
full it waits (R248). -/
def State.postFault (s : State) (fn : Nat) (r : FaultReq) : State :=
  let f := s.fn fn
  if r.posted then s
  else if !f.ringOn then s.closeFault fn r true
  else if f.ringFull then s
  else
    let va := f.fqbase.toNat / 4096 * 4096 + 32 * (f.fqtail % 2 ^ f.ringLog)
    match s.translateParts (.engine 5) fn true (cutLines va 32) with
    | .ok _ =>
      let s := s.agentPut fn (cutLines va 32) r.bytes
      let s := s.onFn fn fun f => { f with fqtail := (f.fqtail + 1) % 2 ^ 32,
                                           faults := f.faults.map fun x => if x.id == r.id then { x with posted := true } else x }
      { s with outbox := s.outbox ++ [.msix fn 0] }
    | .walk peer frame w => s.askWalk peer frame w
    | _ => (s.errorRecord 3 22 23 noCore f.fqbase.toNat (r.page * 65536)).closeFault fn r true

/-- FAULT_REQUEST (R248): The fault service posts a merged fault request or denies it. -/
def execFaultRequest (fault : Nat) (s : State) : Host.Outcome State Fault Refusal :=
  match (upFrom 0 64).findSome? fun fn => ((s.fn fn).faults.find? fun r => r.id == fault).map fun r => (fn, r) with
  | some (fn, r) => .next (s.postFault fn r)
  | none => .next s

/-! ### The registers of the translation block (R249, R250) -/

/-- A write of FRESP: the verdict of a posted request; a second answer or an unknown identifier is ignored and recorded. -/
def State.respond (s : State) (fn : Nat) (v : Word) : State :=
  let verdict := bitsOf v 33 32
  if 64 ≤ fn ∨ 2 ≤ verdict then s
  else
    match (s.fn fn).faults.find? fun r => r.posted && r.id == bitsOf v 31 0 with
    | some r => s.closeFault fn r (verdict == 1)
    | none => s.errorRecord 3 22 21 noCore 0x4028 v.toNat

/-- FRESP_RETRY (R248): Host answers a fault request with retry. -/
def execFrespRetry (fn : Nat) (v : BitVec 64) (s : State) : Host.Outcome State Fault Refusal := .next (s.respond fn v)

/-- FRESP_DENY (R248): Host answers with deny; the page's denial is cached. -/
def execFrespDeny (fn : Nat) (v : BitVec 64) (s : State) : Host.Outcome State Fault Refusal := .next (s.respond fn v)

/-- FQCFG_WRITE (R249): Writes fault ring configuration; an enabling value out of range is ignored as a whole. -/
def execFqcfgWrite (fn : Nat) (v : BitVec 64) (s : State) : Host.Outcome State Fault Refusal :=
  let lg := bitsOf v 3 0
  if 64 ≤ fn ∨ (bitOf v 16 ∧ (lg < 4 ∨ 12 < lg)) then .next s
  else .next (s.onFn fn fun f => { f with fqcfg := v &&& 0x1000F })

/-- FQHEAD_WRITE (R248): Host advances FQHEAD; waiting fault requests are posted. -/
def execFqheadWrite (fn : Nat) (v : BitVec 64) (s : State) : Host.Outcome State Fault Refusal :=
  if 64 ≤ fn then .next s
  else
    let s := s.onFn fn fun f => { f with fqhead := bitsOf v 31 0 }
    .next ((s.fn fn).faults.foldl (fun s r => s.postFault fn r) s)

/-! ### Dropping translations (R251, R253) -/

/-- What a drop of translations covers: function, virtual page, leaf. -/
abbrev Covers := Nat → Nat → Leaf → Bool

/-- A leaf that stands for the page of a place, where only that is known. -/
def pageLeaf (p : Place) : Leaf :=
  ⟨match p with
   | .dram a => .dram (a / 65536 * 65536)
   | .repl a => .repl (a / 65536 * 65536)
   | .peer i a => .peer i (a / 65536 * 65536)
   | .host a => .host (a / 65536 * 65536), true, 0, 0⟩

/-- The function whose address space a launch uses. -/
def State.fnOfLaunch (s : State) (launch : Nat) : Nat := (s.launch? launch).elim 0 (·.fn)

/-- Whether a piece of an access of a launch is covered. -/
def State.pieceIn (s : State) (c : Covers) (launch : Nat) (p : Piece) : Bool := c (s.fnOfLaunch launch) (p.va / 65536) p.leaf

/-- Whether a fibre's region buffer holds a store that is covered (R251 step 3). -/
def State.storesIn (s : State) (c : Covers) (f : Fibre) : Bool :=
  f.region.any fun e => match e with
    | .store _ ps _ _ _ => ps.any (s.pieceIn c f.key.launch)
    | _ => false

/-- A fibre rolled back by an invalidation, without being parked: its task region is aborted, a handler abandoned, a
command or push it stalls with withdrawn (R160, R251); one that waited becomes eligible now (R147). -/
def State.rollbackForDrop (s : State) (f : Fibre) : State :=
  let s := s.withdraw f
  let f := if f.status = .eligible then f else f.withdrawn.wake s.ftime
  let s := s.rollbackFibre { f with arrivedStep := false, arrivedRope := false }
  let left := s.batches.map fun b => { b with members := b.members.filter fun k => decide (k ≠ f.key) }
  { s with batches := left.filter fun b => !b.members.isEmpty }

/-- Bytes of a chunk's written lines performed at their homes under its kept translation (R226); with the peer departed or
the host link lost they go nowhere (R413). -/
def State.writeBackChunk (s : State) (t : Team) (ch : Chunk) : State :=
  match ch.leaf with
  | some leaf => (t.writtenLines ch).foldl (fun s x =>
      if s.gone (placeIn leaf x.1) then s
      else (s.agentWrite (placeIn leaf x.1) x.2 leaf.key 0 .none .none (t.lineBad ch x.1 x.2.length) (s.packFor leaf x.1 x.2.length)).1) s
  | none => s

/-- The lines that map commands have taken of the pages of a drop are performed before it writes back what was written after
them (R275, R282). -/
def State.finishTaken (s : State) (c : Covers) : State :=
  (s.cmds.filter fun d => d.engine == 1 && 7 ≤ d.form && decide (d.state = .accepted) && d.leaves.any fun p => c d.fn p.1 p.2).foldl
    (fun s d => d.out.foldl (fun s p => s.writePart d p) s) s

/-- The chunks of every team whose kept translation is covered and for which `p` holds written back under it, and BOUND
again (R251 step 4). -/
def State.rebindChunks (s : State) (c : Covers) (p : Chunk → Bool) : State :=
  (s.finishTaken c).teams.foldl (fun s t =>
    let fn := s.fnOfLaunch t.launch
    let hit := fun (ch : Chunk) => p ch && (ch.leaf.elim false fun l => c fn (ch.va / 65536) l)
    let s := (t.chunks.filter hit).foldl (fun s ch => s.writeBackChunk t ch) s
    let empty := fun (ch : Chunk) => if hit ch then { ch with filled := false, written := [], leaf := none, stale := false } else ch
    s.onTeam t.launch t.idx fun t => { t with chunks := t.chunks.map empty }) (s.finishTaken c)

/-- The fills under way whose translation is dropped: they complete, and their chunks are BOUND again afterwards (R251,
R265). -/
def State.staleFills (s : State) (c : Covers) : State :=
  let mark := fun (t : Team) (ch : Chunk) =>
    if ch.fill.isSome && (ch.leaf.elim false fun l => c (s.fnOfLaunch t.launch) (ch.va / 65536) l) then { ch with stale := true } else ch
  { s with teams := s.teams.map fun t => { t with chunks := t.chunks.map (mark t) } }

/-- Steps 1, 3 and 4 of R251: translations dropped, fibres rolled back, FILLED chunks written back and BOUND again. -/
def State.dropTranslations (s : State) (c : Covers) : State :=
  let s := { s with x := { s.x with tlb := s.x.tlb.filter fun t => !(c t.fn t.vpn t.leaf) } }
  let s := (s.fibres.filter (s.storesIn c)).foldl (fun s f => s.rollbackForDrop f) s
  (s.rebindChunks c (·.filled)).staleFills c

/-! ### The old frames (R254) -/

/-- The frames whose translations a drop covers. -/
def State.framesOf (s : State) (c : Covers) : List Place :=
  dedup ((s.x.tlb.filter fun t => c t.fn t.vpn t.leaf).map (·.leaf.base))

/-- Whether a line lies in one of some frames of 64 KiB. -/
def inFrames (frames : List Place) (line : Place) : Bool := frames.contains (line.sub (line.addr % 65536))

/-- The TEAM-tagged lines of some frames by core, and the DIE-tagged ones by die. -/
def State.taggedIn (s : State) (frames : List Place) : List (Nat × Place) × List (Nat × Place) :=
  ((s.m.l1.filter fun l => l.tagged && inFrames frames l.line).map fun l => (l.core, l.line),
   (upFrom 0 4).flatMap fun d => ((s.m.dieLines d).filter (inFrames frames)).map fun l => (d, l))

/-- The tagged lines of some frames written back to their homes, so that a store performed before the page moves is in its
old frame (R254). -/
def State.flushFrames (s : State) (frames : List Place) : State :=
  let tagged := s.taggedIn frames
  let s := tagged.1.foldl (fun s x => s.evictL1 x.1 x.2) s
  tagged.2.foldl (fun s x => s.pushDieBytes (Config.coresPerDie * x.1) x.2 (.evictL2 x.1) [] []) s

/-- Accesses that began before a number and still use covered translations: loads, fills of chunks, engine commands,
gather parts, drains, counters of END, release holds, and the spill areas of bound worklists (R179, R251 step 2, R272,
R369). -/
def State.stillUsed (s : State) (c : Covers) (mark : Nat) : Bool :=
  let atom := fun (a : AtomReq) => match a.at_ with
    | .level _ p => decide (a.uid < mark) && c (s.fnOfLaunch a.fibre.launch) (a.va / 65536) (pageLeaf p)
    | .spad .. => false
  let held := fun (launch : Nat) (h : Held) =>
    match h with
    | .store (.store _ ps _ _ _) => ps.any (s.pieceIn c launch)
    | .atomic a => atom a
    | _ => false
  (s.m.held.any fun h => held h.fibre.launch h.what) ||
  (s.m.loads.any fun l => decide (l.uid < mark) && l.parts.any fun p =>
    p.entry.isSome && p.got.isNone && c (s.fnOfLaunch l.fibre.launch) (p.va / 65536) (pageLeaf p.place)) ||
  (s.m.atoms.any atom) ||
  (s.cmds.any fun d => decide (d.uid < mark) && d.leaves.any fun p => c d.fn p.1 p.2) ||
  (s.mat.queue.any fun e => match e.op with
    | .drain _ _ _ _ _ _ leaves => decide (e.uid < mark) && leaves.any fun p => c (s.fnOfLaunch e.launch) p.1 p.2
    | _ => false) ||
  (s.teams.any fun t => t.chunks.any fun ch => ch.stale && ch.fill.isSome && (ch.leaf.elim false fun l => c (s.fnOfLaunch t.launch) (ch.va / 65536) l)) ||
  (s.cairn.wls.any fun w => w.bound.elim false fun l =>
    (upFrom (w.spill / 65536) w.spillSize).any fun page => c (s.fnOfLaunch l) page (pageLeaf (.dram 0))) ||
  (s.fibres.any fun f =>
    (f.relHold.elim false fun h => held f.key.launch h.2) ||
    (match f.status with
     | .blocked (.ending _ (some a)) => atom a
     | .blocked (.endingTask (some a)) => atom a
     | _ => false))

/-! ### Invalidations (R251) -/

/-- What an invalidation of a function covers. -/
def Inval.covers (iv : Inval) (fn : Nat) : Covers := fun f v _ =>
  f == fn && (iv.count == 0 || (decide (iv.page ≤ v) && decide (v < iv.page + iv.count)))

/-- The state with the first invalidation of a function changed. -/
def State.onInval (s : State) (fn : Nat) (g : Inval → Inval) : State :=
  s.onFn fn fun f => { f with invals := match f.invals with | [] => [] | iv :: r => g iv :: r }

/-- Leases granted to peers recalled, each with a packet to its peer (R251, R253, R415). -/
def State.recall (s : State) (mine : PeerLease → Bool) : State :=
  let s := (s.x.leases.filter fun l => mine l && !l.recalled).foldl (fun s l => s.sendPeer l.peer (.recall l.peer l.frame)) s
  { s with x := { s.x with leases := s.x.leases.map fun l => if mine l then { l with recalled := true } else l } }

/-- The first invalidation of a function started: its translations and denials are dropped, tagged lines of the frames they
led to are written back, and the leases granted to peers are recalled (steps 1, 3, 4, 5; R254). -/
def State.startInval (s : State) (fn : Nat) : State :=
  match (s.fn fn).invals with
  | [] => s
  | iv :: _ =>
    if iv.mark.isSome then s
    else
      let c := iv.covers fn
      let frames := s.framesOf c
      let s := s.onFn fn fun f => { f with denials := f.denials.filter fun p => !(c fn p (pageLeaf (.dram 0))) }
      let s := (s.dropTranslations c).flushFrames frames
      (s.onInval fn fun iv => { iv with mark := some s.uid, frames := frames }).recall fun _ => true

/-- TINVCMD (R251): Starts or queues an invalidation; with 16 waiting the write is ignored and recorded. -/
def execTinvcmd (fn : Nat) (v : BitVec 64) (s : State) : Host.Outcome State Fault Refusal :=
  if 64 ≤ fn then .next s
  else if 17 ≤ (s.fn fn).invals.length then .next (s.errorRecord 3 22 22 noCore 0x4038 v.toNat)
  else
    let page := bitsOf (s.fn fn).tinvva 56 16
    .next ((s.onFn fn fun f => { f with invals := f.invals ++ [⟨page, bitsOf v 31 0, none, []⟩] }).startInval fn)

/-- Whether the invalidation in progress finds chunks that a fill from before it has filled, or lines of its frames tagged by
stores from before it. -/
def State.invalLeft (s : State) (iv : Inval) (fn : Nat) : Bool :=
  let tagged := s.taggedIn iv.frames
  !tagged.1.isEmpty || !tagged.2.isEmpty ||
    s.teams.any fun t => t.chunks.any fun ch => ch.stale && ch.filled &&
      (ch.leaf.elim false fun l => iv.covers fn (s.fnOfLaunch t.launch) (ch.va / 65536) l)

/-- What it finds left written back (R251 step 4, R254). -/
def State.finishInval (s : State) (iv : Inval) (fn : Nat) : State :=
  let s := (s.rebindChunks (iv.covers fn) fun ch => ch.stale && ch.filled).flushFrames iv.frames
  s.onInval fn fun iv => { iv with mark := some s.uid }

/-- Whether the conditions of the invalidation in progress hold: no access from before it uses what it dropped, is still on
its way to its level or short of its GWCT in an old frame, and no lease that it recalled is left. -/
def State.invalDone (s : State) (iv : Inval) (fn : Nat) : Bool :=
  match iv.mark with
  | none => false
  | some mark =>
    !(s.stillUsed (iv.covers fn) mark) && !(s.m.outs.any fun o => decide (o.uid < mark)) && !(s.x.leases.any (·.recalled)) &&
      !(s.m.pend.any fun p => decide (p.uid < mark) && decide (s.ftime < p.full) && inFrames iv.frames p.line)

/-- INVALIDATION_COMPLETE (R251): The invalidation in progress completes; TINVDONE advances and the next one starts. What it
still finds to be written back is written back first. -/
def execInvalidationComplete (fn : Nat) (s : State) : Host.Outcome State Fault Refusal :=
  match (s.fn fn).invals with
  | [] => .next s
  | iv :: r =>
    if 64 ≤ fn then .next s
    else if iv.mark.isSome && s.invalLeft iv fn then .next (s.finishInval iv fn)
    else if !(s.invalDone iv fn) then .next s
    else .next ((s.onFn fn fun f => { f with invals := r, tinvdone := (f.tinvdone + 1) % 2 ^ 32 }).startInval fn)

/-! ### Translations of peers (R253) -/

/-- What the translation of a peer's exported frame covers. -/
def peerCovers (peer frame : Nat) : Covers := fun _ _ l =>
  match l.base with
  | .peer i a => i == peer && a / 65536 == frame
  | _ => false

/-- PEER_TRANSLATION_RECALL (R253): A peer recalls a translation lease: the source drops the translation as in steps 1 to
4 of R251, and confirms once nothing uses it. A packet that is not taken changes nothing (R400, R412, R415). -/
def execPeerTranslationRecall (head : PktHead) (frame : Nat) (s : State) : Host.Outcome State Fault Refusal :=
  let peer := head.src
  let c := peerCovers peer frame
  let mine := fun (p : PeerXlat) => p.peer == peer && p.frame == frame
  if !(s.takesHead head) then .next s else
  let s := (s.dropTranslations c).rebindChunks c fun ch => ch.stale && ch.filled
  if s.stillUsed c s.uid then
    let spent := fun (p : PeerXlat) => if mine p then { p with until_ := 0, used := true, recalled := true } else p
    .next { s with x := { s.x with peers := s.x.peers.map spent } }
  else
    .next ({ s with x := { s.x with peers := s.x.peers.filter fun p => !(mine p) } }.sendPeer peer (.confirm peer frame))

/-- PEER_LEASE_EXPIRY (R253): A peer translation lease ends: the source drops it, and walks again at its next access; the
target that granted it forgets it with the source's confirmation, or 32 ticks after its end. -/
def execPeerLeaseExpiry (peer frame : Nat) (s : State) : Host.Outcome State Fault Refusal :=
  .next { s with x := { s.x with
    peers := s.x.peers.filter fun p => !(p.peer == peer && p.frame == frame && p.used && decide (p.until_ ≤ s.ftime)),
    leases := s.x.leases.filter fun l => !(l.peer == peer && l.frame == frame && ((l.recalled && !(s.departed peer)) || decide (l.until_ + 32 ≤ s.ftime))) } }

end Sys2Proof.Machine
end

