-- ==== Sys2Proof/Machine/FibreCtl.lean ====
section
/-! DEFINITION. Fibre control: FIB (R177 to R183). -/

namespace Sys2Proof.Machine

/-! ### Starting a fibre (R119, R178) -/

/-- A fibre as it starts, at `pc`. -/
def newFibre (key : FKey) (core part role window : Nat) (pc : Word) (g4 : Word) (now : Time) : Fibre :=
  { key := key, core := core, part := part, role := role, window := window, pc := pc, spc := pc, pw := 1,
    g := [0, BitVec.ofNat 64 key.fid, BitVec.ofNat 64 key.team, BitVec.ofNat 64 role, g4] ++ List.replicate 55 0,
    notReady := [], lat := Latches.none, slotTeam := Latches.none, slotSys := Latches.none, fst := 0, ft := 0,
    gwmax := 0, rstack := [], depth := 0, rstart := [], rstartDepth := 0, region := [], tpc := 0, tcause := 0,
    tval := 0, hints := Hints.none, runCount := 0, ir := 0, yieldAtEnd := false, boostAtEnd := false,
    status := .eligible, age := now, passes := 0, boost := false, seq := 0, posted := [], serving := none,
    acqHold := false, relHold := none, task := none, keptTask := none, arrivedStep := false, arrivedRope := false,
    tableWord := none, afterCommit := none, nextSafe := false, saved := false }

/-- WINDOW of a role (R115). -/
def Launch.windowOf (l : Launch) (r : Nat) : Nat := l.field (32 + r) 1

/-- A started fibre is absent from every open generation of its team's belays (R178, R292). -/
def State.markLate (s : State) (launch team fid : Nat) : State :=
  s.onTeam launch team fun t => { t with belays := t.belays.map fun b =>
    if b.armed && !b.signed.isEmpty && !(b.late.contains fid) then { b with late := fid :: b.late } else b }

/-- A fibre started in the slot of a fibre that has ended (R178). -/
def State.startFibre (s : State) (l : Launch) (old : Fibre) (pc g4 : Word) : State :=
  let f := newFibre old.key old.core old.part old.role (l.windowOf old.role) pc g4 s.ftime
  (s.setFibre { f with arrivedStep := false }).markLate l.id old.key.team old.key.fid

/-- SPAWN and SPAWNT after their operand checks (R178): the slot, the argument, the entry. -/
def spawnWord (slot : State → Fibre → Option Fibre) (arg : Word) (d : Nat) (target : Word) :
    State → Fibre → WordOut := fun s f =>
  if f.inTask then taskFault s f 2
  else
    withTarget true target (commitPoint fun s f =>
      let uid := s.uid
      match s.launchOf f, slot s f with
      | some l, some old =>
        let s := s.startFibre l old target arg
        .next (s.addResult f d (BitVec.ofNat 64 old.key.fid) 0) (f.await d uid)
      | _, _ => .next (s.addResult f d (BitVec.allOnes 64) 0) (f.await d uid)) s f

/-- The fibre of the issuer's role with the lowest FID whose fibre has ended. -/
def State.lowestEnded (s : State) (f : Fibre) : Option Fibre :=
  match s.launchOf f with
  | none => none
  | some l =>
    (upFrom (l.firstFid f.role) (l.fibresOf f.role)).findSome? fun i =>
      (s.fibre? ⟨f.key.launch, f.key.team, i⟩).bind fun x => if x.status = .ended then some x else none

/-- The fibre of a FID of the issuer's team, if it has ended. -/
def State.endedFid (s : State) (f : Fibre) (i : Nat) : Option Fibre :=
  (s.fibre? ⟨f.key.launch, f.key.team, i⟩).bind fun x => if x.status = .ended then some x else none

/-! ### END (R179) -/

/-- END once its counter is translated: the region commits, or in trap mode is discarded with the task, and the release
begins (R105, R158, R384); a held task is done after it (R179). -/
def endWord (sc : Nat) (counter : Option AtomReq) (s : State) (f : Fibre) : WordOut :=
  if f.relHold.isSome || s.narrowOut f.key then .stall
  else if f.trapMode then
    let s := (s.abortTask f (.queued f.core)).writeBacks f.core sc [f.key] []
    s.block { f with region := [], task := none } (.ending sc counter)
  else if s.canCommit f then
    let (s, f) := s.commit f
    (s.writeBacks f.core sc [f.key] []).block f (.ending sc counter)
  else .stall

/-! ### Barriers (R120, R126, R182) -/

/-- Whether a fibre's rope is lost: its fibres take ROPE_LOST at ROPEBAR (R126). -/
def Launch.ropeLost (l : Launch) (rope : Nat) : Bool := l.lost.any fun x => x.rope == rope && !x.restarted

/-- SPAWN (R178): Starts the lowest ended fibre of the issuer's role at an entry. -/
def execSpawn (h : Gd) (d : BitVec 6) (a : BitVec 6) (b : BitVec 6) (s : State) :
    Host.Outcome State Fault Refusal :=
  runWord true h.pg h.pn false (fun s f =>
    withOpds [⟨1, d, .long⟩, ⟨2, a, .src⟩, ⟨3, b, .src⟩] []
      (fun s f => spawnWord (fun s f => s.lowestEnded f) (f.src b) d.toNat (f.src a) s f) s f) s

/-- SPAWNT (R178): Starts a named ended fibre at an entry. -/
def execSpawnt (h : Gd) (d : BitVec 6) (a : BitVec 6) (b : BitVec 6) (s : State) :
    Host.Outcome State Fault Refusal :=
  runWord true h.pg h.pn false (fun s f =>
    let bad := f.known b && decide ((s.launchOf f).elim 0 (·.nfib) ≤ (f.src b).toNat)
    withOpds [⟨1, d, .long⟩, ⟨2, a, .src⟩, ⟨3, b, .src⟩] (badValue bad f.inTask 3)
      (fun s f => spawnWord (fun s f => s.endedFid f (f.src b).toNat) (f.src d) d.toNat (f.src a) s f) s f) s

/-- END (R179): Commits, releases at a scope, optionally increments a counter, and ends the fibre. -/
def execEndFibre (h : Gd) (a : BitVec 6) (sc : BitVec 3) (s : State) :
    Host.Outcome State Fault Refusal :=
  runWord true h.pg h.pn false (fun s f =>
    withOpds [⟨2, a, .src⟩] (if 5 ≤ sc.toNat then [5] else []) (fun s f =>
      let va := f.src a
      if a = 0 then endWord sc.toNat none s f
      else if va.toNat % 8 != 0 then trapOwn s f 0x03 va
      else
        withPieces va 8 true 2 (fun s f ps =>
          match ps with
          | [p] =>
            match p.place with
            | .repl _ => trapOwn s f 0x04 va
            | _ =>
              endWord sc.toNat (some ⟨s.uid, f.key, f.core, .level (atomLevel sc.toNat p.place f.core) p.place, 8, .add, 1, 0,
                false, none, sc.toNat, p.leaf.key, va.toNat, false, 0⟩) s.takeUid f
          | _ => .stall) s f) s f) s

/-- YIELD (R181): Ends the run and resets the fibre's age. -/
def execYield (h : Gd) (s : State) :
    Host.Outcome State Fault Refusal :=
  runWord true h.pg h.pn false (fun s f => .next s { f with yieldAtEnd := true }) s

/-- SLEEPT (R180): Makes the fibre ineligible until FTIME reaches a time. -/
def execSleept (h : Gd) (a : BitVec 6) (s : State) :
    Host.Outcome State Fault Refusal :=
  runWord true h.pg h.pn false (fun s f =>
    withOpds [⟨2, a, .src⟩] [] (fun s f =>
      if (f.src a).toNat ≤ s.ftime then .next s f
      else .out (s.setFibre { (f.pastWord true).endRun (f.pc + 4) s.ftime with status := .sleeping (f.src a) })) s f) s

/-- STEP (R120): Grid-wide step barrier that advances STEPN. -/
def execStep (h : Gd) (s : State) :
    Host.Outcome State Fault Refusal :=
  runWord true h.pg h.pn false (fun s f =>
    commitPoint (fun s f =>
      match s.block { f with arrivedStep := true } .step with
      | .out s => .out (s.tryStep f.key.launch)
      | o => o) s f) s

/-- ROPEBAR (R182): Barrier of the fibres of the issuer's rope; TPC of ROPE_LOST is the ROPEBAR word itself. -/
def execRopebar (h : Gd) (s : State) :
    Host.Outcome State Fault Refusal :=
  runWord true h.pg h.pn false (fun s f =>
    commitPoint (fun s f =>
      match s.launchOf f with
      | none => .stall
      | some l =>
        let rope := f.key.team / l.rope
        if l.ropeLost rope then .trap s f 0x0C (BitVec.ofNat 64 rope) f.pc
        else
          match s.block { f with arrivedRope := true } .ropebar with
          | .out s => .out (s.tryRope l.id rope)
          | o => o) s f) s

/-- NOP (R183): No effect; ends the run when E is set. -/
def execNop (h : Hdr) (s : State) :
    Host.Outcome State Fault Refusal :=
  runWord h.e h.pg h.pn false (fun s f => .next s f) s

end Sys2Proof.Machine
end

