-- ==== Sys2Proof/Machine/LaunchEng.lean ====
section
/-! DEFINITION. The launch engine: queues, checks, placement, starts and rope restarts (R69 to R70, R108 to R119, R127,
R367 to R369, R432). -/

namespace Sys2Proof.Machine

/-! ### What the engine finds when it looks (R70, R112) -/

/-- What a look of the engine at memory comes to: a value; a failure with a completion status and what to record; a page
whose verdict it waits for; a line or a translation it has to fetch first. -/
inductive Look (α : Type) where
  | ok (a : α)
  | fail (status cls entry : Nat)
  | page (va cls status : Nat)
  | away (p : Place)
  | walk (peer frame : Nat) (write : Bool)

/-- One look after another. -/
def Look.bind {α β : Type} (x : Look α) (k : α → Look β) : Look β :=
  match x with
  | .ok a => k a
  | .fail s c e => .fail s c e
  | .page a c s => .page a c s
  | .away p => .away p
  | .walk p f w => .walk p f w

/-- A look that goes on only where a condition holds. -/
def Look.check {α : Type} (status : Nat) (good : Bool) (k : Look α) : Look α := if good then k else .fail status 0 0

/-- A translation fault of the engine's own access: a page of class 1 or 2 has the status with which a denial fails the launch (R70,
R112). -/
def lookFault {α : Type} (status : Nat) (x : XlatAll) : Look α :=
  match x with
  | .page a c => .page a c status
  | .walk p f w => .walk p f w
  | .violation _ c e => .fail status c e
  | .ok _ => .fail status 0 0

/-- `n` bytes of the launch's address space as an engine read; a failure has a completion status. -/
def State.look (s : State) (l : Launch) (status va n : Nat) : Look (List Byte) :=
  match s.agentGet l.fn frontDie va n with
  | .bytes bs => .ok bs
  | .away p => .away p
  | .fault x => lookFault status x

/-- Pages of the image that are read by others: each has a translation as an engine read. -/
def State.lookPages (s : State) (l : Launch) (status : Nat) : List Nat → Look Unit
  | [] => .ok ()
  | page :: r =>
    match s.translate (.engine 4) l.fn (page * 65536) false with
    | .ok _ => s.lookPages l status r
    | x => lookFault status (x.at_ (page * 65536))

/-- The pages of a range. -/
def pagesIn (va n : Nat) : List Nat := if n = 0 then [] else upFrom (va / 65536) ((va + n - 1) / 65536 - va / 65536 + 1)

/-- 32-bit words of a table. -/
def le32s : List Byte → List Nat
  | a :: b :: c :: d :: r => natLE [a, b, c, d] :: le32s r
  | _ => []

/-- Whether a list is strictly ascending. -/
def ascending : List Nat → Bool
  | a :: b :: r => decide (a < b) && ascending (b :: r)
  | _ => true

/-! ### The image (R69, R70) -/

/-- What the engine keeps of an image that passes its checks. -/
structure Image where
  text : Nat
  textSize : Nat
  safeAt : Nat
  safe : List Nat
  liveAt : Nat
  spadinit : List Byte
  deriving DecidableEq, Repr

/-- A 4-byte field of an image header. -/
def hdr4 (h : List Byte) (off : Nat) : Nat := natLE ((h.drop off).take 4)

/-- The regions of an image: offset and length, with the count of its relocations. -/
def imageRegions (h : List Byte) (relocs : Nat) : List (Nat × Nat) :=
  let at_ := fun o => (hdr4 h o, hdr4 h (o + 4))
  let count := hdr4 h 36
  [at_ 8, at_ 16, at_ 24, (hdr4 h 32, 4 * count), (hdr4 h 40, 8 * count), (hdr4 h 48, 16 * hdr4 h 52),
   (hdr4 h 56, 12 * hdr4 h 60), (hdr4 h 64, 16 * hdr4 h 68), (hdr4 h 72, 4 + 12 * relocs)]

/-- The checks of the header alone. -/
def headerOk (h : List Byte) : Bool :=
  decide (h.take 8 = [0x4B, 0x4C, 0x55, 0x50, 1, 0, 0, 0]) &&
  ((imageRegions h 0).all fun r => decide (80 ≤ r.1) && r.1 % 8 == 0) &&
  hdr4 h 8 % 128 == 0 && hdr4 h 12 % 4 == 0

/-- The image of a launch as the engine checks it (R70). -/
def State.lookImage (s : State) (l : Launch) : Look Image :=
  let code := l.field 0 8
  (s.look l 1 code 80).bind fun h =>
  Look.check 1 (headerOk h) <|
  (s.look l 1 (code + hdr4 h 72) 4).bind fun rc =>
  Look.check 1 ((imageRegions h (natLE rc)).all fun r => decide (r.1 + r.2 ≤ 2 ^ 32)) <|
  let count := hdr4 h 36
  (s.lookPages l 1 (pagesIn (code + hdr4 h 8) (hdr4 h 12) ++ pagesIn (code + hdr4 h 16) (hdr4 h 20) ++
    pagesIn (code + hdr4 h 40) (8 * count))).bind fun _ =>
  (s.look l 1 (code + hdr4 h 24) (hdr4 h 28)).bind fun sp =>
  (s.look l 1 (code + hdr4 h 32) (4 * count)).bind fun sf =>
  let safe := le32s sf
  Look.check 1 (ascending safe && safe.all fun e => decide (e < hdr4 h 12 / 4)) <|
  .ok ⟨code + hdr4 h 8, hdr4 h 12, code + hdr4 h 32, safe, code + hdr4 h 40, sp⟩

/-! ### The descriptor (R115, R116) -/

/-- FLAGS.WLB of a launch, and the worklist it names. -/
def Launch.wlb (l : Launch) : Bool := l.field 39 1 / 2 % 2 == 1
def Launch.wlId (l : Launch) : Nat := l.field 126 1

/-- Teams in the grid, and its roles that are present. -/
def Launch.teams (l : Launch) : Nat := l.field 40 4
def Launch.roles (l : Launch) : List Nat := (upFrom 0 4).filter fun r => l.fibresOf r != 0

/-- Where the WAIT and DONE counters of a launch lie: R116 has no row for an address that is not 8-byte aligned, and the model
leaves its low three bits out (log 58). -/
def Launch.waitAt (l : Launch) : Nat := l.field 64 8 / 8 * 8
def Launch.doneAt (l : Launch) : Nat := l.field 80 8 / 8 * 8

/-- SAVE of a launch. -/
def Launch.save (l : Launch) : Nat := l.field 56 8

/-- Whether the fields of a descriptor pass the rows of R116 with status 2. -/
def Launch.descOk (l : Launch) (img : Image) : Bool :=
  let minDie := l.field 45 1
  let maxDie := l.field 46 1
  let entry := fun off => img.safe.contains (l.field off 4)
  decide (l.field 38 1 < 8) && decide (l.field 39 1 < 4) && l.field 127 1 == 0 && decide (1 ≤ l.rope) && decide (l.rope ≤ 64) &&
  decide (1 ≤ minDie) && decide (minDie ≤ 4) && decide (minDie ≤ maxDie) && decide (maxDie ≤ 4) && decide (l.field 47 1 ≤ 16) &&
  (!l.wlb || (l.field 104 8 != 0 && l.field 104 8 % 65536 == 0 && decide (4 ≤ l.field 120 4) && l.field 120 4 % 4 == 0 &&
    decide (l.field 124 1 ≤ 31) && decide (l.field 125 1 ≤ 63) && decide (l.wlId ≤ 7))) &&
  decide (1 ≤ l.nfib) && decide (l.nfib ≤ 1024) &&
  (l.roles.all fun r => l.windowOf r % 4 == 0 && decide (4 ≤ l.windowOf r) && decide (l.windowOf r ≤ 60)) &&
  (l.roles.all fun r => entry (8 + 4 * r)) && entry 48 && entry 52 &&
  l.teams % l.rope == 0 && decide (img.spadinit.length ≤ l.spadBytes) &&
  (l.save != 0 || minDie == maxDie) && l.teams != 0 && l.save % 4096 == 0 && l.field 96 8 % 64 == 0

/-! ### Room (R117, R118) -/

/-- Whether a team takes room on its core. -/
def State.holdsRoom (s : State) (without : List Nat) (t : Team) : Bool :=
  !(without.contains t.launch) && ((s.launch? t.launch).elim false fun l => decide (l.phase ≠ .saved)) &&
    (!t.ended || !t.chunks.isEmpty || s.cmds.any fun c => c.issuer.launch == t.launch && c.issuer.team == t.idx)

/-- The teams that take room on a core. -/
def State.teamsAt (s : State) (without : List Nat) (core : Nat) : List Team :=
  s.teams.filter fun t => t.core == core && s.holdsRoom without t

/-- The sum of a list. -/
def sumList (l : List Nat) : Nat := l.foldl (· + ·) 0

/-- How many teams of a launch a core has room for: 16 teams, 256 chunks and 12 × 128 fibre slots; windows of at most 60
registers never reach 8,192 in a partition. -/
def roomFor (l : Launch) (teams chunks slots : Nat) : Nat :=
  let bySpad := if l.field 36 2 = 0 then 16 else (256 - chunks) / l.field 36 2
  Nat.min (16 - teams) (Nat.min bySpad ((1536 - slots) / Nat.max l.nfib 1))

/-- The room of a core, the launches `without` left out of account. -/
def State.coreRoom (s : State) (without : List Nat) (l : Launch) (core : Nat) : Nat :=
  let ts := s.teamsAt without core
  let of := fun (g : Launch → Nat) => sumList (ts.map fun t => (s.launch? t.launch).elim 0 g)
  roomFor l ts.length (of (·.field 36 2)) (of (·.nfib))

/-- The cores of a die that take new teams: neither absent nor marked for retirement (R8, R424). -/
def State.coresOf (s : State) (die : Nat) : List Nat :=
  (upFrom (64 * die) 64).filter fun c => !(s.mg.absent.contains c) && !(s.mg.marked.contains c)

/-- A number put into a descending list. -/
def insertDesc (x : Nat × Nat) : List (Nat × Nat) → List (Nat × Nat)
  | [] => [x]
  | y :: r => if y.1 < x.1 then x :: y :: r else y :: insertDesc x r

/-- The rooms of the dies with their numbers, the largest first. -/
def State.dieRooms (s : State) (without : List Nat) (l : Launch) : List (Nat × Nat) :=
  (upFrom 0 4).foldl (fun acc d => insertDesc (sumList ((s.coresOf d).map (s.coreRoom without l)), d) acc) []

/-- The least number of dies that teams of a launch stand on: MINDIE for its whole grid, where it has that many ropes, or that many teams
if its ropes are wider than any cluster and so are split (R118, R221; log 61). -/
def Launch.leastDies (l : Launch) (teams : Nat) : Nat :=
  let apart := if l.rope ≤ 8 * roomFor l 0 0 0 then teams / Nat.max l.rope 1 else teams
  if teams = l.teams then Nat.min (l.field 45 1) apart else 0

/-- Whether teams of a launch fit dies with these rooms, on at least so many of them (R118). -/
def fitRooms (l : Launch) (teams : Nat) (rooms : List Nat) : Bool :=
  decide (teams ≤ sumList rooms) && decide (l.leastDies teams ≤ (rooms.filter fun r => r != 0).length)

/-- Whether teams fit a number of dies as currently enabled, with no other work (R116, R127). -/
def State.placeable (s : State) (l : Launch) (dies teams : Nat) : Bool :=
  let rooms := (upFrom 0 4).foldl (fun acc d =>
    insertDesc (((upFrom (64 * d) 64).filter fun c => !(s.mg.absent.contains c)).length * roomFor l 0 0 0, d) acc) []
  fitRooms l teams ((rooms.take dies).map (·.1))

/-- Fibres of the teams on a core that have slots in a partition. -/
def State.slotsUsed (s : State) (without : List Nat) (core part : Nat) : List Nat :=
  let ts := (s.teamsAt without core).map fun t => (t.launch, t.idx)
  (s.fibres.filter fun f => f.core == core && f.part == part && ts.contains (f.key.launch, f.key.team)).map (·.window)

/-- The windows of a team's fibres in FID order. -/
def Launch.windows (l : Launch) : List Nat := (upFrom 0 l.nfib).map fun i => l.windowOf (l.roleOf i)

/-- The teams of a rope among those of a placement. -/
def ropePlace (l : Launch) (place : List TeamPlace) (rope : Nat) : List TeamPlace :=
  place.filter fun p => p.team / Nat.max l.rope 1 == rope

/-- The room of a cluster for teams of a launch beside those of a placement on it. -/
def State.clusterRoom (s : State) (without : List Nat) (l : Launch) (place : List TeamPlace) (cl : Nat) : Nat :=
  let cores := (s.coresOf (cl / 8)).filter fun c => clusterOfCore c == cl
  sumList (cores.map fun c => s.coreRoom without l c - (place.filter fun p => p.core == c).length)

/-- Whether every rope of a placement stands in one cluster, unless no cluster has room for it beside the ropes before it, of its dies, or
of any die where MAXDIE allows one more (R221). -/
def State.ropesTight (s : State) (without : List Nat) (l : Launch) (place : List TeamPlace) : Bool :=
  (dedup (place.map fun p => p.team / Nat.max l.rope 1)).all fun r =>
    let mine := ropePlace l place r
    let before := place.filter fun p => decide (p.team / Nat.max l.rope 1 < r)
    let used := dedup (place.map fun p => dieOfCore p.core)
    decide ((dedup (mine.map fun p => clusterOfCore p.core)).length ≤ 1) ||
      !((if used.length < l.field 46 1 then upFrom 0 4 else used).any fun d =>
        (upFrom (8 * d) 8).any fun cl => decide (mine.length ≤ s.clusterRoom without l before cl))

/-- Whether a placement of teams is one the engine can make (R118, R221). -/
def State.validPlace (s : State) (without : List Nat) (l : Launch) (teams : List Nat) (place : List TeamPlace) : Bool :=
  let dies := dedup (place.map fun p => dieOfCore p.core)
  let onCore := fun c => place.filter fun p => p.core == c
  let cores := dedup (place.map (·.core))
  let partOk := fun (c part : Nat) =>
    let mine := (onCore c).flatMap fun p => ((p.parts.zip l.windows).filter fun x => x.1 == part).map (·.2)
    let all := s.slotsUsed without c part ++ mine
    decide (all.length ≤ 128) && decide (sumList all ≤ 8192)
  place.length == teams.length && (teams.all fun t => place.any fun p => p.team == t) &&
  (place.all fun p => (s.coresOf (dieOfCore p.core)).contains p.core && decide (p.core < 256) && p.parts.length == l.nfib &&
    p.parts.all fun x => decide (x < 12)) &&
  decide (dies.length ≤ l.field 46 1) && decide (l.leastDies teams.length ≤ dies.length) &&
  s.ropesTight without l place &&
  cores.all fun c => decide ((onCore c).length ≤ s.coreRoom without l c) && (upFrom 0 12).all (partOk c)

/-- The free slots of a core by partition, spread over the partitions. -/
def State.freeSlots (s : State) (without : List Nat) (core : Nat) : List Nat :=
  let used := (upFrom 0 12).map fun p => (p, (s.slotsUsed without core p).length)
  (upFrom 0 128).flatMap fun level => (used.filter fun u => decide (u.2 ≤ level)).map (·.1)

/-- Teams put on one core, their fibres on its free slots. -/
def placeOn (core nfib : Nat) : List Nat → List Nat → List TeamPlace
  | [], _ => []
  | t :: r, slots => ⟨t, core, slots.take nfib⟩ :: placeOn core nfib r (slots.drop nfib)

/-- The cores of a cluster of these dies with room for a rope beside a placement. -/
def State.ropeCores (s : State) (without : List Nat) (l : Launch) (place : List TeamPlace) (dies : List Nat) (n : Nat) :
    Option (List Nat) :=
  ((dies.flatMap fun d => upFrom (8 * d) 8).find? fun cl => decide (n ≤ s.clusterRoom without l place cl)).map fun cl =>
    (s.coresOf (cl / 8)).filter fun c => clusterOfCore c == cl

/-- The room of a core beside a placement. -/
def State.roomBeside (s : State) (without : List Nat) (l : Launch) (place : List TeamPlace) (c : Nat) : Nat :=
  s.coreRoom without l c - (place.filter fun p => p.core == c).length

/-- Teams put on cores in order beside a placement, as many on each as fit. -/
def State.placeBeside (s : State) (without : List Nat) (l : Launch) : List Nat → List Nat → List TeamPlace → List TeamPlace
  | [], _, place => place
  | c :: r, teams, place =>
    let n := s.roomBeside without l place c
    let slots := (s.freeSlots without c).drop (l.nfib * (place.filter fun p => p.core == c).length)
    s.placeBeside without l r (teams.drop n) (place ++ placeOn c l.nfib (teams.take n) slots)

/-- The first teams of a list put one on each of some dies that have room, and the teams left. -/
def State.seedDies (s : State) (without : List Nat) (l : Launch) : List Nat → List Nat → List TeamPlace → List TeamPlace × List Nat
  | d :: r, t :: ts, place =>
    match (s.coresOf d).find? fun c => decide (0 < s.roomBeside without l place c) with
    | some c => s.seedDies without l r ts (s.placeBeside without l [c] [t] place)
    | none => s.seedDies without l r (t :: ts) place
  | _, ts, place => (place, ts)

/-- Ropes put on dies one after another, each in one cluster where it fits, else split, and over `least` dies at least where that can
be done. -/
def State.placeRopes (s : State) (without : List Nat) (l : Launch) (dies : List Nat) (least : Nat) :
    List (List Nat) → List TeamPlace → List TeamPlace
  | [], place => place
  | teams :: r, place =>
    let used := dedup (place.map fun p => dieOfCore p.core)
    let fresh := dies.filter fun d => !(used.contains d)
    let order := if used.length < least then fresh ++ used else dies
    let place := match s.ropeCores without l place order teams.length with
      | some cores => s.placeBeside without l cores teams place
      | none =>
        let x := s.seedDies without l (fresh.take (least - used.length)) teams place
        s.placeBeside without l (order.flatMap s.coresOf) x.2 x.1
    s.placeRopes without l dies least r place

/-- Teams cut into ropes. -/
def cutRopes (n : Nat) : Nat → List Nat → List (List Nat)
  | 0, _ => []
  | fuel + 1, l => if l.isEmpty then [] else l.take (Nat.max n 1) :: cutRopes n fuel (l.drop (Nat.max n 1))

/-- A placement on these dies (R118, R221). -/
def State.placeOn (s : State) (without : List Nat) (l : Launch) (dies teams : List Nat) : List TeamPlace :=
  s.placeRopes without l dies (l.leastDies teams.length) (cutRopes l.rope teams.length teams) []

/-- A placement on the roomiest dies. -/
def State.somePlace (s : State) (without : List Nat) (l : Launch) (teams : List Nat) : List TeamPlace :=
  s.placeOn without l (((s.dieRooms without l).take (l.field 46 1)).map (·.2)) teams

/-- Whether teams of a launch fit the device now, as a placement of them (R118). -/
def State.fits (s : State) (without : List Nat) (l : Launch) (teams : Nat) : Bool :=
  s.validPlace without l (upFrom 0 teams) (s.somePlace without l (upFrom 0 teams))

/-! ### Queues (R108 to R114, R432) -/

/-- A descriptor copied from a queue: it has the next launch identifier (R432). -/
def State.newLaunch (s : State) (fn : Nat) (queue : QueueId) (prio : Nat) (desc : List Byte) : State :=
  let l : Launch := { id := s.q.nextLaunch, fn := fn, queue := queue, prio := prio, desc := desc, phase := .queued, text := 0,
                      textSize := 0, safeAt := 0, safeCount := 0, liveAt := 0, stepn := 0, start := 0, order := 0, dies := [],
                      status := 0, entries := [], ropesLost := 0, lost := [], spadinit := [], passed := none, moving := [] }
  { s with launches := s.launches ++ [l], q := { s.q with nextLaunch := s.q.nextLaunch + 1 } }

/-- A slot of a host queue read (R110). -/
def State.readSlot (s : State) (n : Nat) (q : HostQueue) : State :=
  let va := q.base.toNat / 256 * 256 + 256 * (q.head % 2 ^ q.log)
  match s.agentGet q.owner frontDie va 256 with
  | .bytes bs =>
    ((s.dropFar (s.linesOf q.owner va 256)).onQueue n (·.take)).newLaunch q.owner (.host n)
      (Nat.min (descField bs 38 1) (bitsOf q.cfg 10 8)) bs
  | .away p => s.askFar p
  | .fault (.page a c) => (s.raiseFault q.owner (a / 65536) c 3 0).onQueue n fun q => { q with wait := some (a / 65536) }
  | .fault (.walk peer f w) => s.askWalk peer f w
  | .fault (.violation _ c e) =>
    (s.xlatRecord c e 22 noCore 0).skipSlot n
  | .fault (.ok _) => s

/-- HOST_QUEUE_SLOT_READ (R110): The launch engine copies the next descriptor of a host queue. -/
def execHostQueueSlotRead (q : Nat) (s : State) : Host.Outcome State Fault Refusal :=
  let hq := nth HostQueue.initial s.q.host q
  if !(bitOf hq.cfg 16) || s.q.stopped || !s.mg.ready || hq.wait.isSome || hq.head == hq.tail then .next s
  else .next (s.readSlot q hq)

/-- Whether a launch stands in its queue: its grid has not started. -/
def Launch.waiting (l : Launch) : Bool :=
  match l.phase with
  | .queued => true
  | .faultWait .. => true
  | .checked => true
  | .complete => l.order == 0
  | .closing _ _ => l.order == 0
  | _ => false

/-- DEVICE_QUEUE_HEAD_TAKE (R131): The engine takes the head of a device queue for checking. After a surprise down no queue is
read until a QCFG write: R130 says so of queues, R417 of host queues only (log 57). -/
def execDeviceQueueHeadTake (p : Nat) (s : State) : Host.Outcome State Fault Refusal :=
  if s.q.stopped || s.q.held || !s.mg.ready || s.launches.any (fun l => decide (l.queue = .device p) && l.waiting) then .next s
  else
    match nth [] s.q.device p with
    | [] => .next s
    | (fn, prio, bs) :: r =>
      let s := { s with q := { s.q with device := setNth [] s.q.device p r } }
      .next (s.newLaunch fn (.device p) (Nat.min (descField bs 38 1) prio) bs)

/-! ### The check of a launch (R70, R112, R116) -/

/-- A launch looked at: its image, its descriptor, whether it can ever fit, its WAIT counter's page. -/
def State.lookLaunch (s : State) (l : Launch) : Look Image :=
  (s.lookImage l).bind fun img =>
  Look.check 2 (l.descOk img) <|
  Look.check 5 (s.placeable l (l.field 45 1) l.teams) <|
  if l.field 64 8 = 0 then .ok img else (s.look l 2 l.waitAt 8).bind fun _ => .ok img

/-- What the engine does when a look does not give what it wants: it fails the launch, waits for a verdict, or fetches. -/
def State.lookElse {α : Type} (s : State) (l : Launch) : Look α → State
  | .ok _ => s
  | .fail status c e => (s.xlatRecord c e 22 noCore l.id).onLaunch l.id fun l => { l with phase := .complete, status := status }
  | .page va c status => (s.raiseFault l.fn (va / 65536) c 3 l.id).onLaunch l.id fun l =>
      { l with phase := .faultWait va status (decide (l.phase = .checked)) }
  | .away p => s.askFar p
  | .walk peer f w => s.askWalk peer f w

/-- The lines that a launch's check reads: of the header of its image, and, where that is in order, of the tables that it names; and of
the WAIT counter. -/
def State.lookedLines (s : State) (l : Launch) : List Place :=
  let code := l.field 0 8
  let tables := match s.agentGet l.fn frontDie code 80 with
    | .bytes h =>
      if headerOk h && ((imageRegions h 0).all fun r => decide (r.1 + r.2 ≤ 2 ^ 32)) then
        s.linesOf l.fn (code + hdr4 h 72) 4 ++ s.linesOf l.fn (code + hdr4 h 24) (hdr4 h 28) ++
          s.linesOf l.fn (code + hdr4 h 32) (4 * hdr4 h 36)
      else []
    | _ => []
  s.linesOf l.fn code 80 ++ tables ++ s.linesOf l.fn l.waitAt 8

/-- The lines that a launch's check read from elsewhere, no longer kept: every launch is checked, and every fill of its code marked, by
what is read then (R70, R71). -/
def State.dropLooked (s : State) (l : Launch) : State :=
  s.dropFar ((s.fab.far.map (·.1)).filter fun p => (s.lookedLines l).contains p)

/-- Whether a launch is the head of its queue. -/
def State.isHead (s : State) (l : Launch) : Bool :=
  s.launches.all fun x => !(decide (x.queue = l.queue) && x.waiting && decide (x.id < l.id))

/-- LAUNCH_CHECK (R116): The engine checks the image and descriptor of the launch at the head of a queue; every later one waits behind
it (R113). -/
def execLaunchCheck (launch : Nat) (s : State) : Host.Outcome State Fault Refusal :=
  match s.launch? launch with
  | none => .next s
  | some l =>
    if l.phase ≠ .queued ∨ !(s.isHead l) then .next s
    else
      match s.lookLaunch l with
      | .ok img =>
        .next ((s.dropLooked l).onLaunch launch fun l =>
          { l with phase := .checked, text := img.text, textSize := img.textSize, safeAt := img.safeAt,
                   safeCount := img.safe.length, liveAt := img.liveAt, spadinit := img.spadinit })
      | .fail st c e => .next ((s.dropLooked l).lookElse l (Look.fail (α := Image) st c e))
      | x => .next (s.lookElse l x)

/-! ### Which launch starts (R113, R122, R125) -/

/-- Whether WAIT is satisfied (R112). -/
def State.waitMet (s : State) (l : Launch) : Bool :=
  l.field 64 8 == 0 ||
    (match s.agentGet l.fn frontDie l.waitAt 8 with
     | .bytes bs => decide (l.field 72 8 ≤ natLE bs)
     | _ => false)

/-- Whether a launch's worklist is free (R116). -/
def State.wlFree (s : State) (l : Launch) : Bool := !l.wlb || (s.wl l.wlId).bound.isNone

/-- A queue head that could start if it fitted. -/
def State.ready (s : State) (l : Launch) : Bool :=
  decide (l.phase = .checked) && s.isHead l && s.waitMet l && s.wlFree l

/-- The number of a queue in the rotation. -/
def QueueId.number : QueueId → Nat
  | .host q => q
  | .device p => 64 + p

/-- How far a queue stands behind the one a launch of the same priority was last started from (R113). -/
def State.turn (s : State) (l : Launch) : Nat := (l.queue.number + 71 - lookupD 71 s.q.lastQueue l.prio) % 72

/-- Whether a head is taken before another: the higher priority, then one that was passed over, the longest waiting first,
then the rotation (R113). -/
def State.before (s : State) (a b : Launch) : Bool :=
  decide (b.prio < a.prio) || (a.prio == b.prio &&
    (match a.passed, b.passed with
     | some x, some y => decide (x < y) || (x == y && decide (s.turn a < s.turn b))
     | some _, none => true
     | none, some _ => false
     | none, none => decide (s.turn a < s.turn b)))

/-- The heads passed over when a launch starts: they stood before it and do not fit (R113). -/
def State.passOver (s : State) (l : Launch) : State :=
  { s with launches := s.launches.map fun h =>
      if h.passed.isNone && h.id != l.id && s.ready h && s.before h l then { h with passed := some s.uid } else h }

/-- Launches being saved: their room is about to be free. -/
def State.leaving (s : State) : List Nat := (s.launches.filter fun l => decide (l.phase = .saving)).map (·.id)

/-- A launch put among those that may be pre-empted: the lowest priority first, then the most recently started (R122). -/
def insertVictim (x : Launch) : List Launch → List Launch
  | [] => [x]
  | y :: r => if x.prio < y.prio ∨ (x.prio = y.prio ∧ y.order < x.order) then x :: y :: r else y :: insertVictim x r

/-- The running launches that a launch may pre-empt, in order. -/
def State.victims (s : State) (prio : Nat) : List Launch :=
  (s.launches.filter fun v => decide (v.phase = .running) && decide (v.prio < prio) && v.save != 0).foldl
    (fun acc v => insertVictim v acc) []

/-- The victims up to the one with which teams fit; none where they never do. -/
def State.neededFrom (s : State) (l : Launch) (teams : Nat) : List Nat → List Launch → List Nat
  | _, [] => []
  | gone, v :: r =>
    if s.fits (v.id :: gone) l teams then [v.id]
    else
      match s.neededFrom l teams (v.id :: gone) r with
      | [] => []
      | x => v.id :: x

/-- The launches that a launch pre-empts to place teams. -/
def State.needed (s : State) (l : Launch) (teams : Nat) : List Nat :=
  if s.fits s.leaving l teams then [] else s.neededFrom l teams s.leaving (s.victims l.prio)

/-- Whether the engine takes no launch on: after a quiesce, after a surprise down of the host link until a QCFG write (R130;
log 57), and while a die change is in progress, which finishes first (R130). -/
def State.closed (s : State) : Bool := s.q.stopped || s.q.held || s.launches.any fun l => !l.moving.isEmpty

/-- Whether a saved launch has room on its cores (R125). -/
def State.canRestore (s : State) (l : Launch) : Bool :=
  let mine := s.teams.filter fun t => t.launch == l.id && !t.ended
  let banksFor := fun c => sumList (mine.map fun t => if t.core == c then (s.banksOf l.id t.idx).length else 0)
  let free := fun c => ((upFrom 0 16).filter fun b => !(s.mat.holds.any fun h => h.core == c && h.banks.contains b)).length
  decide (l.phase = .saved) && !s.closed &&
    (dedup (mine.map (·.core))).all fun c =>
      decide ((mine.filter fun t => t.core == c).length ≤ s.coreRoom [] l c) && decide (banksFor c ≤ free c)

/-- Whether a ready head has room, or makes it by pre-empting (R113, R122). -/
def State.getsRoom (s : State) (h : Launch) : Bool :=
  s.fits [] h h.teams || s.fits s.leaving h h.teams || !(s.needed h h.teams).isEmpty

/-- Whether a saved launch is restored now: it has room, and no ready head of higher priority, for which it may have been
saved, is about to start (R122, R125). -/
def State.mayRestore (s : State) (l : Launch) : Bool :=
  s.canRestore l && s.launches.all fun h => !(s.ready h && decide (l.prio < h.prio) && s.getsRoom h)

/-- Whether the engine may start a launch now: none before it fits or can make room, and no saved launch of its priority
or above has room (R113, R125). -/
def State.mayStart (s : State) (l : Launch) : Bool :=
  s.ready l && !s.closed && s.fits [] l l.teams &&
  (s.launches.all fun h => !(s.ready h && s.before h l) || !(s.getsRoom h)) &&
  s.launches.all fun v => !(decide (l.prio ≤ v.prio) && s.canRestore v)

/-! ### Starting (R119, R367 to R369) -/

/-- A team as it starts. -/
def newTeam (l : Launch) (idx core : Nat) : Team :=
  { launch := l.id, idx := idx, core := core, ended := false,
    k := ((upFrom 0 16).map fun i => BitVec.ofNat 64 (l.field (128 + 8 * i) 8)) ++ List.replicate 368 0,
    tvec := BitVec.ofNat 64 (l.text + 4 * l.field 48 4), guards := List.replicate 64 .unresolved,
    belays := List.replicate 32 Belay.initial, tds := List.replicate 64 none, exprs := List.replicate 8 none,
    patterns := List.replicate 8 none, spad := memWrite [] 0 l.spadinit, bad := [], chunks := [] }

/-- The fibres of a team as they start. -/
def newFibres (l : Launch) (p : TeamPlace) (now : Time) : List Fibre :=
  (upFrom 0 l.nfib).map fun i =>
    let role := l.roleOf i
    newFibre ⟨l.id, p.team, i⟩ p.core (nth 0 p.parts i) role (l.windowOf role)
      (BitVec.ofNat 64 (l.text + 4 * l.field (8 + 4 * role) 4)) 0 now

/-- The handler table of a worklist's binding, from entry `i` on, with a bound on its length (R368). -/
def State.handlersFrom (s : State) (l : Launch) : Nat → Nat → Look (List Nat)
  | 0, _ => .fail 2 0 0
  | n + 1, i =>
    match s.agentGet l.fn frontDie (l.field 112 8 + 4 * i) 4 with
    | .bytes bs =>
      if natLE bs = 0xFFFFFFFF then .ok []
      else
        match s.safeSearch l frontDie (natLE bs) with
        | .ok true => (s.handlersFrom l n (i + 1)).bind fun r => .ok (natLE bs :: r)
        | .ok false => .fail 2 0 0
        | .error (.line p) => .away p
        | .error (.walk p f w) => .walk p f w
    | .away p => if s.gone p then .fail 2 0 0 else .away p
    | .fault (.walk p f w) => .walk p f w
    | .fault (.violation _ c e) => .fail 2 c e
    | .fault _ => .fail 2 0 0

/-- Whether every page of the spill area is mapped, writable and not replicated (R369). -/
def State.spillOk (s : State) (l : Launch) : List Nat → Look Unit
  | [] => .ok ()
  | page :: r =>
    match s.translate (.engine 4) l.fn (page * 65536) true with
    | .ok leaf => match leaf.base with
      | .repl _ => .fail 2 0 0
      | _ => s.spillOk l r
    | .walk p f w => .walk p f w
    | .violation c e => .fail 2 c e
    | .page _ => .fail 2 0 0

/-- The binding of a launch's worklist looked at: the handlers to copy. -/
def State.lookBinding (s : State) (l : Launch) : Look (List Nat) :=
  Look.check 2 (l.field 112 8 % 4 == 0) <|
  (s.handlersFrom l 257 0).bind fun hs =>
  Look.check 2 (!hs.isEmpty) <|
  (s.spillOk l (upFrom (l.field 104 8 / 65536) (l.field 120 4))).bind fun _ => .ok hs

/-- The worklist bound: empty, OPEN, every count zero (R367). -/
def State.bindWl (s : State) (l : Launch) (handlers : List Nat) : State :=
  s.onWl l.wlId fun _ =>
    { Worklist.initial with bound := some l.id, delta := l.field 125 1, shift := l.field 124 1, handlers := handlers,
                            spill := l.field 104 8, spillSize := l.field 120 4, sweptAt := s.ftime }

/-- Teams and fibres of a placement put in place. -/
def State.startTeams (s : State) (l : Launch) (place : List TeamPlace) : State :=
  let mine := fun (launch team : Nat) => launch == l.id && place.any fun p => p.team == team
  { s with teams := (s.teams.filter fun t => !(mine t.launch t.idx)) ++ place.map fun p => newTeam l p.team p.core,
           fibres := (s.fibres.filter fun f => !(mine f.key.launch f.key.team)) ++ place.flatMap fun p => newFibres l p s.ftime }

/-- The grid of a launch started on a placement. -/
def State.startGrid (s : State) (l : Launch) (place : List TeamPlace) : State :=
  let s := (s.passOver l).startTeams l place
  let s := s.onLaunch l.id fun l =>
    { l with phase := .running, start := s.ftime, order := s.uid, dies := dedup (place.map fun p => dieOfCore p.core) }
  { s with uid := s.uid + 1, q := { s.q with lastQueue := putNat s.q.lastQueue l.prio l.queue.number } }

/-- A launch that may start, started on a placement, its worklist bound first. -/
def State.startLaunch (s : State) (l : Launch) (place : List TeamPlace) : State :=
  if !(s.validPlace [] l (upFrom 0 l.teams) place) then s
  else if !l.wlb then s.startGrid l place
  else
    match s.lookBinding l with
    | .ok hs => ((s.dropFar (s.linesOf l.fn (l.field 112 8) (4 * hs.length + 4))).bindWl l hs).startGrid l place
    | .fail st c e => (s.dropFar (s.linesOf l.fn (l.field 112 8) 1028)).lookElse l (Look.fail (α := List Nat) st c e)
    | x => s.lookElse l x

/-- LAUNCH_START (R113): The engine places a whole grid and starts its fibres. A WAIT counter that is not met is read
again. -/
def execLaunchStart (launch : Nat) (place : List TeamPlace) (s : State) : Host.Outcome State Fault Refusal :=
  match s.launch? launch with
  | none => .next s
  | some l =>
    if l.phase ≠ .checked then .next s
    else if s.mayStart l then .next (s.startLaunch l place)
    else if l.field 64 8 = 0 || s.waitMet l then .next s
    else
      match s.look l 2 l.waitAt 8 with
      | .ok _ => .next (s.dropFar (s.linesOf l.fn l.waitAt 8))
      | x => .next (s.lookElse l x)

/-! ### Restarting a rope (R127) -/

/-- The teams of a rope. -/
def Launch.ropeTeams (l : Launch) (rope : Nat) : List Nat := upFrom (rope * l.rope) l.rope

/-- The dies of a launch's teams that have not ended, those of a placement in place of `moved` among them. -/
def State.diesWith (s : State) (launch : Nat) (moved : List Nat) (place : List TeamPlace) : List Nat :=
  let stay := s.teams.filter fun t => t.launch == launch && !t.ended && !(moved.contains t.idx)
  dedup (stay.map (fun t => dieOfCore t.core) ++ place.map fun p => dieOfCore p.core)

/-- Whether a lost rope waits to be restarted: with RESTART, in its step for the first time, all its fibres ended. -/
def State.restartable (s : State) (l : Launch) (rope : Nat) : Bool :=
  decide (l.phase = .running) && (l.lost.any fun x => x.rope == rope && !x.restarted && !x.counted) &&
    s.fibres.all fun f => !(inRope l rope f) || decide (f.status = .ended)

/-- A lost rope given up: its fibres count as arrived, and the launch ends with status 3. -/
def State.giveUpRope (s : State) (l : Launch) (rope : Nat) : State :=
  (s.onLaunch l.id fun l =>
    { l with status := 3, lost := l.lost.map fun x => if x.rope == rope && !x.restarted then { x with counted := true } else x }).tryStep l.id

/-- ROPE_LOSS_TIMEOUT (R126): 10 µs after the error the fibres of a lost rope that remain end fatally with ROPE_LOST. No word
of such a fibre faults, and the spec names no PC for its TYPE 1 entry: the entry holds the fibre's own (log 62). -/
def execRopeLossTimeout (launch rope : Nat) (s : State) : Host.Outcome State Fault Refusal :=
  match s.launch? launch with
  | none => .next s
  | some l =>
    let due := l.lost.any fun x => x.rope == rope && !x.restarted && !x.forced && decide (x.at_ + 25000 ≤ s.ftime)
    if !due || !(decide (l.phase = .running) || decide (l.phase = .saving)) then .next s
    else
      let left := s.fibres.filter fun f => inRope l rope f && decide (f.status ≠ .ended)
      let s := left.foldl (fun s f => s.endFatal f 0x0C f.pc) ((s.dropDrains left).endBelays launch (l.ropeTeams rope))
      let s := { s with batches := s.batches.filter fun b => !b.members.isEmpty }
      .next ((s.dropWork launch (l.ropeTeams rope)).onLaunch launch fun l =>
        { l with lost := l.lost.map fun x => if x.rope == rope && !x.restarted then { x with forced := true } else x })

end Sys2Proof.Machine
end

