-- ==== Sys2Proof/WellFormed.lean ====
section
/-! DEFINITION. Which instruction terms stand for an instruction of the VG8: the words whose every field value the
encoding chapter admits (R38, R47, R52, R56, R197), and the events whose indexes name a part that the package has. -/

namespace Sys2Proof

/-- R38: the combine rules 0 to 3. -/
def cbOk (c : BitVec 3) : Bool := decide (c.toNat < 4)

/-- R56: a word that must end its run when the given condition holds. -/
def endsIf (h : Hdr) (must : Bool) : Bool := h.e || !must

/-- Well-formedness: every constructor has its line. -/
def Instr.wf : Instr → Bool
  | .add .. => true
  | .sub .. => true
  | .and .. => true
  | .or .. => true
  | .xor .. => true
  | .andn .. => true
  | .min .. => true
  | .max .. => true
  | .intiAdd .. => true
  | .intiSub .. => true
  | .intiAnd .. => true
  | .intiOr .. => true
  | .intiXor .. => true
  | .intiAndn .. => true
  | .intiMin .. => true
  | .intiMax .. => true
  | .minu .. => true
  | .maxu .. => true
  | .addw .. => true
  | .subw .. => true
  | .absd .. => true
  | .clz .. => true
  | .ctz .. => true
  | .popc .. => true
  | .shl .. => true
  | .shr .. => true
  | .sar .. => true
  | .rol .. => true
  | .shlw .. => true
  | .shrw .. => true
  | .sarw .. => true
  | .brev .. => true
  | .shiftiShl .. => true
  | .shiftiShr .. => true
  | .shiftiSar .. => true
  | .shiftiRol .. => true
  | .shiftiShlw .. => true
  | .shiftiShrw .. => true
  | .shiftiSarw .. => true
  | .mul .. => true
  | .mulh .. => true
  | .mulhu .. => true
  | .mulw .. => true
  | .div .. => true
  | .divu .. => true
  | .rem .. => true
  | .remu .. => true
  | .lea0 .. => true
  | .lea1 .. => true
  | .lea2 .. => true
  | .lea3 .. => true
  | .cmpEq _ _ c _ _ => cbOk c
  | .cmpNe _ _ c _ _ => cbOk c
  | .cmpLt _ _ c _ _ => cbOk c
  | .cmpLe _ _ c _ _ => cbOk c
  | .cmpLtu _ _ c _ _ => cbOk c
  | .cmpLeu _ _ c _ _ => cbOk c
  | .cmpTst _ _ c _ _ => cbOk c
  | .cmpNtst _ _ c _ _ => cbOk c
  | .cmpiEq _ _ c _ _ => cbOk c
  | .cmpiNe _ _ c _ _ => cbOk c
  | .cmpiLt _ _ c _ _ => cbOk c
  | .cmpiLe _ _ c _ _ => cbOk c
  | .cmpiLtu _ _ c _ _ => cbOk c
  | .cmpiLeu _ _ c _ _ => cbOk c
  | .cmpiTst _ _ c _ _ => cbOk c
  | .cmpiNtst _ _ c _ _ => cbOk c
  | .pand .. => true
  | .por .. => true
  | .pxor .. => true
  | .pnot .. => true
  | .pwget .. => true
  | .pwset .. => true
  | .li .. => true
  | .sel .. => true
  | .getsr .. => true
  | .setsr .. => true
  | .getk .. => true
  | .putk .. => true
  | .addB .. => true
  | .addH .. => true
  | .addW .. => true
  | .addsB .. => true
  | .addsH .. => true
  | .addsuB .. => true
  | .addsuH .. => true
  | .avgrH .. => true
  | .subB .. => true
  | .subH .. => true
  | .subW .. => true
  | .subsB .. => true
  | .subsH .. => true
  | .subsuB .. => true
  | .subsuH .. => true
  | .absdfH .. => true
  | .mullH .. => true
  | .mulhH .. => true
  | .mulhrH .. => true
  | .mullW .. => true
  | .dot2H .. => true
  | .dot4B .. => true
  | .dot2uB .. => true
  | .madlH .. => true
  | .shlH .. => true
  | .shrH .. => true
  | .sarH .. => true
  | .sarrH .. => true
  | .shlW .. => true
  | .sarW .. => true
  | .sarrW .. => true
  | .narrowsWh .. => true
  | .vshiftiShlH .. => true
  | .vshiftiShrH .. => true
  | .vshiftiSarH .. => true
  | .vshiftiSarrH .. => true
  | .vshiftiShlW .. => true
  | .vshiftiSarW .. => true
  | .vshiftiSarrW .. => true
  | .vshiftiNarrowsWh .. => true
  | .minH .. => true
  | .maxH .. => true
  | .minB .. => true
  | .maxB .. => true
  | .minuB .. => true
  | .maxuB .. => true
  | .minW .. => true
  | .maxW .. => true
  | .eqB .. => true
  | .eqH .. => true
  | .eqW .. => true
  | .gtB .. => true
  | .gtH .. => true
  | .gtW .. => true
  | .gtuB .. => true
  | .gtuH .. => true
  | .shufH .. => true
  | .ziploH .. => true
  | .ziphiH .. => true
  | .unzipH .. => true
  | .extzB .. => true
  | .extsB .. => true
  | .bcastH .. => true
  | .insH .. => true
  | .addS2 .. => true
  | .addH4 .. => true
  | .addBh4 .. => true
  | .subS2 .. => true
  | .subH4 .. => true
  | .subBh4 .. => true
  | .mulS2 .. => true
  | .mulH4 .. => true
  | .mulBh4 .. => true
  | .fmaS2 .. => true
  | .fmaH4 .. => true
  | .fmaBh4 .. => true
  | .fmsS2 .. => true
  | .fnmaS2 .. => true
  | .minS2 .. => true
  | .maxS2 .. => true
  | .minH4 .. => true
  | .maxH4 .. => true
  | .minBh4 .. => true
  | .maxBh4 .. => true
  | .absS2 .. => true
  | .negS2 .. => true
  | .eqS2 .. => true
  | .ltS2 .. => true
  | .leS2 .. => true
  | .unS2 .. => true
  | .eqH4 .. => true
  | .ltH4 .. => true
  | .leH4 .. => true
  | .unH4 .. => true
  | .cvtS2H4lo .. => true
  | .cvtS2H4hi .. => true
  | .cvtH4S2 .. => true
  | .cvtBh4S2 .. => true
  | .cvtE4m3S2 .. => true
  | .cvtS2E4m3 .. => true
  | .cvtS2W .. => true
  | .cvtWS2 .. => true
  | .cvtE5m2S2 .. => true
  | .cvtS2E5m2 .. => true
  | .cvtS2Bh4lo .. => true
  | .cvtS2Bh4hi .. => true
  | .cvtH4E4m3 .. => true
  | .cvtE4m3H4 .. => true
  | .truncWS2 .. => true
  | .cvtS2Wz .. => true
  | .rcpS2 .. => true
  | .rsqS2 .. => true
  | .sqrtS2 .. => true
  | .exp2S2 .. => true
  | .log2S2 .. => true
  | .sinS2 .. => true
  | .cosS2 .. => true
  | .tanhS2 .. => true
  | .expr .. => true
  | .br .. => true
  | .call .. => true
  | .jr .. => true
  | .jrl .. => true
  | .ret .. => true
  | .trap .. => true
  | .rtt .. => true
  | .brk .. => true
  | .spawn .. => true
  | .spawnt .. => true
  | .endFibre .. => true
  | .yield .. => true
  | .sleept .. => true
  | .step .. => true
  | .ropebar .. => true
  | .nop .. => true
  | .fenceRel .. => true
  | .fenceAcq .. => true
  | .fenceAr .. => true
  | .ldaq .. => true
  | .strel .. => true
  | .waitg .. => true
  | .pref .. => true
  | .clwb .. => true
  | .ldb .. => true
  | .ldbz .. => true
  | .ldh .. => true
  | .ldhz .. => true
  | .ldw .. => true
  | .ldwz .. => true
  | .ldd .. => true
  | .ldq .. => true
  | .stb .. => true
  | .sth .. => true
  | .stw .. => true
  | .std .. => true
  | .stq .. => true
  | .ldbL .. => true
  | .ldbzL .. => true
  | .ldhL .. => true
  | .ldhzL .. => true
  | .ldwL .. => true
  | .ldwzL .. => true
  | .lddL .. => true
  | .ldqL .. => true
  | .stbL .. => true
  | .sthL .. => true
  | .stwL .. => true
  | .stdL .. => true
  | .stqL .. => true
  | .amin .. => true
  | .amax .. => true
  | .aminu .. => true
  | .amaxu .. => true
  | .aor .. => true
  | .aand .. => true
  | .aadd .. => true
  | .aswap .. => true
  | .aminW .. => true
  | .amaxW .. => true
  | .aminuW .. => true
  | .amaxuW .. => true
  | .aorW .. => true
  | .aandW .. => true
  | .aaddW .. => true
  | .aswapW .. => true
  | .cas .. => true
  | .casw .. => true
  | .faddS .. => true
  | .fmaxS .. => true
  | .aminL .. => true
  | .amaxL .. => true
  | .aminuL .. => true
  | .amaxuL .. => true
  | .aorL .. => true
  | .aandL .. => true
  | .aaddL .. => true
  | .aswapL .. => true
  | .arm .. => true
  | .sign h _ w _ _ => endsIf h w
  | .vote h _ w _ _ => endsIf h w
  | .scan h _ w _ _ => endsIf h w
  | .xchg h _ w _ _ => endsIf h w
  | .bar .. => true
  | .redmax h _ w _ _ => endsIf h w
  | .redadd h _ w _ _ => endsIf h w
  | .mmaE4m3 .. => true
  | .mmapE4m3 .. => true
  | .mmaH .. => true
  | .mmaBh .. => true
  | .mmaI8 .. => true
  | .aballoc .. => true
  | .abfree .. => true
  | .drain .. => true
  | .accz .. => true
  | .accld .. => true
  | .tdset .. => true
  | .tdinv .. => true
  | .tbld .. => true
  | .cpy .. => true
  | .cpy2d .. => true
  | .fill .. => true
  | .cpyfp .. => true
  | .cmpb .. => true
  | .spmap .. => true
  | .spfill .. => true
  | .spwb .. => true
  | .spunmap .. => true
  | .gather .. => true
  | .gsum .. => true
  | .gmax .. => true
  | .scatter .. => true
  | .scadd .. => true
  | .hamd .. => true
  | .wpush .. => true
  | .wpushs .. => true
  | .wpop h _ _ k => endsIf h k
  | .wpopw .. => true
  | .wdone .. => true
  | .wbound .. => true
  | .wterm .. => true
  | .wstat .. => true
  | .launch .. => true
  | .evsig .. => true
  | .evwait .. => true
  | .gset .. => true
  | .gclr .. => true
  | .grst .. => true
  | .hintLit .. => true
  | .hintLith .. => true
  | .hintVec m v _ _ _ _ => !(m == 0 && v)
  | .hintMemo _ _ _ c => decide (c.toNat < 3)
  | .hintGuard .. => true
  | .hintSched .. => true
  | .hintKsrc .. => true
  | .runSelection core part slot _ => core < 264 && part < 12 && slot < 2
  | .commandAcceptance .. => true
  | .copyCommandComplete .. => true
  | .lnchCommandComplete .. => true
  | .promiseMissed .. => true
  | .sleepWake .. => true
  | .fenceWaitEnd .. => true
  | .releaseHoldIssue .. => true
  | .l1Fill .. => true
  | .longLatencyResult .. => true
  | .writeArrival .. => true
  | .gwctPassed .. => true
  | .atomicExecution .. => true
  | .replicatedWriteSequence .. => true
  | .writeMergeWindow core => core < 264
  | .remoteScratchpadAccess .. => true
  | .chunkFillComplete .. => true
  | .faultRequest .. => true
  | .frespRetry fn _ => fn < 64
  | .frespDeny fn _ => fn < 64
  | .tinvcmd fn _ => fn < 64
  | .invalidationComplete fn => fn < 64
  | .fqcfgWrite fn _ => fn < 64
  | .peerTranslationRecall .. => true
  | .peerLeaseExpiry .. => true
  | .matrixQueueEntryComplete .. => true
  | .aballocGrant core => core < 264
  | .evwaitSatisfied .. => true
  | .hostQueueSlotRead q => q < 64
  | .deviceQueueHeadTake p => p < 8
  | .launchCheck .. => true
  | .launchStart .. => true
  | .preemption .. => true
  | .launchRestore .. => true
  | .dieSetChange .. => true
  | .launchCompletion .. => true
  | .coreUncorrectableError core _ _ => core < 264
  | .ropeLossTimeout .. => true
  | .ropeRestart .. => true
  | .gatherSplit .. => true
  | .msePartService _ home => home < 12
  | .scaddContributionApply .. => true
  | .gatherMerge .. => true
  | .gatherGrantRequest .. => true
  | .gatherGrant .. => true
  | .pushAcceptance .. => true
  | .inversionPushAnnounced .. => true
  | .horizonBroadcast wl => wl < 8
  | .wpopwDelivery .. => true
  | .idleRequest wl core => wl < 8 && core < 264
  | .taskTransferArrival wl core => wl < 8 && core < 264
  | .terminationSweep wl => wl < 8
  | .packetDataFlit port _ => port < 48
  | .timeSyncFlit port _ _ => port < 48
  | .controlFlit port _ => port < 48
  | .idleFlit port _ => port < 48
  | .flitReplay port => port < 48
  | .flitIdleTimer port => port < 48
  | .timeSyncTimer port => port < 48
  | .portRetrain port _ => port < 48
  | .retrainComplete port _ => port < 48
  | .lossOfSignal port => port < 48
  | .flowletGapExpiry sw _ port => sw < 2 && port < 48
  | .d2dLinkFailure a b => a < 4 && b < 4 && a != b
  | .fabricJoin id _ _ _ => id < 4096
  | .joinNotice peer _ => peer < 4096
  | .departureNotice peer => peer < 4096
  | .remoteRequest .. => true
  | .remoteReply .. => true
  | .hostSurpriseDown .. => true
  | .atsInvalidationRequest .. => true
  | .bar2Write .. => true
  | .bar2Read .. => true
  | .qtailDoorbell fn q _ => fn < 64 && q < 64
  | .qcfgWrite fn q _ => fn < 64 && q < 64
  | .fabcfgWrite .. => true
  | .mcdataWrite .. => true
  | .errcfgWrite .. => true
  | .errlostClear .. => true
  | .mstatReasonClear .. => true
  | .registerWrite fn _ _ => fn < 64
  | .getstat .. => true
  | .quiesce .. => true
  | .resume .. => true
  | .retire core => core < 264
  | .porten port => port < 48
  | .keyset slot _ => slot < 8192
  | .keyerase slot => slot < 8192
  | .attest .. => true
  | .fwload .. => true
  | .counters .. => true
  | .coreRetirement core => core < 264
  | .hbmRowRemap stack _ _ => stack < 12
  | .rowRemapComplete stack _ => stack < 12
  | .correctedError _ die _ => die < 4
  | .uncorrectableMemoryError .. => true
  | .fatalError .. => true
  | .packagePowerLimit .. => true
  | .dieTemperatureLimit die => die < 4
  | .powerTrip .. => true
  | .thermalTrip die => die < 4
  | .coolantOutOfRange .. => true
  | .moduleReset .. => true
  | .fqheadWrite fn _ => fn < 64
  | .hostLinkTrained .. => true
  | .portTrainingComplete port _ => port < 48
  | .quiesceComplete .. => true
  | .fatalDumpComplete .. => true

end Sys2Proof
end

