-- ==== Sys2Proof/Decode.lean ====
section
/-! DEFINITION. Decoding an instruction word (R35 to R57), rejecting by name, and encoding one. Both follow the
format tables of the encoding chapter and the opcode map R55. (Instr has more constructors than Lean's code
generator can tag, 244, so what builds its terms is marked noncomputable; the kernel evaluates it.) -/

noncomputable section

namespace Sys2Proof

/-- Why a word is not an instruction (R52, R54). -/
inductive Illegal where
  /-- Fewer than four bytes. -/
  | truncated
  /-- A reserved major opcode (R55). -/
  | reservedMajor
  /-- A reserved FN, SZ or KIND value (R55). -/
  | reservedFn
  /-- A combine rule of 4 to 7 (R38). -/
  | badCombine
  /-- A reserved payload value: cache policy 3, or negation of an absent mask (R47, R197). -/
  | badPayload
  /-- A reserved bit that is not zero (R40, R46). -/
  | reservedBits
  /-- A word that can redirect control or block, without E (R56). -/
  | missingE
  deriving DecidableEq, Repr

/-- The field of `len` bits whose lowest bit is bit `lo`. -/
def fld (len lo n : Nat) : BitVec len := BitVec.ofNat len (n / 2 ^ lo)

/-- Bit `lo`. -/
def bitAt (lo n : Nat) : Bool := n / 2 ^ lo % 2 == 1

/-- The number a bit stands for. -/
def bitNat (b : Bool) : Nat := if b then 1 else 0

/-- The body of the formats A, I and X-free words (R37): FN, D, SA, SB or imm6. -/
def bodyA (fn : Nat) (d a b : BitVec 6) : Nat := fn * 2 ^ 18 + d.toNat * 2 ^ 12 + a.toNat * 2 ^ 6 + b.toNat

/-- The body of format P (R37): FN, PD, CB, SA, SB or imm6. -/
def bodyP (fn : Nat) (p c : BitVec 3) (a b : BitVec 6) : Nat :=
  fn * 2 ^ 18 + p.toNat * 2 ^ 15 + c.toNat * 2 ^ 12 + a.toNat * 2 ^ 6 + b.toNat

/-- The body of PRED FN 0-3 (R169): predicate indices in bits [2:0] of the three operand fields. -/
def bodyPred (fn : Nat) (d a b : BitVec 3) : Nat := fn * 2 ^ 18 + d.toNat * 2 ^ 12 + a.toNat * 2 ^ 6 + b.toNat

/-- The body of LI (R37): D and imm15. -/
def bodyLi (d : BitVec 6) (i : BitVec 15) : Nat := d.toNat * 2 ^ 15 + i.toNat

/-- The body of GETK and PUTK (R57) and, with D zero, of TRAP (R176). -/
def bodyK (fn : Nat) (d : BitVec 6) (k : BitVec 12) : Nat := fn * 2 ^ 18 + d.toNat * 2 ^ 12 + k.toNat

/-- The body of format X (R37): SCOPE, ORD, FN, SA, SB. -/
def bodyX (fn : Nat) (s : BitVec 3) (o : BitVec 2) (a b : BitVec 6) : Nat :=
  s.toNat * 2 ^ 18 + o.toNat * 2 ^ 16 + fn * 2 ^ 12 + a.toNat * 2 ^ 6 + b.toNat

/-- The body of format Y (R37): FN, BL, W, SA, D. -/
def bodyY (fn : Nat) (l : BitVec 5) (w : Bool) (a d : BitVec 6) : Nat :=
  fn * 2 ^ 18 + l.toNat * 2 ^ 13 + bitNat w * 2 ^ 12 + a.toNat * 2 ^ 6 + d.toNat

/-- The body of format T (R37): BL, RU, FN, SA, SB. -/
def bodyT (fn : Nat) (l : BitVec 5) (r : Bool) (a b : BitVec 6) : Nat :=
  l.toNat * 2 ^ 16 + bitNat r * 2 ^ 15 + fn * 2 ^ 12 + a.toNat * 2 ^ 6 + b.toNat

/-- The body of format W (R37): FN, WL, two zero bits, D or SA, SB. -/
def bodyW (fn : Nat) (w : BitVec 3) (a b : BitVec 6) : Nat :=
  fn * 2 ^ 17 + w.toNat * 2 ^ 14 + a.toNat * 2 ^ 6 + b.toNat

/-- A word from its header and body (R35). -/
def packWord (maj : Nat) (e : Bool) (pg : BitVec 3) (pn : Bool) (body : Nat) : W32 :=
  BitVec.ofNat 32 (maj * 2 ^ 26 + bitNat e * 2 ^ 25 + pg.toNat * 2 ^ 22 + bitNat pn * 2 ^ 21 + body)

/-- A hint word from its kind and payload (R45). -/
def packHint (kind payload : Nat) : W32 := BitVec.ofNat 32 (63 * 2 ^ 26 + kind * 2 ^ 22 + payload)

/-- A word whose reserved bits must be zero (R40). -/
def reservedZero (zero : Bool) (i : Instr) : Except Illegal Instr := if zero then .ok i else .error .reservedBits

/-- A word that must carry E = 1 (R56), after its reserved bits. -/
def needE (e zero : Bool) (i : Instr) : Except Illegal Instr :=
  if zero then (if e then .ok i else .error .missingE) else .error .reservedBits

/-- Major 0x1, INT (R163). -/
def decInt (e : Bool) (pg : BitVec 3) (pn : Bool) (n : Nat) : Except Illegal Instr :=
  let d := fld 6 12 n
  let a := fld 6 6 n
  let b := fld 6 0 n
  match n / 2 ^ 18 % 8 with
  | 0 => .ok (.add ⟨e, pg, pn⟩ d a b)
  | 1 => .ok (.sub ⟨e, pg, pn⟩ d a b)
  | 2 => .ok (.and ⟨e, pg, pn⟩ d a b)
  | 3 => .ok (.or ⟨e, pg, pn⟩ d a b)
  | 4 => .ok (.xor ⟨e, pg, pn⟩ d a b)
  | 5 => .ok (.andn ⟨e, pg, pn⟩ d a b)
  | 6 => .ok (.min ⟨e, pg, pn⟩ d a b)
  | _ => .ok (.max ⟨e, pg, pn⟩ d a b)

/-- Major 0x2, INTI (R163). -/
def decInti (e : Bool) (pg : BitVec 3) (pn : Bool) (n : Nat) : Except Illegal Instr :=
  let d := fld 6 12 n
  let a := fld 6 6 n
  let b := fld 6 0 n
  match n / 2 ^ 18 % 8 with
  | 0 => .ok (.intiAdd ⟨e, pg, pn⟩ d a b)
  | 1 => .ok (.intiSub ⟨e, pg, pn⟩ d a b)
  | 2 => .ok (.intiAnd ⟨e, pg, pn⟩ d a b)
  | 3 => .ok (.intiOr ⟨e, pg, pn⟩ d a b)
  | 4 => .ok (.intiXor ⟨e, pg, pn⟩ d a b)
  | 5 => .ok (.intiAndn ⟨e, pg, pn⟩ d a b)
  | 6 => .ok (.intiMin ⟨e, pg, pn⟩ d a b)
  | _ => .ok (.intiMax ⟨e, pg, pn⟩ d a b)

/-- Major 0x3, INTX (R164). -/
def decIntx (e : Bool) (pg : BitVec 3) (pn : Bool) (n : Nat) : Except Illegal Instr :=
  let d := fld 6 12 n
  let a := fld 6 6 n
  let b := fld 6 0 n
  match n / 2 ^ 18 % 8 with
  | 0 => .ok (.minu ⟨e, pg, pn⟩ d a b)
  | 1 => .ok (.maxu ⟨e, pg, pn⟩ d a b)
  | 2 => .ok (.addw ⟨e, pg, pn⟩ d a b)
  | 3 => .ok (.subw ⟨e, pg, pn⟩ d a b)
  | 4 => .ok (.absd ⟨e, pg, pn⟩ d a b)
  | 5 => reservedZero (b == 0) (.clz ⟨e, pg, pn⟩ d a)
  | 6 => reservedZero (b == 0) (.ctz ⟨e, pg, pn⟩ d a)
  | _ => reservedZero (b == 0) (.popc ⟨e, pg, pn⟩ d a)

/-- Major 0x4, SHIFT (R165). -/
def decShift (e : Bool) (pg : BitVec 3) (pn : Bool) (n : Nat) : Except Illegal Instr :=
  let d := fld 6 12 n
  let a := fld 6 6 n
  let b := fld 6 0 n
  match n / 2 ^ 18 % 8 with
  | 0 => .ok (.shl ⟨e, pg, pn⟩ d a b)
  | 1 => .ok (.shr ⟨e, pg, pn⟩ d a b)
  | 2 => .ok (.sar ⟨e, pg, pn⟩ d a b)
  | 3 => .ok (.rol ⟨e, pg, pn⟩ d a b)
  | 4 => .ok (.shlw ⟨e, pg, pn⟩ d a b)
  | 5 => .ok (.shrw ⟨e, pg, pn⟩ d a b)
  | 6 => .ok (.sarw ⟨e, pg, pn⟩ d a b)
  | _ => reservedZero (b == 0) (.brev ⟨e, pg, pn⟩ d a)

/-- Major 0x5, SHIFTI (R165). -/
def decShifti (e : Bool) (pg : BitVec 3) (pn : Bool) (n : Nat) : Except Illegal Instr :=
  let d := fld 6 12 n
  let a := fld 6 6 n
  let b := fld 6 0 n
  match n / 2 ^ 18 % 8 with
  | 0 => .ok (.shiftiShl ⟨e, pg, pn⟩ d a b)
  | 1 => .ok (.shiftiShr ⟨e, pg, pn⟩ d a b)
  | 2 => .ok (.shiftiSar ⟨e, pg, pn⟩ d a b)
  | 3 => .ok (.shiftiRol ⟨e, pg, pn⟩ d a b)
  | 4 => .ok (.shiftiShlw ⟨e, pg, pn⟩ d a b)
  | 5 => .ok (.shiftiShrw ⟨e, pg, pn⟩ d a b)
  | 6 => .ok (.shiftiSarw ⟨e, pg, pn⟩ d a b)
  | _ => .error .reservedFn

/-- Major 0x6, MUL (R166). -/
def decMul (e : Bool) (pg : BitVec 3) (pn : Bool) (n : Nat) : Except Illegal Instr :=
  let d := fld 6 12 n
  let a := fld 6 6 n
  let b := fld 6 0 n
  match n / 2 ^ 18 % 8 with
  | 0 => .ok (.mul ⟨e, pg, pn⟩ d a b)
  | 1 => .ok (.mulh ⟨e, pg, pn⟩ d a b)
  | 2 => .ok (.mulhu ⟨e, pg, pn⟩ d a b)
  | 3 => .ok (.mulw ⟨e, pg, pn⟩ d a b)
  | 4 => .ok (.div ⟨e, pg, pn⟩ d a b)
  | 5 => .ok (.divu ⟨e, pg, pn⟩ d a b)
  | 6 => .ok (.rem ⟨e, pg, pn⟩ d a b)
  | _ => .ok (.remu ⟨e, pg, pn⟩ d a b)

/-- Major 0x7, LEA (R167). -/
def decLea (e : Bool) (pg : BitVec 3) (pn : Bool) (n : Nat) : Except Illegal Instr :=
  let d := fld 6 12 n
  let a := fld 6 6 n
  let b := fld 6 0 n
  match n / 2 ^ 18 % 8 with
  | 0 => .ok (.lea0 ⟨e, pg, pn⟩ d a b)
  | 1 => .ok (.lea1 ⟨e, pg, pn⟩ d a b)
  | 2 => .ok (.lea2 ⟨e, pg, pn⟩ d a b)
  | 3 => .ok (.lea3 ⟨e, pg, pn⟩ d a b)
  | _ => .error .reservedFn

/-- Major 0x8, CMP (R168). -/
def decCmp (e : Bool) (pg : BitVec 3) (pn : Bool) (n : Nat) : Except Illegal Instr :=
  let p := fld 3 15 n
  let c := fld 3 12 n
  let a := fld 6 6 n
  let b := fld 6 0 n
  match n / 2 ^ 18 % 8 with
  | 0 => if cbOk c then .ok (.cmpEq ⟨e, pg, pn⟩ p c a b) else .error .badCombine
  | 1 => if cbOk c then .ok (.cmpNe ⟨e, pg, pn⟩ p c a b) else .error .badCombine
  | 2 => if cbOk c then .ok (.cmpLt ⟨e, pg, pn⟩ p c a b) else .error .badCombine
  | 3 => if cbOk c then .ok (.cmpLe ⟨e, pg, pn⟩ p c a b) else .error .badCombine
  | 4 => if cbOk c then .ok (.cmpLtu ⟨e, pg, pn⟩ p c a b) else .error .badCombine
  | 5 => if cbOk c then .ok (.cmpLeu ⟨e, pg, pn⟩ p c a b) else .error .badCombine
  | 6 => if cbOk c then .ok (.cmpTst ⟨e, pg, pn⟩ p c a b) else .error .badCombine
  | _ => if cbOk c then .ok (.cmpNtst ⟨e, pg, pn⟩ p c a b) else .error .badCombine

/-- Major 0x9, CMPI (R168). -/
def decCmpi (e : Bool) (pg : BitVec 3) (pn : Bool) (n : Nat) : Except Illegal Instr :=
  let p := fld 3 15 n
  let c := fld 3 12 n
  let a := fld 6 6 n
  let b := fld 6 0 n
  match n / 2 ^ 18 % 8 with
  | 0 => if cbOk c then .ok (.cmpiEq ⟨e, pg, pn⟩ p c a b) else .error .badCombine
  | 1 => if cbOk c then .ok (.cmpiNe ⟨e, pg, pn⟩ p c a b) else .error .badCombine
  | 2 => if cbOk c then .ok (.cmpiLt ⟨e, pg, pn⟩ p c a b) else .error .badCombine
  | 3 => if cbOk c then .ok (.cmpiLe ⟨e, pg, pn⟩ p c a b) else .error .badCombine
  | 4 => if cbOk c then .ok (.cmpiLtu ⟨e, pg, pn⟩ p c a b) else .error .badCombine
  | 5 => if cbOk c then .ok (.cmpiLeu ⟨e, pg, pn⟩ p c a b) else .error .badCombine
  | 6 => if cbOk c then .ok (.cmpiTst ⟨e, pg, pn⟩ p c a b) else .error .badCombine
  | _ => if cbOk c then .ok (.cmpiNtst ⟨e, pg, pn⟩ p c a b) else .error .badCombine

/-- Major 0xa, PRED (R169). -/
def decPred (e : Bool) (pg : BitVec 3) (pn : Bool) (n : Nat) : Except Illegal Instr :=
  let d := fld 6 12 n
  let a := fld 6 6 n
  let b := fld 6 0 n
  match n / 2 ^ 18 % 8 with
  | 0 => reservedZero (d.toNat < 8 && a.toNat < 8 && b.toNat < 8) (.pand ⟨e, pg, pn⟩ (fld 3 12 n) (fld 3 6 n) (fld 3 0 n))
  | 1 => reservedZero (d.toNat < 8 && a.toNat < 8 && b.toNat < 8) (.por ⟨e, pg, pn⟩ (fld 3 12 n) (fld 3 6 n) (fld 3 0 n))
  | 2 => reservedZero (d.toNat < 8 && a.toNat < 8 && b.toNat < 8) (.pxor ⟨e, pg, pn⟩ (fld 3 12 n) (fld 3 6 n) (fld 3 0 n))
  | 3 => reservedZero (d.toNat < 8 && a.toNat < 8 && b == 0) (.pnot ⟨e, pg, pn⟩ (fld 3 12 n) (fld 3 6 n))
  | 4 => reservedZero (a == 0 && b == 0) (.pwget ⟨e, pg, pn⟩ d)
  | 5 => reservedZero (d == 0 && b == 0) (.pwset ⟨e, pg, pn⟩ a)
  | _ => .error .reservedFn

/-- Major 0xb, LI (R170). -/
def decLi (e : Bool) (pg : BitVec 3) (pn : Bool) (n : Nat) : Except Illegal Instr :=
  let d := fld 6 15 n
  let i := fld 15 0 n
  .ok (.li ⟨e, pg, pn⟩ d i)

/-- Major 0xc, SEL (R171). -/
def decSel (e : Bool) (pg : BitVec 3) (pn : Bool) (n : Nat) : Except Illegal Instr :=
  let p := fld 3 18 n
  let d := fld 6 12 n
  let a := fld 6 6 n
  let b := fld 6 0 n
  .ok (.sel ⟨e, pg, pn⟩ p d a b)

/-- Major 0xd, MOVX (R172). -/
def decMovx (e : Bool) (pg : BitVec 3) (pn : Bool) (n : Nat) : Except Illegal Instr :=
  let d := fld 6 12 n
  let a := fld 6 6 n
  let b := fld 6 0 n
  match n / 2 ^ 18 % 8 with
  | 0 => reservedZero (b == 0) (.getsr ⟨e, pg, pn⟩ d a)
  | 1 => reservedZero (d == 0) (.setsr ⟨e, pg, pn⟩ a b)
  | 2 => .ok (.getk ⟨e, pg, pn⟩ d (fld 12 0 n))
  | 3 => .ok (.putk ⟨e, pg, pn⟩ d (fld 12 0 n))
  | _ => .error .reservedFn

/-- Major 0x10, VADD (R55). -/
def decVadd (e : Bool) (pg : BitVec 3) (pn : Bool) (n : Nat) : Except Illegal Instr :=
  let d := fld 6 12 n
  let a := fld 6 6 n
  let b := fld 6 0 n
  match n / 2 ^ 18 % 8 with
  | 0 => .ok (.addB ⟨e, pg, pn⟩ d a b)
  | 1 => .ok (.addH ⟨e, pg, pn⟩ d a b)
  | 2 => .ok (.addW ⟨e, pg, pn⟩ d a b)
  | 3 => .ok (.addsB ⟨e, pg, pn⟩ d a b)
  | 4 => .ok (.addsH ⟨e, pg, pn⟩ d a b)
  | 5 => .ok (.addsuB ⟨e, pg, pn⟩ d a b)
  | 6 => .ok (.addsuH ⟨e, pg, pn⟩ d a b)
  | _ => .ok (.avgrH ⟨e, pg, pn⟩ d a b)

/-- Major 0x11, VSUB (R55). -/
def decVsub (e : Bool) (pg : BitVec 3) (pn : Bool) (n : Nat) : Except Illegal Instr :=
  let d := fld 6 12 n
  let a := fld 6 6 n
  let b := fld 6 0 n
  match n / 2 ^ 18 % 8 with
  | 0 => .ok (.subB ⟨e, pg, pn⟩ d a b)
  | 1 => .ok (.subH ⟨e, pg, pn⟩ d a b)
  | 2 => .ok (.subW ⟨e, pg, pn⟩ d a b)
  | 3 => .ok (.subsB ⟨e, pg, pn⟩ d a b)
  | 4 => .ok (.subsH ⟨e, pg, pn⟩ d a b)
  | 5 => .ok (.subsuB ⟨e, pg, pn⟩ d a b)
  | 6 => .ok (.subsuH ⟨e, pg, pn⟩ d a b)
  | _ => .ok (.absdfH ⟨e, pg, pn⟩ d a b)

/-- Major 0x12, VMUL (R55). -/
def decVmul (e : Bool) (pg : BitVec 3) (pn : Bool) (n : Nat) : Except Illegal Instr :=
  let d := fld 6 12 n
  let a := fld 6 6 n
  let b := fld 6 0 n
  match n / 2 ^ 18 % 8 with
  | 0 => .ok (.mullH ⟨e, pg, pn⟩ d a b)
  | 1 => .ok (.mulhH ⟨e, pg, pn⟩ d a b)
  | 2 => .ok (.mulhrH ⟨e, pg, pn⟩ d a b)
  | 3 => .ok (.mullW ⟨e, pg, pn⟩ d a b)
  | 4 => .ok (.dot2H ⟨e, pg, pn⟩ d a b)
  | 5 => .ok (.dot4B ⟨e, pg, pn⟩ d a b)
  | 6 => .ok (.dot2uB ⟨e, pg, pn⟩ d a b)
  | _ => .ok (.madlH ⟨e, pg, pn⟩ d a b)

/-- Major 0x13, VSHIFT (R55). -/
def decVshift (e : Bool) (pg : BitVec 3) (pn : Bool) (n : Nat) : Except Illegal Instr :=
  let d := fld 6 12 n
  let a := fld 6 6 n
  let b := fld 6 0 n
  match n / 2 ^ 18 % 8 with
  | 0 => .ok (.shlH ⟨e, pg, pn⟩ d a b)
  | 1 => .ok (.shrH ⟨e, pg, pn⟩ d a b)
  | 2 => .ok (.sarH ⟨e, pg, pn⟩ d a b)
  | 3 => .ok (.sarrH ⟨e, pg, pn⟩ d a b)
  | 4 => .ok (.shlW ⟨e, pg, pn⟩ d a b)
  | 5 => .ok (.sarW ⟨e, pg, pn⟩ d a b)
  | 6 => .ok (.sarrW ⟨e, pg, pn⟩ d a b)
  | _ => .ok (.narrowsWh ⟨e, pg, pn⟩ d a b)

/-- Major 0x14, VSHIFTI (R55). -/
def decVshifti (e : Bool) (pg : BitVec 3) (pn : Bool) (n : Nat) : Except Illegal Instr :=
  let d := fld 6 12 n
  let a := fld 6 6 n
  let b := fld 6 0 n
  match n / 2 ^ 18 % 8 with
  | 0 => .ok (.vshiftiShlH ⟨e, pg, pn⟩ d a b)
  | 1 => .ok (.vshiftiShrH ⟨e, pg, pn⟩ d a b)
  | 2 => .ok (.vshiftiSarH ⟨e, pg, pn⟩ d a b)
  | 3 => .ok (.vshiftiSarrH ⟨e, pg, pn⟩ d a b)
  | 4 => .ok (.vshiftiShlW ⟨e, pg, pn⟩ d a b)
  | 5 => .ok (.vshiftiSarW ⟨e, pg, pn⟩ d a b)
  | 6 => .ok (.vshiftiSarrW ⟨e, pg, pn⟩ d a b)
  | _ => .ok (.vshiftiNarrowsWh ⟨e, pg, pn⟩ d a b)

/-- Major 0x15, VMINMAX (R55). -/
def decVminmax (e : Bool) (pg : BitVec 3) (pn : Bool) (n : Nat) : Except Illegal Instr :=
  let d := fld 6 12 n
  let a := fld 6 6 n
  let b := fld 6 0 n
  match n / 2 ^ 18 % 8 with
  | 0 => .ok (.minH ⟨e, pg, pn⟩ d a b)
  | 1 => .ok (.maxH ⟨e, pg, pn⟩ d a b)
  | 2 => .ok (.minB ⟨e, pg, pn⟩ d a b)
  | 3 => .ok (.maxB ⟨e, pg, pn⟩ d a b)
  | 4 => .ok (.minuB ⟨e, pg, pn⟩ d a b)
  | 5 => .ok (.maxuB ⟨e, pg, pn⟩ d a b)
  | 6 => .ok (.minW ⟨e, pg, pn⟩ d a b)
  | _ => .ok (.maxW ⟨e, pg, pn⟩ d a b)

/-- Major 0x16, VCMP (R55). -/
def decVcmp (e : Bool) (pg : BitVec 3) (pn : Bool) (n : Nat) : Except Illegal Instr :=
  let d := fld 6 12 n
  let a := fld 6 6 n
  let b := fld 6 0 n
  match n / 2 ^ 18 % 8 with
  | 0 => .ok (.eqB ⟨e, pg, pn⟩ d a b)
  | 1 => .ok (.eqH ⟨e, pg, pn⟩ d a b)
  | 2 => .ok (.eqW ⟨e, pg, pn⟩ d a b)
  | 3 => .ok (.gtB ⟨e, pg, pn⟩ d a b)
  | 4 => .ok (.gtH ⟨e, pg, pn⟩ d a b)
  | 5 => .ok (.gtW ⟨e, pg, pn⟩ d a b)
  | 6 => .ok (.gtuB ⟨e, pg, pn⟩ d a b)
  | _ => .ok (.gtuH ⟨e, pg, pn⟩ d a b)

/-- Major 0x17, VPERM (R55). -/
def decVperm (e : Bool) (pg : BitVec 3) (pn : Bool) (n : Nat) : Except Illegal Instr :=
  let d := fld 6 12 n
  let a := fld 6 6 n
  let b := fld 6 0 n
  match n / 2 ^ 18 % 8 with
  | 0 => .ok (.shufH ⟨e, pg, pn⟩ d a b)
  | 1 => .ok (.ziploH ⟨e, pg, pn⟩ d a b)
  | 2 => .ok (.ziphiH ⟨e, pg, pn⟩ d a b)
  | 3 => .ok (.unzipH ⟨e, pg, pn⟩ d a b)
  | 4 => .ok (.extzB ⟨e, pg, pn⟩ d a b)
  | 5 => .ok (.extsB ⟨e, pg, pn⟩ d a b)
  | 6 => .ok (.bcastH ⟨e, pg, pn⟩ d a b)
  | _ => .ok (.insH ⟨e, pg, pn⟩ d a b)

/-- Major 0x18, FADD (R55). -/
def decFadd (e : Bool) (pg : BitVec 3) (pn : Bool) (n : Nat) : Except Illegal Instr :=
  let d := fld 6 12 n
  let a := fld 6 6 n
  let b := fld 6 0 n
  match n / 2 ^ 18 % 8 with
  | 0 => .ok (.addS2 ⟨e, pg, pn⟩ d a b)
  | 1 => .ok (.addH4 ⟨e, pg, pn⟩ d a b)
  | 2 => .ok (.addBh4 ⟨e, pg, pn⟩ d a b)
  | 3 => .ok (.subS2 ⟨e, pg, pn⟩ d a b)
  | 4 => .ok (.subH4 ⟨e, pg, pn⟩ d a b)
  | 5 => .ok (.subBh4 ⟨e, pg, pn⟩ d a b)
  | _ => .error .reservedFn

/-- Major 0x19, FMUL (R55). -/
def decFmul (e : Bool) (pg : BitVec 3) (pn : Bool) (n : Nat) : Except Illegal Instr :=
  let d := fld 6 12 n
  let a := fld 6 6 n
  let b := fld 6 0 n
  match n / 2 ^ 18 % 8 with
  | 0 => .ok (.mulS2 ⟨e, pg, pn⟩ d a b)
  | 1 => .ok (.mulH4 ⟨e, pg, pn⟩ d a b)
  | 2 => .ok (.mulBh4 ⟨e, pg, pn⟩ d a b)
  | 3 => .ok (.fmaS2 ⟨e, pg, pn⟩ d a b)
  | 4 => .ok (.fmaH4 ⟨e, pg, pn⟩ d a b)
  | 5 => .ok (.fmaBh4 ⟨e, pg, pn⟩ d a b)
  | 6 => .ok (.fmsS2 ⟨e, pg, pn⟩ d a b)
  | _ => .ok (.fnmaS2 ⟨e, pg, pn⟩ d a b)

/-- Major 0x1a, FMINMAX (R55). -/
def decFminmax (e : Bool) (pg : BitVec 3) (pn : Bool) (n : Nat) : Except Illegal Instr :=
  let d := fld 6 12 n
  let a := fld 6 6 n
  let b := fld 6 0 n
  match n / 2 ^ 18 % 8 with
  | 0 => .ok (.minS2 ⟨e, pg, pn⟩ d a b)
  | 1 => .ok (.maxS2 ⟨e, pg, pn⟩ d a b)
  | 2 => .ok (.minH4 ⟨e, pg, pn⟩ d a b)
  | 3 => .ok (.maxH4 ⟨e, pg, pn⟩ d a b)
  | 4 => .ok (.minBh4 ⟨e, pg, pn⟩ d a b)
  | 5 => .ok (.maxBh4 ⟨e, pg, pn⟩ d a b)
  | 6 => reservedZero (b == 0) (.absS2 ⟨e, pg, pn⟩ d a)
  | _ => reservedZero (b == 0) (.negS2 ⟨e, pg, pn⟩ d a)

/-- Major 0x1b, FCMP (R55). -/
def decFcmp (e : Bool) (pg : BitVec 3) (pn : Bool) (n : Nat) : Except Illegal Instr :=
  let d := fld 6 12 n
  let a := fld 6 6 n
  let b := fld 6 0 n
  match n / 2 ^ 18 % 8 with
  | 0 => .ok (.eqS2 ⟨e, pg, pn⟩ d a b)
  | 1 => .ok (.ltS2 ⟨e, pg, pn⟩ d a b)
  | 2 => .ok (.leS2 ⟨e, pg, pn⟩ d a b)
  | 3 => .ok (.unS2 ⟨e, pg, pn⟩ d a b)
  | 4 => .ok (.eqH4 ⟨e, pg, pn⟩ d a b)
  | 5 => .ok (.ltH4 ⟨e, pg, pn⟩ d a b)
  | 6 => .ok (.leH4 ⟨e, pg, pn⟩ d a b)
  | _ => .ok (.unH4 ⟨e, pg, pn⟩ d a b)

/-- Major 0x1c, FCVT (R55). -/
def decFcvt (e : Bool) (pg : BitVec 3) (pn : Bool) (n : Nat) : Except Illegal Instr :=
  let d := fld 6 12 n
  let a := fld 6 6 n
  let b := fld 6 0 n
  match n / 2 ^ 18 % 8 with
  | 0 => reservedZero (b == 0) (.cvtS2H4lo ⟨e, pg, pn⟩ d a)
  | 1 => reservedZero (b == 0) (.cvtS2H4hi ⟨e, pg, pn⟩ d a)
  | 2 => .ok (.cvtH4S2 ⟨e, pg, pn⟩ d a b)
  | 3 => .ok (.cvtBh4S2 ⟨e, pg, pn⟩ d a b)
  | 4 => .ok (.cvtE4m3S2 ⟨e, pg, pn⟩ d a b)
  | 5 => .ok (.cvtS2E4m3 ⟨e, pg, pn⟩ d a b)
  | 6 => reservedZero (b == 0) (.cvtS2W ⟨e, pg, pn⟩ d a)
  | _ => reservedZero (b == 0) (.cvtWS2 ⟨e, pg, pn⟩ d a)

/-- Major 0x1d, FCVT2 (R55). -/
def decFcvt2 (e : Bool) (pg : BitVec 3) (pn : Bool) (n : Nat) : Except Illegal Instr :=
  let d := fld 6 12 n
  let a := fld 6 6 n
  let b := fld 6 0 n
  match n / 2 ^ 18 % 8 with
  | 0 => .ok (.cvtE5m2S2 ⟨e, pg, pn⟩ d a b)
  | 1 => .ok (.cvtS2E5m2 ⟨e, pg, pn⟩ d a b)
  | 2 => reservedZero (b == 0) (.cvtS2Bh4lo ⟨e, pg, pn⟩ d a)
  | 3 => reservedZero (b == 0) (.cvtS2Bh4hi ⟨e, pg, pn⟩ d a)
  | 4 => .ok (.cvtH4E4m3 ⟨e, pg, pn⟩ d a b)
  | 5 => reservedZero (b == 0) (.cvtE4m3H4 ⟨e, pg, pn⟩ d a)
  | 6 => reservedZero (b == 0) (.truncWS2 ⟨e, pg, pn⟩ d a)
  | _ => reservedZero (b == 0) (.cvtS2Wz ⟨e, pg, pn⟩ d a)

/-- Major 0x1e, SFU (R55). -/
def decSfu (e : Bool) (pg : BitVec 3) (pn : Bool) (n : Nat) : Except Illegal Instr :=
  let d := fld 6 12 n
  let a := fld 6 6 n
  let b := fld 6 0 n
  match n / 2 ^ 18 % 8 with
  | 0 => reservedZero (b == 0) (.rcpS2 ⟨e, pg, pn⟩ d a)
  | 1 => reservedZero (b == 0) (.rsqS2 ⟨e, pg, pn⟩ d a)
  | 2 => reservedZero (b == 0) (.sqrtS2 ⟨e, pg, pn⟩ d a)
  | 3 => reservedZero (b == 0) (.exp2S2 ⟨e, pg, pn⟩ d a)
  | 4 => reservedZero (b == 0) (.log2S2 ⟨e, pg, pn⟩ d a)
  | 5 => reservedZero (b == 0) (.sinS2 ⟨e, pg, pn⟩ d a)
  | 6 => reservedZero (b == 0) (.cosS2 ⟨e, pg, pn⟩ d a)
  | _ => reservedZero (b == 0) (.tanhS2 ⟨e, pg, pn⟩ d a)

/-- Major 0x1f, EXPR (R215). -/
def decExpr (e : Bool) (pg : BitVec 3) (pn : Bool) (n : Nat) : Except Illegal Instr :=
  let p := fld 3 18 n
  let d := fld 6 12 n
  let a := fld 6 6 n
  let b := fld 6 0 n
  .ok (.expr ⟨e, pg, pn⟩ p d a b)

/-- Major 0x20, BR (R173). -/
def decBr (e : Bool) (pg : BitVec 3) (pn : Bool) (n : Nat) : Except Illegal Instr :=
  let i := fld 21 0 n
  needE e true (.br ⟨pg, pn⟩ i)

/-- Major 0x21, CALL (R173). -/
def decCall (e : Bool) (pg : BitVec 3) (pn : Bool) (n : Nat) : Except Illegal Instr :=
  let i := fld 21 0 n
  needE e true (.call ⟨pg, pn⟩ i)

/-- Major 0x22, JMP (R176). -/
def decJmp (e : Bool) (pg : BitVec 3) (pn : Bool) (n : Nat) : Except Illegal Instr :=
  let d := fld 6 12 n
  let a := fld 6 6 n
  let b := fld 6 0 n
  match n / 2 ^ 18 % 8 with
  | 0 => needE e (d == 0 && b == 0) (.jr ⟨pg, pn⟩ a)
  | 1 => needE e (d == 0 && b == 0) (.jrl ⟨pg, pn⟩ a)
  | 2 => needE e (d == 0 && a == 0 && b == 0) (.ret ⟨pg, pn⟩)
  | 3 => needE e (d == 0) (.trap ⟨pg, pn⟩ (fld 12 0 n))
  | 4 => needE e (d == 0 && a == 0 && b == 0) (.rtt ⟨pg, pn⟩)
  | 5 => reservedZero (d == 0 && a == 0 && b == 0) (.brk ⟨e, pg, pn⟩)
  | _ => .error .reservedFn

/-- Major 0x23, FIB (R177). -/
def decFib (e : Bool) (pg : BitVec 3) (pn : Bool) (n : Nat) : Except Illegal Instr :=
  let d := fld 6 12 n
  let a := fld 6 6 n
  let b := fld 6 0 n
  match n / 2 ^ 18 % 8 with
  | 0 => needE e (true) (.spawn ⟨pg, pn⟩ d a b)
  | 1 => needE e (true) (.spawnt ⟨pg, pn⟩ d a b)
  | 2 => needE e (d == 0 && b.toNat < 8) (.endFibre ⟨pg, pn⟩ a (fld 3 0 n))
  | 3 => needE e (d == 0 && a == 0 && b == 0) (.yield ⟨pg, pn⟩)
  | 4 => needE e (d == 0 && b == 0) (.sleept ⟨pg, pn⟩ a)
  | 5 => needE e (d == 0 && a == 0 && b == 0) (.step ⟨pg, pn⟩)
  | 6 => needE e (d == 0 && a == 0 && b == 0) (.ropebar ⟨pg, pn⟩)
  | _ => reservedZero (d == 0 && a == 0 && b == 0) (.nop ⟨e, pg, pn⟩)

/-- Major 0x24, ORD (R261). -/
def decOrd (e : Bool) (pg : BitVec 3) (pn : Bool) (n : Nat) : Except Illegal Instr :=
  let d := fld 6 12 n
  let a := fld 6 6 n
  let b := fld 6 0 n
  match n / 2 ^ 18 % 8 with
  | 0 => needE e (d == 0 && a == 0 && b.toNat < 8) (.fenceRel ⟨pg, pn⟩ (fld 3 0 n))
  | 1 => reservedZero (d == 0 && a == 0 && b.toNat < 8) (.fenceAcq ⟨e, pg, pn⟩ (fld 3 0 n))
  | 2 => needE e (d == 0 && a == 0 && b.toNat < 8) (.fenceAr ⟨pg, pn⟩ (fld 3 0 n))
  | 3 => .ok (.ldaq ⟨e, pg, pn⟩ d a b)
  | 4 => .ok (.strel ⟨e, pg, pn⟩ d a b)
  | 5 => needE e (a == 0 && b == 0) (.waitg ⟨pg, pn⟩ d)
  | 6 => reservedZero (d == 0) (.pref ⟨e, pg, pn⟩ a b)
  | _ => reservedZero (d == 0) (.clwb ⟨e, pg, pn⟩ a b)

/-- Major 0x28, LD (R257). -/
def decLd (e : Bool) (pg : BitVec 3) (pn : Bool) (n : Nat) : Except Illegal Instr :=
  let d := fld 6 12 n
  let a := fld 6 6 n
  let b := fld 6 0 n
  match n / 2 ^ 18 % 8 with
  | 0 => .ok (.ldb ⟨e, pg, pn⟩ d a b)
  | 1 => .ok (.ldbz ⟨e, pg, pn⟩ d a b)
  | 2 => .ok (.ldh ⟨e, pg, pn⟩ d a b)
  | 3 => .ok (.ldhz ⟨e, pg, pn⟩ d a b)
  | 4 => .ok (.ldw ⟨e, pg, pn⟩ d a b)
  | 5 => .ok (.ldwz ⟨e, pg, pn⟩ d a b)
  | 6 => .ok (.ldd ⟨e, pg, pn⟩ d a b)
  | _ => .ok (.ldq ⟨e, pg, pn⟩ d a b)

/-- Major 0x29, ST (R258). -/
def decSt (e : Bool) (pg : BitVec 3) (pn : Bool) (n : Nat) : Except Illegal Instr :=
  let d := fld 6 12 n
  let a := fld 6 6 n
  let b := fld 6 0 n
  match n / 2 ^ 18 % 8 with
  | 0 => .ok (.stb ⟨e, pg, pn⟩ d a b)
  | 1 => .ok (.sth ⟨e, pg, pn⟩ d a b)
  | 2 => .ok (.stw ⟨e, pg, pn⟩ d a b)
  | 3 => .ok (.std ⟨e, pg, pn⟩ d a b)
  | 4 => .ok (.stq ⟨e, pg, pn⟩ d a b)
  | _ => .error .reservedFn

/-- Major 0x2a, LDL (R257). -/
def decLdl (e : Bool) (pg : BitVec 3) (pn : Bool) (n : Nat) : Except Illegal Instr :=
  let d := fld 6 12 n
  let a := fld 6 6 n
  let b := fld 6 0 n
  match n / 2 ^ 18 % 8 with
  | 0 => .ok (.ldbL ⟨e, pg, pn⟩ d a b)
  | 1 => .ok (.ldbzL ⟨e, pg, pn⟩ d a b)
  | 2 => .ok (.ldhL ⟨e, pg, pn⟩ d a b)
  | 3 => .ok (.ldhzL ⟨e, pg, pn⟩ d a b)
  | 4 => .ok (.ldwL ⟨e, pg, pn⟩ d a b)
  | 5 => .ok (.ldwzL ⟨e, pg, pn⟩ d a b)
  | 6 => .ok (.lddL ⟨e, pg, pn⟩ d a b)
  | _ => .ok (.ldqL ⟨e, pg, pn⟩ d a b)

/-- Major 0x2b, STL (R258). -/
def decStl (e : Bool) (pg : BitVec 3) (pn : Bool) (n : Nat) : Except Illegal Instr :=
  let d := fld 6 12 n
  let a := fld 6 6 n
  let b := fld 6 0 n
  match n / 2 ^ 18 % 8 with
  | 0 => .ok (.stbL ⟨e, pg, pn⟩ d a b)
  | 1 => .ok (.sthL ⟨e, pg, pn⟩ d a b)
  | 2 => .ok (.stwL ⟨e, pg, pn⟩ d a b)
  | 3 => .ok (.stdL ⟨e, pg, pn⟩ d a b)
  | 4 => .ok (.stqL ⟨e, pg, pn⟩ d a b)
  | _ => .error .reservedFn

/-- Major 0x2c, ATOM (R259). -/
def decAtom (e : Bool) (pg : BitVec 3) (pn : Bool) (n : Nat) : Except Illegal Instr :=
  let d := fld 6 12 n
  let a := fld 6 6 n
  let b := fld 6 0 n
  match n / 2 ^ 18 % 8 with
  | 0 => .ok (.amin ⟨e, pg, pn⟩ d a b)
  | 1 => .ok (.amax ⟨e, pg, pn⟩ d a b)
  | 2 => .ok (.aminu ⟨e, pg, pn⟩ d a b)
  | 3 => .ok (.amaxu ⟨e, pg, pn⟩ d a b)
  | 4 => .ok (.aor ⟨e, pg, pn⟩ d a b)
  | 5 => .ok (.aand ⟨e, pg, pn⟩ d a b)
  | 6 => .ok (.aadd ⟨e, pg, pn⟩ d a b)
  | _ => .ok (.aswap ⟨e, pg, pn⟩ d a b)

/-- Major 0x2d, ATOMW (R259). -/
def decAtomw (e : Bool) (pg : BitVec 3) (pn : Bool) (n : Nat) : Except Illegal Instr :=
  let d := fld 6 12 n
  let a := fld 6 6 n
  let b := fld 6 0 n
  match n / 2 ^ 18 % 8 with
  | 0 => .ok (.aminW ⟨e, pg, pn⟩ d a b)
  | 1 => .ok (.amaxW ⟨e, pg, pn⟩ d a b)
  | 2 => .ok (.aminuW ⟨e, pg, pn⟩ d a b)
  | 3 => .ok (.amaxuW ⟨e, pg, pn⟩ d a b)
  | 4 => .ok (.aorW ⟨e, pg, pn⟩ d a b)
  | 5 => .ok (.aandW ⟨e, pg, pn⟩ d a b)
  | 6 => .ok (.aaddW ⟨e, pg, pn⟩ d a b)
  | _ => .ok (.aswapW ⟨e, pg, pn⟩ d a b)

/-- Major 0x2e, ATOMX (R260). -/
def decAtomx (e : Bool) (pg : BitVec 3) (pn : Bool) (n : Nat) : Except Illegal Instr :=
  let d := fld 6 12 n
  let a := fld 6 6 n
  let b := fld 6 0 n
  match n / 2 ^ 18 % 8 with
  | 0 => .ok (.cas ⟨e, pg, pn⟩ d a b)
  | 1 => .ok (.casw ⟨e, pg, pn⟩ d a b)
  | 2 => .ok (.faddS ⟨e, pg, pn⟩ d a b)
  | 3 => .ok (.fmaxS ⟨e, pg, pn⟩ d a b)
  | _ => .error .reservedFn

/-- Major 0x2f, ATOML (R259). -/
def decAtoml (e : Bool) (pg : BitVec 3) (pn : Bool) (n : Nat) : Except Illegal Instr :=
  let d := fld 6 12 n
  let a := fld 6 6 n
  let b := fld 6 0 n
  match n / 2 ^ 18 % 8 with
  | 0 => .ok (.aminL ⟨e, pg, pn⟩ d a b)
  | 1 => .ok (.amaxL ⟨e, pg, pn⟩ d a b)
  | 2 => .ok (.aminuL ⟨e, pg, pn⟩ d a b)
  | 3 => .ok (.amaxuL ⟨e, pg, pn⟩ d a b)
  | 4 => .ok (.aorL ⟨e, pg, pn⟩ d a b)
  | 5 => .ok (.aandL ⟨e, pg, pn⟩ d a b)
  | 6 => .ok (.aaddL ⟨e, pg, pn⟩ d a b)
  | _ => .ok (.aswapL ⟨e, pg, pn⟩ d a b)

/-- Major 0x30, BLY (R289). -/
def decBly (e : Bool) (pg : BitVec 3) (pn : Bool) (n : Nat) : Except Illegal Instr :=
  let l := fld 5 13 n
  let w := bitAt 12 n
  let a := fld 6 6 n
  let d := fld 6 0 n
  match n / 2 ^ 18 % 8 with
  | 0 => reservedZero (!w && d == 0) (.arm ⟨e, pg, pn⟩ l a)
  | 1 => if w && !e then .error .missingE else .ok (.sign ⟨e, pg, pn⟩ l w a d)
  | 2 => if w && !e then .error .missingE else .ok (.vote ⟨e, pg, pn⟩ l w a d)
  | 3 => if w && !e then .error .missingE else .ok (.scan ⟨e, pg, pn⟩ l w a d)
  | 4 => if w && !e then .error .missingE else .ok (.xchg ⟨e, pg, pn⟩ l w a d)
  | 5 => needE e (a == 0) (.bar ⟨pg, pn⟩ l w d)
  | 6 => if w && !e then .error .missingE else .ok (.redmax ⟨e, pg, pn⟩ l w a d)
  | _ => if w && !e then .error .missingE else .ok (.redadd ⟨e, pg, pn⟩ l w a d)

/-- Major 0x31, MMA (R346). -/
def decMma (e : Bool) (pg : BitVec 3) (pn : Bool) (n : Nat) : Except Illegal Instr :=
  let l := fld 5 16 n
  let r := bitAt 15 n
  let a := fld 6 6 n
  let b := fld 6 0 n
  match n / 2 ^ 12 % 8 with
  | 0 => .ok (.mmaE4m3 ⟨e, pg, pn⟩ l r a b)
  | 1 => .ok (.mmapE4m3 ⟨e, pg, pn⟩ l r a b)
  | 2 => .ok (.mmaH ⟨e, pg, pn⟩ l r a b)
  | 3 => .ok (.mmaBh ⟨e, pg, pn⟩ l r a b)
  | 4 => .ok (.mmaI8 ⟨e, pg, pn⟩ l r a b)
  | _ => .error .reservedFn

/-- Major 0x32, ACC (R341). -/
def decAcc (e : Bool) (pg : BitVec 3) (pn : Bool) (n : Nat) : Except Illegal Instr :=
  let d := fld 6 12 n
  let a := fld 6 6 n
  let b := fld 6 0 n
  match n / 2 ^ 18 % 8 with
  | 0 => needE e (b == 0) (.aballoc ⟨pg, pn⟩ d a)
  | 1 => reservedZero (d == 0 && a == 0 && b == 0) (.abfree ⟨e, pg, pn⟩)
  | 2 => needE e (true) (.drain ⟨pg, pn⟩ d a b)
  | 3 => reservedZero (d == 0 && b == 0) (.accz ⟨e, pg, pn⟩ a)
  | 4 => reservedZero (d == 0 && b == 0) (.accld ⟨e, pg, pn⟩ a)
  | 5 => reservedZero (b == 0) (.tdset ⟨e, pg, pn⟩ d a)
  | 6 => reservedZero (a == 0 && b == 0) (.tdinv ⟨e, pg, pn⟩ d)
  | _ => reservedZero (d.toNat < 16 && b == 0) (.tbld ⟨e, pg, pn⟩ (fld 4 12 n) a)

/-- Major 0x38, COPY (R269). -/
def decCopy (e : Bool) (pg : BitVec 3) (pn : Bool) (n : Nat) : Except Illegal Instr :=
  let s := fld 3 18 n
  let o := fld 2 16 n
  let a := fld 6 6 n
  let b := fld 6 0 n
  match n / 2 ^ 12 % 16 with
  | 0 => needE e true (.cpy ⟨pg, pn⟩ s o a b)
  | 1 => needE e true (.cpy2d ⟨pg, pn⟩ s o a b)
  | 2 => needE e true (.fill ⟨pg, pn⟩ s o a b)
  | 3 => needE e true (.cpyfp ⟨pg, pn⟩ s o a b)
  | 4 => needE e true (.cmpb ⟨pg, pn⟩ s o a b)
  | 5 => needE e true (.spmap ⟨pg, pn⟩ s o a b)
  | 6 => needE e true (.spfill ⟨pg, pn⟩ s o a b)
  | 7 => needE e true (.spwb ⟨pg, pn⟩ s o a b)
  | 8 => needE e true (.spunmap ⟨pg, pn⟩ s o a b)
  | _ => .error .reservedFn

/-- Major 0x39, GATH (R309). -/
def decGath (e : Bool) (pg : BitVec 3) (pn : Bool) (n : Nat) : Except Illegal Instr :=
  let s := fld 3 18 n
  let o := fld 2 16 n
  let a := fld 6 6 n
  let b := fld 6 0 n
  match n / 2 ^ 12 % 16 with
  | 0 => needE e true (.gather ⟨pg, pn⟩ s o a b)
  | 1 => needE e true (.gsum ⟨pg, pn⟩ s o a b)
  | 2 => needE e true (.gmax ⟨pg, pn⟩ s o a b)
  | 3 => needE e true (.scatter ⟨pg, pn⟩ s o a b)
  | 4 => needE e true (.scadd ⟨pg, pn⟩ s o a b)
  | 5 => needE e true (.hamd ⟨pg, pn⟩ s o a b)
  | _ => .error .reservedFn

/-- Major 0x3a, WORK (R390). -/
def decWork (e : Bool) (pg : BitVec 3) (pn : Bool) (n : Nat) : Except Illegal Instr :=
  let w := fld 3 14 n
  let a := fld 6 6 n
  let b := fld 6 0 n
  let z := fld 2 12 n == 0
  match n / 2 ^ 17 % 16 with
  | 0 => needE e z (.wpush ⟨pg, pn⟩ w a b)
  | 1 => needE e z (.wpushs ⟨pg, pn⟩ w a b)
  | 2 => if z && b.toNat < 2 then (if bitAt 0 n && !e then .error .missingE else .ok (.wpop ⟨e, pg, pn⟩ w a (bitAt 0 n))) else .error .reservedBits
  | 3 => needE e (z && b.toNat < 2) (.wpopw ⟨pg, pn⟩ w a (bitAt 0 n))
  | 4 => needE e (z && a == 0 && b == 0) (.wdone ⟨pg, pn⟩ w)
  | 5 => reservedZero (z && b == 0) (.wbound ⟨e, pg, pn⟩ w a)
  | 6 => needE e (z && b == 0) (.wterm ⟨pg, pn⟩ w a)
  | 7 => reservedZero z (.wstat ⟨e, pg, pn⟩ w a b)
  | _ => .error .reservedFn

/-- Major 0x3b, LNCH (R131). -/
def decLnch (e : Bool) (pg : BitVec 3) (pn : Bool) (n : Nat) : Except Illegal Instr :=
  let s := fld 3 18 n
  let o := fld 2 16 n
  let a := fld 6 6 n
  let b := fld 6 0 n
  match n / 2 ^ 12 % 16 with
  | 0 => needE e (b == 0) (.launch ⟨pg, pn⟩ s o a)
  | 1 => needE e true (.evsig ⟨pg, pn⟩ s o a b)
  | 2 => needE e true (.evwait ⟨pg, pn⟩ s o a b)
  | _ => .error .reservedFn

/-- Major 0x3c, GUARD (R184). -/
def decGuard (e : Bool) (pg : BitVec 3) (pn : Bool) (n : Nat) : Except Illegal Instr :=
  let d := fld 6 12 n
  let a := fld 6 6 n
  let b := fld 6 0 n
  match n / 2 ^ 18 % 8 with
  | 0 => needE e (a == 0) (.gset ⟨pg, pn⟩ d b)
  | 1 => needE e (a == 0) (.gclr ⟨pg, pn⟩ d b)
  | 2 => reservedZero (d == 0 && a == 0) (.grst ⟨e, pg, pn⟩ b)
  | _ => .error .reservedFn

/-- Hint words (R45 to R47). -/
def decHint (n : Nat) : Except Illegal Instr :=
  match n / 2 ^ 22 % 16 with
  | 0 => .ok (.hintLit (fld 22 0 n))
  | 1 => .ok (.hintLith (fld 22 0 n))
  | 2 =>
    if fld 8 0 n == 0 then
      (if fld 3 19 n == 0 && bitAt 18 n then .error .badPayload
       else .ok (.hintVec (fld 3 19 n) (bitAt 18 n) (fld 2 16 n) (bitAt 15 n) (bitAt 14 n) (fld 6 8 n)))
    else .error .reservedBits
  | 3 =>
    if fld 15 0 n == 0 then
      (if (fld 2 15 n).toNat < 3 then .ok (.hintMemo (fld 3 19 n) (bitAt 18 n) (bitAt 17 n) (fld 2 15 n))
       else .error .badPayload)
    else .error .reservedBits
  | 4 => reservedZero (fld 15 0 n == 0) (.hintGuard (fld 6 16 n) (bitAt 15 n))
  | 5 => reservedZero (fld 20 0 n == 0) (.hintSched (bitAt 21 n) (bitAt 20 n))
  | 6 => reservedZero (fld 12 0 n == 0) (.hintKsrc (fld 9 13 n) (bitAt 12 n))
  | _ => .error .reservedFn

/-- The opcode map R55: the majors and what decodes each body. -/
def decBody (maj : Nat) (e : Bool) (pg : BitVec 3) (pn : Bool) (n : Nat) : Except Illegal Instr :=
  match maj with
  | 1 => decInt e pg pn n
  | 2 => decInti e pg pn n
  | 3 => decIntx e pg pn n
  | 4 => decShift e pg pn n
  | 5 => decShifti e pg pn n
  | 6 => decMul e pg pn n
  | 7 => decLea e pg pn n
  | 8 => decCmp e pg pn n
  | 9 => decCmpi e pg pn n
  | 10 => decPred e pg pn n
  | 11 => decLi e pg pn n
  | 12 => decSel e pg pn n
  | 13 => decMovx e pg pn n
  | 16 => decVadd e pg pn n
  | 17 => decVsub e pg pn n
  | 18 => decVmul e pg pn n
  | 19 => decVshift e pg pn n
  | 20 => decVshifti e pg pn n
  | 21 => decVminmax e pg pn n
  | 22 => decVcmp e pg pn n
  | 23 => decVperm e pg pn n
  | 24 => decFadd e pg pn n
  | 25 => decFmul e pg pn n
  | 26 => decFminmax e pg pn n
  | 27 => decFcmp e pg pn n
  | 28 => decFcvt e pg pn n
  | 29 => decFcvt2 e pg pn n
  | 30 => decSfu e pg pn n
  | 31 => decExpr e pg pn n
  | 32 => decBr e pg pn n
  | 33 => decCall e pg pn n
  | 34 => decJmp e pg pn n
  | 35 => decFib e pg pn n
  | 36 => decOrd e pg pn n
  | 40 => decLd e pg pn n
  | 41 => decSt e pg pn n
  | 42 => decLdl e pg pn n
  | 43 => decStl e pg pn n
  | 44 => decAtom e pg pn n
  | 45 => decAtomw e pg pn n
  | 46 => decAtomx e pg pn n
  | 47 => decAtoml e pg pn n
  | 48 => decBly e pg pn n
  | 49 => decMma e pg pn n
  | 50 => decAcc e pg pn n
  | 56 => decCopy e pg pn n
  | 57 => decGath e pg pn n
  | 58 => decWork e pg pn n
  | 59 => decLnch e pg pn n
  | 60 => decGuard e pg pn n
  | _ => .error .reservedMajor

/-- Decoding one instruction word (R35, R55). -/
def decodeWord (w : W32) : Except Illegal Instr :=
  let n := w.toNat
  if n / 2 ^ 26 = 63 then decHint (n % 2 ^ 26)
  else decBody (n / 2 ^ 26) (bitAt 25 n) (fld 3 22 n) (bitAt 21 n) (n % 2 ^ 21)

/-- The word of four bytes, little-endian (R35). -/
def wordOfBytes (b0 b1 b2 b3 : Byte) : W32 :=
  BitVec.ofNat 32 (b0.toNat + b1.toNat * 2 ^ 8 + b2.toNat * 2 ^ 16 + b3.toNat * 2 ^ 24)

/-- The four bytes of a word as the hardware stores it, little-endian (R35). -/
def bytesOfWord (w : W32) : List Byte :=
  [fld 8 0 w.toNat, fld 8 8 w.toNat, fld 8 16 w.toNat, fld 8 24 w.toNat]

/-- Decoding the instruction at the head of a byte string, with what follows it. -/
def decode : List Byte → Except Illegal (Instr × List Byte)
  | b0 :: b1 :: b2 :: b3 :: rest =>
    match decodeWord (wordOfBytes b0 b1 b2 b3) with
    | .ok i => .ok (i, rest)
    | .error x => .error x
  | _ => .error .truncated

/-- What the decoder reads from the bits of an opcode-table row: `w` is the word, laid out in memory and decoded. -/
def decodeTableWord (nbits w : Nat) : Option Instr :=
  if nbits = 0 then none
  else
    match decode (bytesOfWord (BitVec.ofNat 32 w)) with
    | .ok (i, _) => some i
    | .error _ => none

/-- The word of an instruction (R37, R45); an event has none. -/
def encode : Instr → Option W32
  | .add h d a b => some (packWord 1 h.e h.pg h.pn (bodyA 0 d a b))
  | .sub h d a b => some (packWord 1 h.e h.pg h.pn (bodyA 1 d a b))
  | .and h d a b => some (packWord 1 h.e h.pg h.pn (bodyA 2 d a b))
  | .or h d a b => some (packWord 1 h.e h.pg h.pn (bodyA 3 d a b))
  | .xor h d a b => some (packWord 1 h.e h.pg h.pn (bodyA 4 d a b))
  | .andn h d a b => some (packWord 1 h.e h.pg h.pn (bodyA 5 d a b))
  | .min h d a b => some (packWord 1 h.e h.pg h.pn (bodyA 6 d a b))
  | .max h d a b => some (packWord 1 h.e h.pg h.pn (bodyA 7 d a b))
  | .intiAdd h d a i => some (packWord 2 h.e h.pg h.pn (bodyA 0 d a i))
  | .intiSub h d a i => some (packWord 2 h.e h.pg h.pn (bodyA 1 d a i))
  | .intiAnd h d a i => some (packWord 2 h.e h.pg h.pn (bodyA 2 d a i))
  | .intiOr h d a i => some (packWord 2 h.e h.pg h.pn (bodyA 3 d a i))
  | .intiXor h d a i => some (packWord 2 h.e h.pg h.pn (bodyA 4 d a i))
  | .intiAndn h d a i => some (packWord 2 h.e h.pg h.pn (bodyA 5 d a i))
  | .intiMin h d a i => some (packWord 2 h.e h.pg h.pn (bodyA 6 d a i))
  | .intiMax h d a i => some (packWord 2 h.e h.pg h.pn (bodyA 7 d a i))
  | .minu h d a b => some (packWord 3 h.e h.pg h.pn (bodyA 0 d a b))
  | .maxu h d a b => some (packWord 3 h.e h.pg h.pn (bodyA 1 d a b))
  | .addw h d a b => some (packWord 3 h.e h.pg h.pn (bodyA 2 d a b))
  | .subw h d a b => some (packWord 3 h.e h.pg h.pn (bodyA 3 d a b))
  | .absd h d a b => some (packWord 3 h.e h.pg h.pn (bodyA 4 d a b))
  | .clz h d a => some (packWord 3 h.e h.pg h.pn (bodyA 5 d a 0))
  | .ctz h d a => some (packWord 3 h.e h.pg h.pn (bodyA 6 d a 0))
  | .popc h d a => some (packWord 3 h.e h.pg h.pn (bodyA 7 d a 0))
  | .shl h d a b => some (packWord 4 h.e h.pg h.pn (bodyA 0 d a b))
  | .shr h d a b => some (packWord 4 h.e h.pg h.pn (bodyA 1 d a b))
  | .sar h d a b => some (packWord 4 h.e h.pg h.pn (bodyA 2 d a b))
  | .rol h d a b => some (packWord 4 h.e h.pg h.pn (bodyA 3 d a b))
  | .shlw h d a b => some (packWord 4 h.e h.pg h.pn (bodyA 4 d a b))
  | .shrw h d a b => some (packWord 4 h.e h.pg h.pn (bodyA 5 d a b))
  | .sarw h d a b => some (packWord 4 h.e h.pg h.pn (bodyA 6 d a b))
  | .brev h d a => some (packWord 4 h.e h.pg h.pn (bodyA 7 d a 0))
  | .shiftiShl h d a i => some (packWord 5 h.e h.pg h.pn (bodyA 0 d a i))
  | .shiftiShr h d a i => some (packWord 5 h.e h.pg h.pn (bodyA 1 d a i))
  | .shiftiSar h d a i => some (packWord 5 h.e h.pg h.pn (bodyA 2 d a i))
  | .shiftiRol h d a i => some (packWord 5 h.e h.pg h.pn (bodyA 3 d a i))
  | .shiftiShlw h d a i => some (packWord 5 h.e h.pg h.pn (bodyA 4 d a i))
  | .shiftiShrw h d a i => some (packWord 5 h.e h.pg h.pn (bodyA 5 d a i))
  | .shiftiSarw h d a i => some (packWord 5 h.e h.pg h.pn (bodyA 6 d a i))
  | .mul h d a b => some (packWord 6 h.e h.pg h.pn (bodyA 0 d a b))
  | .mulh h d a b => some (packWord 6 h.e h.pg h.pn (bodyA 1 d a b))
  | .mulhu h d a b => some (packWord 6 h.e h.pg h.pn (bodyA 2 d a b))
  | .mulw h d a b => some (packWord 6 h.e h.pg h.pn (bodyA 3 d a b))
  | .div h d a b => some (packWord 6 h.e h.pg h.pn (bodyA 4 d a b))
  | .divu h d a b => some (packWord 6 h.e h.pg h.pn (bodyA 5 d a b))
  | .rem h d a b => some (packWord 6 h.e h.pg h.pn (bodyA 6 d a b))
  | .remu h d a b => some (packWord 6 h.e h.pg h.pn (bodyA 7 d a b))
  | .lea0 h d a b => some (packWord 7 h.e h.pg h.pn (bodyA 0 d a b))
  | .lea1 h d a b => some (packWord 7 h.e h.pg h.pn (bodyA 1 d a b))
  | .lea2 h d a b => some (packWord 7 h.e h.pg h.pn (bodyA 2 d a b))
  | .lea3 h d a b => some (packWord 7 h.e h.pg h.pn (bodyA 3 d a b))
  | .cmpEq h p c a b => some (packWord 8 h.e h.pg h.pn (bodyP 0 p c a b))
  | .cmpNe h p c a b => some (packWord 8 h.e h.pg h.pn (bodyP 1 p c a b))
  | .cmpLt h p c a b => some (packWord 8 h.e h.pg h.pn (bodyP 2 p c a b))
  | .cmpLe h p c a b => some (packWord 8 h.e h.pg h.pn (bodyP 3 p c a b))
  | .cmpLtu h p c a b => some (packWord 8 h.e h.pg h.pn (bodyP 4 p c a b))
  | .cmpLeu h p c a b => some (packWord 8 h.e h.pg h.pn (bodyP 5 p c a b))
  | .cmpTst h p c a b => some (packWord 8 h.e h.pg h.pn (bodyP 6 p c a b))
  | .cmpNtst h p c a b => some (packWord 8 h.e h.pg h.pn (bodyP 7 p c a b))
  | .cmpiEq h p c a i => some (packWord 9 h.e h.pg h.pn (bodyP 0 p c a i))
  | .cmpiNe h p c a i => some (packWord 9 h.e h.pg h.pn (bodyP 1 p c a i))
  | .cmpiLt h p c a i => some (packWord 9 h.e h.pg h.pn (bodyP 2 p c a i))
  | .cmpiLe h p c a i => some (packWord 9 h.e h.pg h.pn (bodyP 3 p c a i))
  | .cmpiLtu h p c a i => some (packWord 9 h.e h.pg h.pn (bodyP 4 p c a i))
  | .cmpiLeu h p c a i => some (packWord 9 h.e h.pg h.pn (bodyP 5 p c a i))
  | .cmpiTst h p c a i => some (packWord 9 h.e h.pg h.pn (bodyP 6 p c a i))
  | .cmpiNtst h p c a i => some (packWord 9 h.e h.pg h.pn (bodyP 7 p c a i))
  | .pand h d a b => some (packWord 10 h.e h.pg h.pn (bodyPred 0 d a b))
  | .por h d a b => some (packWord 10 h.e h.pg h.pn (bodyPred 1 d a b))
  | .pxor h d a b => some (packWord 10 h.e h.pg h.pn (bodyPred 2 d a b))
  | .pnot h d a => some (packWord 10 h.e h.pg h.pn (bodyPred 3 d a 0))
  | .pwget h d => some (packWord 10 h.e h.pg h.pn (bodyA 4 d 0 0))
  | .pwset h a => some (packWord 10 h.e h.pg h.pn (bodyA 5 0 a 0))
  | .li h d i => some (packWord 11 h.e h.pg h.pn (bodyLi d i))
  | .sel h p d a b => some (packWord 12 h.e h.pg h.pn (bodyA p.toNat d a b))
  | .getsr h d a => some (packWord 13 h.e h.pg h.pn (bodyA 0 d a 0))
  | .setsr h a b => some (packWord 13 h.e h.pg h.pn (bodyA 1 0 a b))
  | .getk h d k => some (packWord 13 h.e h.pg h.pn (bodyK 2 d k))
  | .putk h d k => some (packWord 13 h.e h.pg h.pn (bodyK 3 d k))
  | .addB h d a b => some (packWord 16 h.e h.pg h.pn (bodyA 0 d a b))
  | .addH h d a b => some (packWord 16 h.e h.pg h.pn (bodyA 1 d a b))
  | .addW h d a b => some (packWord 16 h.e h.pg h.pn (bodyA 2 d a b))
  | .addsB h d a b => some (packWord 16 h.e h.pg h.pn (bodyA 3 d a b))
  | .addsH h d a b => some (packWord 16 h.e h.pg h.pn (bodyA 4 d a b))
  | .addsuB h d a b => some (packWord 16 h.e h.pg h.pn (bodyA 5 d a b))
  | .addsuH h d a b => some (packWord 16 h.e h.pg h.pn (bodyA 6 d a b))
  | .avgrH h d a b => some (packWord 16 h.e h.pg h.pn (bodyA 7 d a b))
  | .subB h d a b => some (packWord 17 h.e h.pg h.pn (bodyA 0 d a b))
  | .subH h d a b => some (packWord 17 h.e h.pg h.pn (bodyA 1 d a b))
  | .subW h d a b => some (packWord 17 h.e h.pg h.pn (bodyA 2 d a b))
  | .subsB h d a b => some (packWord 17 h.e h.pg h.pn (bodyA 3 d a b))
  | .subsH h d a b => some (packWord 17 h.e h.pg h.pn (bodyA 4 d a b))
  | .subsuB h d a b => some (packWord 17 h.e h.pg h.pn (bodyA 5 d a b))
  | .subsuH h d a b => some (packWord 17 h.e h.pg h.pn (bodyA 6 d a b))
  | .absdfH h d a b => some (packWord 17 h.e h.pg h.pn (bodyA 7 d a b))
  | .mullH h d a b => some (packWord 18 h.e h.pg h.pn (bodyA 0 d a b))
  | .mulhH h d a b => some (packWord 18 h.e h.pg h.pn (bodyA 1 d a b))
  | .mulhrH h d a b => some (packWord 18 h.e h.pg h.pn (bodyA 2 d a b))
  | .mullW h d a b => some (packWord 18 h.e h.pg h.pn (bodyA 3 d a b))
  | .dot2H h d a b => some (packWord 18 h.e h.pg h.pn (bodyA 4 d a b))
  | .dot4B h d a b => some (packWord 18 h.e h.pg h.pn (bodyA 5 d a b))
  | .dot2uB h d a b => some (packWord 18 h.e h.pg h.pn (bodyA 6 d a b))
  | .madlH h d a b => some (packWord 18 h.e h.pg h.pn (bodyA 7 d a b))
  | .shlH h d a b => some (packWord 19 h.e h.pg h.pn (bodyA 0 d a b))
  | .shrH h d a b => some (packWord 19 h.e h.pg h.pn (bodyA 1 d a b))
  | .sarH h d a b => some (packWord 19 h.e h.pg h.pn (bodyA 2 d a b))
  | .sarrH h d a b => some (packWord 19 h.e h.pg h.pn (bodyA 3 d a b))
  | .shlW h d a b => some (packWord 19 h.e h.pg h.pn (bodyA 4 d a b))
  | .sarW h d a b => some (packWord 19 h.e h.pg h.pn (bodyA 5 d a b))
  | .sarrW h d a b => some (packWord 19 h.e h.pg h.pn (bodyA 6 d a b))
  | .narrowsWh h d a b => some (packWord 19 h.e h.pg h.pn (bodyA 7 d a b))
  | .vshiftiShlH h d a i => some (packWord 20 h.e h.pg h.pn (bodyA 0 d a i))
  | .vshiftiShrH h d a i => some (packWord 20 h.e h.pg h.pn (bodyA 1 d a i))
  | .vshiftiSarH h d a i => some (packWord 20 h.e h.pg h.pn (bodyA 2 d a i))
  | .vshiftiSarrH h d a i => some (packWord 20 h.e h.pg h.pn (bodyA 3 d a i))
  | .vshiftiShlW h d a i => some (packWord 20 h.e h.pg h.pn (bodyA 4 d a i))
  | .vshiftiSarW h d a i => some (packWord 20 h.e h.pg h.pn (bodyA 5 d a i))
  | .vshiftiSarrW h d a i => some (packWord 20 h.e h.pg h.pn (bodyA 6 d a i))
  | .vshiftiNarrowsWh h d a i => some (packWord 20 h.e h.pg h.pn (bodyA 7 d a i))
  | .minH h d a b => some (packWord 21 h.e h.pg h.pn (bodyA 0 d a b))
  | .maxH h d a b => some (packWord 21 h.e h.pg h.pn (bodyA 1 d a b))
  | .minB h d a b => some (packWord 21 h.e h.pg h.pn (bodyA 2 d a b))
  | .maxB h d a b => some (packWord 21 h.e h.pg h.pn (bodyA 3 d a b))
  | .minuB h d a b => some (packWord 21 h.e h.pg h.pn (bodyA 4 d a b))
  | .maxuB h d a b => some (packWord 21 h.e h.pg h.pn (bodyA 5 d a b))
  | .minW h d a b => some (packWord 21 h.e h.pg h.pn (bodyA 6 d a b))
  | .maxW h d a b => some (packWord 21 h.e h.pg h.pn (bodyA 7 d a b))
  | .eqB h d a b => some (packWord 22 h.e h.pg h.pn (bodyA 0 d a b))
  | .eqH h d a b => some (packWord 22 h.e h.pg h.pn (bodyA 1 d a b))
  | .eqW h d a b => some (packWord 22 h.e h.pg h.pn (bodyA 2 d a b))
  | .gtB h d a b => some (packWord 22 h.e h.pg h.pn (bodyA 3 d a b))
  | .gtH h d a b => some (packWord 22 h.e h.pg h.pn (bodyA 4 d a b))
  | .gtW h d a b => some (packWord 22 h.e h.pg h.pn (bodyA 5 d a b))
  | .gtuB h d a b => some (packWord 22 h.e h.pg h.pn (bodyA 6 d a b))
  | .gtuH h d a b => some (packWord 22 h.e h.pg h.pn (bodyA 7 d a b))
  | .shufH h d a b => some (packWord 23 h.e h.pg h.pn (bodyA 0 d a b))
  | .ziploH h d a b => some (packWord 23 h.e h.pg h.pn (bodyA 1 d a b))
  | .ziphiH h d a b => some (packWord 23 h.e h.pg h.pn (bodyA 2 d a b))
  | .unzipH h d a b => some (packWord 23 h.e h.pg h.pn (bodyA 3 d a b))
  | .extzB h d a b => some (packWord 23 h.e h.pg h.pn (bodyA 4 d a b))
  | .extsB h d a b => some (packWord 23 h.e h.pg h.pn (bodyA 5 d a b))
  | .bcastH h d a b => some (packWord 23 h.e h.pg h.pn (bodyA 6 d a b))
  | .insH h d a b => some (packWord 23 h.e h.pg h.pn (bodyA 7 d a b))
  | .addS2 h d a b => some (packWord 24 h.e h.pg h.pn (bodyA 0 d a b))
  | .addH4 h d a b => some (packWord 24 h.e h.pg h.pn (bodyA 1 d a b))
  | .addBh4 h d a b => some (packWord 24 h.e h.pg h.pn (bodyA 2 d a b))
  | .subS2 h d a b => some (packWord 24 h.e h.pg h.pn (bodyA 3 d a b))
  | .subH4 h d a b => some (packWord 24 h.e h.pg h.pn (bodyA 4 d a b))
  | .subBh4 h d a b => some (packWord 24 h.e h.pg h.pn (bodyA 5 d a b))
  | .mulS2 h d a b => some (packWord 25 h.e h.pg h.pn (bodyA 0 d a b))
  | .mulH4 h d a b => some (packWord 25 h.e h.pg h.pn (bodyA 1 d a b))
  | .mulBh4 h d a b => some (packWord 25 h.e h.pg h.pn (bodyA 2 d a b))
  | .fmaS2 h d a b => some (packWord 25 h.e h.pg h.pn (bodyA 3 d a b))
  | .fmaH4 h d a b => some (packWord 25 h.e h.pg h.pn (bodyA 4 d a b))
  | .fmaBh4 h d a b => some (packWord 25 h.e h.pg h.pn (bodyA 5 d a b))
  | .fmsS2 h d a b => some (packWord 25 h.e h.pg h.pn (bodyA 6 d a b))
  | .fnmaS2 h d a b => some (packWord 25 h.e h.pg h.pn (bodyA 7 d a b))
  | .minS2 h d a b => some (packWord 26 h.e h.pg h.pn (bodyA 0 d a b))
  | .maxS2 h d a b => some (packWord 26 h.e h.pg h.pn (bodyA 1 d a b))
  | .minH4 h d a b => some (packWord 26 h.e h.pg h.pn (bodyA 2 d a b))
  | .maxH4 h d a b => some (packWord 26 h.e h.pg h.pn (bodyA 3 d a b))
  | .minBh4 h d a b => some (packWord 26 h.e h.pg h.pn (bodyA 4 d a b))
  | .maxBh4 h d a b => some (packWord 26 h.e h.pg h.pn (bodyA 5 d a b))
  | .absS2 h d a => some (packWord 26 h.e h.pg h.pn (bodyA 6 d a 0))
  | .negS2 h d a => some (packWord 26 h.e h.pg h.pn (bodyA 7 d a 0))
  | .eqS2 h d a b => some (packWord 27 h.e h.pg h.pn (bodyA 0 d a b))
  | .ltS2 h d a b => some (packWord 27 h.e h.pg h.pn (bodyA 1 d a b))
  | .leS2 h d a b => some (packWord 27 h.e h.pg h.pn (bodyA 2 d a b))
  | .unS2 h d a b => some (packWord 27 h.e h.pg h.pn (bodyA 3 d a b))
  | .eqH4 h d a b => some (packWord 27 h.e h.pg h.pn (bodyA 4 d a b))
  | .ltH4 h d a b => some (packWord 27 h.e h.pg h.pn (bodyA 5 d a b))
  | .leH4 h d a b => some (packWord 27 h.e h.pg h.pn (bodyA 6 d a b))
  | .unH4 h d a b => some (packWord 27 h.e h.pg h.pn (bodyA 7 d a b))
  | .cvtS2H4lo h d a => some (packWord 28 h.e h.pg h.pn (bodyA 0 d a 0))
  | .cvtS2H4hi h d a => some (packWord 28 h.e h.pg h.pn (bodyA 1 d a 0))
  | .cvtH4S2 h d a b => some (packWord 28 h.e h.pg h.pn (bodyA 2 d a b))
  | .cvtBh4S2 h d a b => some (packWord 28 h.e h.pg h.pn (bodyA 3 d a b))
  | .cvtE4m3S2 h d a b => some (packWord 28 h.e h.pg h.pn (bodyA 4 d a b))
  | .cvtS2E4m3 h d a b => some (packWord 28 h.e h.pg h.pn (bodyA 5 d a b))
  | .cvtS2W h d a => some (packWord 28 h.e h.pg h.pn (bodyA 6 d a 0))
  | .cvtWS2 h d a => some (packWord 28 h.e h.pg h.pn (bodyA 7 d a 0))
  | .cvtE5m2S2 h d a b => some (packWord 29 h.e h.pg h.pn (bodyA 0 d a b))
  | .cvtS2E5m2 h d a b => some (packWord 29 h.e h.pg h.pn (bodyA 1 d a b))
  | .cvtS2Bh4lo h d a => some (packWord 29 h.e h.pg h.pn (bodyA 2 d a 0))
  | .cvtS2Bh4hi h d a => some (packWord 29 h.e h.pg h.pn (bodyA 3 d a 0))
  | .cvtH4E4m3 h d a b => some (packWord 29 h.e h.pg h.pn (bodyA 4 d a b))
  | .cvtE4m3H4 h d a => some (packWord 29 h.e h.pg h.pn (bodyA 5 d a 0))
  | .truncWS2 h d a => some (packWord 29 h.e h.pg h.pn (bodyA 6 d a 0))
  | .cvtS2Wz h d a => some (packWord 29 h.e h.pg h.pn (bodyA 7 d a 0))
  | .rcpS2 h d a => some (packWord 30 h.e h.pg h.pn (bodyA 0 d a 0))
  | .rsqS2 h d a => some (packWord 30 h.e h.pg h.pn (bodyA 1 d a 0))
  | .sqrtS2 h d a => some (packWord 30 h.e h.pg h.pn (bodyA 2 d a 0))
  | .exp2S2 h d a => some (packWord 30 h.e h.pg h.pn (bodyA 3 d a 0))
  | .log2S2 h d a => some (packWord 30 h.e h.pg h.pn (bodyA 4 d a 0))
  | .sinS2 h d a => some (packWord 30 h.e h.pg h.pn (bodyA 5 d a 0))
  | .cosS2 h d a => some (packWord 30 h.e h.pg h.pn (bodyA 6 d a 0))
  | .tanhS2 h d a => some (packWord 30 h.e h.pg h.pn (bodyA 7 d a 0))
  | .expr h x d a b => some (packWord 31 h.e h.pg h.pn (bodyA x.toNat d a b))
  | .br h i => some (packWord 32 true h.pg h.pn (i.toNat))
  | .call h i => some (packWord 33 true h.pg h.pn (i.toNat))
  | .jr h a => some (packWord 34 true h.pg h.pn (bodyA 0 0 a 0))
  | .jrl h a => some (packWord 34 true h.pg h.pn (bodyA 1 0 a 0))
  | .ret h => some (packWord 34 true h.pg h.pn (bodyA 2 0 0 0))
  | .trap h t => some (packWord 34 true h.pg h.pn (bodyK 3 0 t))
  | .rtt h => some (packWord 34 true h.pg h.pn (bodyA 4 0 0 0))
  | .brk h => some (packWord 34 h.e h.pg h.pn (bodyA 5 0 0 0))
  | .spawn h d a b => some (packWord 35 true h.pg h.pn (bodyA 0 d a b))
  | .spawnt h d a b => some (packWord 35 true h.pg h.pn (bodyA 1 d a b))
  | .endFibre h a s => some (packWord 35 true h.pg h.pn (bodyA 2 0 a (s.setWidth 6)))
  | .yield h => some (packWord 35 true h.pg h.pn (bodyA 3 0 0 0))
  | .sleept h a => some (packWord 35 true h.pg h.pn (bodyA 4 0 a 0))
  | .step h => some (packWord 35 true h.pg h.pn (bodyA 5 0 0 0))
  | .ropebar h => some (packWord 35 true h.pg h.pn (bodyA 6 0 0 0))
  | .nop h => some (packWord 35 h.e h.pg h.pn (bodyA 7 0 0 0))
  | .fenceRel h s => some (packWord 36 true h.pg h.pn (bodyA 0 0 0 (s.setWidth 6)))
  | .fenceAcq h s => some (packWord 36 h.e h.pg h.pn (bodyA 1 0 0 (s.setWidth 6)))
  | .fenceAr h s => some (packWord 36 true h.pg h.pn (bodyA 2 0 0 (s.setWidth 6)))
  | .ldaq h d a b => some (packWord 36 h.e h.pg h.pn (bodyA 3 d a b))
  | .strel h d a b => some (packWord 36 h.e h.pg h.pn (bodyA 4 d a b))
  | .waitg h d => some (packWord 36 true h.pg h.pn (bodyA 5 d 0 0))
  | .pref h a b => some (packWord 36 h.e h.pg h.pn (bodyA 6 0 a b))
  | .clwb h a b => some (packWord 36 h.e h.pg h.pn (bodyA 7 0 a b))
  | .ldb h d a o => some (packWord 40 h.e h.pg h.pn (bodyA 0 d a o))
  | .ldbz h d a o => some (packWord 40 h.e h.pg h.pn (bodyA 1 d a o))
  | .ldh h d a o => some (packWord 40 h.e h.pg h.pn (bodyA 2 d a o))
  | .ldhz h d a o => some (packWord 40 h.e h.pg h.pn (bodyA 3 d a o))
  | .ldw h d a o => some (packWord 40 h.e h.pg h.pn (bodyA 4 d a o))
  | .ldwz h d a o => some (packWord 40 h.e h.pg h.pn (bodyA 5 d a o))
  | .ldd h d a o => some (packWord 40 h.e h.pg h.pn (bodyA 6 d a o))
  | .ldq h d a o => some (packWord 40 h.e h.pg h.pn (bodyA 7 d a o))
  | .stb h d a o => some (packWord 41 h.e h.pg h.pn (bodyA 0 d a o))
  | .sth h d a o => some (packWord 41 h.e h.pg h.pn (bodyA 1 d a o))
  | .stw h d a o => some (packWord 41 h.e h.pg h.pn (bodyA 2 d a o))
  | .std h d a o => some (packWord 41 h.e h.pg h.pn (bodyA 3 d a o))
  | .stq h d a o => some (packWord 41 h.e h.pg h.pn (bodyA 4 d a o))
  | .ldbL h d a o => some (packWord 42 h.e h.pg h.pn (bodyA 0 d a o))
  | .ldbzL h d a o => some (packWord 42 h.e h.pg h.pn (bodyA 1 d a o))
  | .ldhL h d a o => some (packWord 42 h.e h.pg h.pn (bodyA 2 d a o))
  | .ldhzL h d a o => some (packWord 42 h.e h.pg h.pn (bodyA 3 d a o))
  | .ldwL h d a o => some (packWord 42 h.e h.pg h.pn (bodyA 4 d a o))
  | .ldwzL h d a o => some (packWord 42 h.e h.pg h.pn (bodyA 5 d a o))
  | .lddL h d a o => some (packWord 42 h.e h.pg h.pn (bodyA 6 d a o))
  | .ldqL h d a o => some (packWord 42 h.e h.pg h.pn (bodyA 7 d a o))
  | .stbL h d a o => some (packWord 43 h.e h.pg h.pn (bodyA 0 d a o))
  | .sthL h d a o => some (packWord 43 h.e h.pg h.pn (bodyA 1 d a o))
  | .stwL h d a o => some (packWord 43 h.e h.pg h.pn (bodyA 2 d a o))
  | .stdL h d a o => some (packWord 43 h.e h.pg h.pn (bodyA 3 d a o))
  | .stqL h d a o => some (packWord 43 h.e h.pg h.pn (bodyA 4 d a o))
  | .amin h d a b => some (packWord 44 h.e h.pg h.pn (bodyA 0 d a b))
  | .amax h d a b => some (packWord 44 h.e h.pg h.pn (bodyA 1 d a b))
  | .aminu h d a b => some (packWord 44 h.e h.pg h.pn (bodyA 2 d a b))
  | .amaxu h d a b => some (packWord 44 h.e h.pg h.pn (bodyA 3 d a b))
  | .aor h d a b => some (packWord 44 h.e h.pg h.pn (bodyA 4 d a b))
  | .aand h d a b => some (packWord 44 h.e h.pg h.pn (bodyA 5 d a b))
  | .aadd h d a b => some (packWord 44 h.e h.pg h.pn (bodyA 6 d a b))
  | .aswap h d a b => some (packWord 44 h.e h.pg h.pn (bodyA 7 d a b))
  | .aminW h d a b => some (packWord 45 h.e h.pg h.pn (bodyA 0 d a b))
  | .amaxW h d a b => some (packWord 45 h.e h.pg h.pn (bodyA 1 d a b))
  | .aminuW h d a b => some (packWord 45 h.e h.pg h.pn (bodyA 2 d a b))
  | .amaxuW h d a b => some (packWord 45 h.e h.pg h.pn (bodyA 3 d a b))
  | .aorW h d a b => some (packWord 45 h.e h.pg h.pn (bodyA 4 d a b))
  | .aandW h d a b => some (packWord 45 h.e h.pg h.pn (bodyA 5 d a b))
  | .aaddW h d a b => some (packWord 45 h.e h.pg h.pn (bodyA 6 d a b))
  | .aswapW h d a b => some (packWord 45 h.e h.pg h.pn (bodyA 7 d a b))
  | .cas h d a b => some (packWord 46 h.e h.pg h.pn (bodyA 0 d a b))
  | .casw h d a b => some (packWord 46 h.e h.pg h.pn (bodyA 1 d a b))
  | .faddS h d a b => some (packWord 46 h.e h.pg h.pn (bodyA 2 d a b))
  | .fmaxS h d a b => some (packWord 46 h.e h.pg h.pn (bodyA 3 d a b))
  | .aminL h d a b => some (packWord 47 h.e h.pg h.pn (bodyA 0 d a b))
  | .amaxL h d a b => some (packWord 47 h.e h.pg h.pn (bodyA 1 d a b))
  | .aminuL h d a b => some (packWord 47 h.e h.pg h.pn (bodyA 2 d a b))
  | .amaxuL h d a b => some (packWord 47 h.e h.pg h.pn (bodyA 3 d a b))
  | .aorL h d a b => some (packWord 47 h.e h.pg h.pn (bodyA 4 d a b))
  | .aandL h d a b => some (packWord 47 h.e h.pg h.pn (bodyA 5 d a b))
  | .aaddL h d a b => some (packWord 47 h.e h.pg h.pn (bodyA 6 d a b))
  | .aswapL h d a b => some (packWord 47 h.e h.pg h.pn (bodyA 7 d a b))
  | .arm h l a => some (packWord 48 h.e h.pg h.pn (bodyY 0 l false a 0))
  | .sign h l w a d => some (packWord 48 h.e h.pg h.pn (bodyY 1 l w a d))
  | .vote h l w a d => some (packWord 48 h.e h.pg h.pn (bodyY 2 l w a d))
  | .scan h l w a d => some (packWord 48 h.e h.pg h.pn (bodyY 3 l w a d))
  | .xchg h l w a d => some (packWord 48 h.e h.pg h.pn (bodyY 4 l w a d))
  | .bar h l w d => some (packWord 48 true h.pg h.pn (bodyY 5 l w 0 d))
  | .redmax h l w a d => some (packWord 48 h.e h.pg h.pn (bodyY 6 l w a d))
  | .redadd h l w a d => some (packWord 48 h.e h.pg h.pn (bodyY 7 l w a d))
  | .mmaE4m3 h l r a b => some (packWord 49 h.e h.pg h.pn (bodyT 0 l r a b))
  | .mmapE4m3 h l r a b => some (packWord 49 h.e h.pg h.pn (bodyT 1 l r a b))
  | .mmaH h l r a b => some (packWord 49 h.e h.pg h.pn (bodyT 2 l r a b))
  | .mmaBh h l r a b => some (packWord 49 h.e h.pg h.pn (bodyT 3 l r a b))
  | .mmaI8 h l r a b => some (packWord 49 h.e h.pg h.pn (bodyT 4 l r a b))
  | .aballoc h d a => some (packWord 50 true h.pg h.pn (bodyA 0 d a 0))
  | .abfree h => some (packWord 50 h.e h.pg h.pn (bodyA 1 0 0 0))
  | .drain h d a b => some (packWord 50 true h.pg h.pn (bodyA 2 d a b))
  | .accz h a => some (packWord 50 h.e h.pg h.pn (bodyA 3 0 a 0))
  | .accld h a => some (packWord 50 h.e h.pg h.pn (bodyA 4 0 a 0))
  | .tdset h t a => some (packWord 50 h.e h.pg h.pn (bodyA 5 t a 0))
  | .tdinv h t => some (packWord 50 h.e h.pg h.pn (bodyA 6 t 0 0))
  | .tbld h t a => some (packWord 50 h.e h.pg h.pn (bodyA 7 (t.setWidth 6) a 0))
  | .cpy h s o a b => some (packWord 56 true h.pg h.pn (bodyX 0 s o a b))
  | .cpy2d h s o a b => some (packWord 56 true h.pg h.pn (bodyX 1 s o a b))
  | .fill h s o a b => some (packWord 56 true h.pg h.pn (bodyX 2 s o a b))
  | .cpyfp h s o a b => some (packWord 56 true h.pg h.pn (bodyX 3 s o a b))
  | .cmpb h s o a b => some (packWord 56 true h.pg h.pn (bodyX 4 s o a b))
  | .spmap h s o a b => some (packWord 56 true h.pg h.pn (bodyX 5 s o a b))
  | .spfill h s o a b => some (packWord 56 true h.pg h.pn (bodyX 6 s o a b))
  | .spwb h s o a b => some (packWord 56 true h.pg h.pn (bodyX 7 s o a b))
  | .spunmap h s o a b => some (packWord 56 true h.pg h.pn (bodyX 8 s o a b))
  | .gather h s o a b => some (packWord 57 true h.pg h.pn (bodyX 0 s o a b))
  | .gsum h s o a b => some (packWord 57 true h.pg h.pn (bodyX 1 s o a b))
  | .gmax h s o a b => some (packWord 57 true h.pg h.pn (bodyX 2 s o a b))
  | .scatter h s o a b => some (packWord 57 true h.pg h.pn (bodyX 3 s o a b))
  | .scadd h s o a b => some (packWord 57 true h.pg h.pn (bodyX 4 s o a b))
  | .hamd h s o a b => some (packWord 57 true h.pg h.pn (bodyX 5 s o a b))
  | .wpush h w a b => some (packWord 58 true h.pg h.pn (bodyW 0 w a b))
  | .wpushs h w a b => some (packWord 58 true h.pg h.pn (bodyW 1 w a b))
  | .wpop h w d k => some (packWord 58 h.e h.pg h.pn (bodyW 2 w d (BitVec.ofNat 6 (bitNat k))))
  | .wpopw h w d k => some (packWord 58 true h.pg h.pn (bodyW 3 w d (BitVec.ofNat 6 (bitNat k))))
  | .wdone h w => some (packWord 58 true h.pg h.pn (bodyW 4 w 0 0))
  | .wbound h w a => some (packWord 58 h.e h.pg h.pn (bodyW 5 w a 0))
  | .wterm h w d => some (packWord 58 true h.pg h.pn (bodyW 6 w d 0))
  | .wstat h w d b => some (packWord 58 h.e h.pg h.pn (bodyW 7 w d b))
  | .launch h s o a => some (packWord 59 true h.pg h.pn (bodyX 0 s o a 0))
  | .evsig h s o a b => some (packWord 59 true h.pg h.pn (bodyX 1 s o a b))
  | .evwait h s o a b => some (packWord 59 true h.pg h.pn (bodyX 2 s o a b))
  | .gset h d q => some (packWord 60 true h.pg h.pn (bodyA 0 d 0 q))
  | .gclr h d q => some (packWord 60 true h.pg h.pn (bodyA 1 d 0 q))
  | .grst h q => some (packWord 60 h.e h.pg h.pn (bodyA 2 0 0 q))
  | .hintLit i => some (packHint 0 (i.toNat))
  | .hintLith i => some (packHint 1 (i.toNat))
  | .hintVec m v r z s o => some (packHint 2 (m.toNat * 2 ^ 19 + bitNat v * 2 ^ 18 + r.toNat * 2 ^ 16 + bitNat z * 2 ^ 15 + bitNat s * 2 ^ 14 + o.toNat * 2 ^ 8))
  | .hintMemo s a r c => some (packHint 3 (s.toNat * 2 ^ 19 + bitNat a * 2 ^ 18 + bitNat r * 2 ^ 17 + c.toNat * 2 ^ 15))
  | .hintGuard q p => some (packHint 4 (q.toNat * 2 ^ 16 + bitNat p * 2 ^ 15))
  | .hintSched y b => some (packHint 5 (bitNat y * 2 ^ 21 + bitNat b * 2 ^ 20))
  | .hintKsrc k x => some (packHint 6 (k.toNat * 2 ^ 13 + bitNat x * 2 ^ 12))
  | .runSelection .. => none
  | .commandAcceptance .. => none
  | .copyCommandComplete .. => none
  | .lnchCommandComplete .. => none
  | .promiseMissed .. => none
  | .sleepWake .. => none
  | .fenceWaitEnd .. => none
  | .releaseHoldIssue .. => none
  | .l1Fill .. => none
  | .longLatencyResult .. => none
  | .writeArrival .. => none
  | .gwctPassed .. => none
  | .atomicExecution .. => none
  | .replicatedWriteSequence .. => none
  | .writeMergeWindow .. => none
  | .remoteScratchpadAccess .. => none
  | .chunkFillComplete .. => none
  | .faultRequest .. => none
  | .frespRetry .. => none
  | .frespDeny .. => none
  | .tinvcmd .. => none
  | .invalidationComplete .. => none
  | .fqcfgWrite .. => none
  | .peerTranslationRecall .. => none
  | .peerLeaseExpiry .. => none
  | .matrixQueueEntryComplete .. => none
  | .aballocGrant .. => none
  | .evwaitSatisfied .. => none
  | .hostQueueSlotRead .. => none
  | .deviceQueueHeadTake .. => none
  | .launchCheck .. => none
  | .launchStart .. => none
  | .preemption .. => none
  | .launchRestore .. => none
  | .dieSetChange .. => none
  | .launchCompletion .. => none
  | .coreUncorrectableError .. => none
  | .ropeLossTimeout .. => none
  | .ropeRestart .. => none
  | .gatherSplit .. => none
  | .msePartService .. => none
  | .scaddContributionApply .. => none
  | .gatherMerge .. => none
  | .gatherGrantRequest .. => none
  | .gatherGrant .. => none
  | .pushAcceptance .. => none
  | .inversionPushAnnounced .. => none
  | .horizonBroadcast .. => none
  | .wpopwDelivery .. => none
  | .idleRequest .. => none
  | .taskTransferArrival .. => none
  | .terminationSweep .. => none
  | .packetDataFlit .. => none
  | .timeSyncFlit .. => none
  | .controlFlit .. => none
  | .idleFlit .. => none
  | .flitReplay .. => none
  | .flitIdleTimer .. => none
  | .timeSyncTimer .. => none
  | .portRetrain .. => none
  | .retrainComplete .. => none
  | .lossOfSignal .. => none
  | .flowletGapExpiry .. => none
  | .d2dLinkFailure .. => none
  | .fabricJoin .. => none
  | .joinNotice .. => none
  | .departureNotice .. => none
  | .remoteRequest .. => none
  | .remoteReply .. => none
  | .hostSurpriseDown .. => none
  | .atsInvalidationRequest .. => none
  | .bar2Write .. => none
  | .bar2Read .. => none
  | .qtailDoorbell .. => none
  | .qcfgWrite .. => none
  | .fabcfgWrite .. => none
  | .mcdataWrite .. => none
  | .errcfgWrite .. => none
  | .errlostClear .. => none
  | .mstatReasonClear .. => none
  | .registerWrite .. => none
  | .getstat .. => none
  | .quiesce .. => none
  | .resume .. => none
  | .retire .. => none
  | .porten .. => none
  | .keyset .. => none
  | .keyerase .. => none
  | .attest .. => none
  | .fwload .. => none
  | .counters .. => none
  | .coreRetirement .. => none
  | .hbmRowRemap .. => none
  | .rowRemapComplete .. => none
  | .correctedError .. => none
  | .uncorrectableMemoryError .. => none
  | .fatalError .. => none
  | .packagePowerLimit .. => none
  | .dieTemperatureLimit .. => none
  | .powerTrip .. => none
  | .thermalTrip .. => none
  | .coolantOutOfRange .. => none
  | .moduleReset .. => none
  | .fqheadWrite .. => none
  | .hostLinkTrained .. => none
  | .portTrainingComplete .. => none
  | .quiesceComplete .. => none
  | .fatalDumpComplete .. => none

end Sys2Proof

end
end

