-- ==== Sys2Proof/Machine/Fetch.lean ====
section
/-! DEFINITION. From the address of a word to the word that executes: fetching, the structural checks of a run (R46, R48,
R52, R54), safe points (R71, R150), and the issue of a word for the head member of a batch. -/

noncomputable section

namespace Sys2Proof.Machine

/-! ### Hints and what they fit (R48) -/

/-- The major opcode of a word. -/
def majorOf (w : W32) : Nat := w.toNat / 2 ^ 26

/-- Bits [20:18] of a word. -/
def fnOf (w : W32) : Nat := w.toNat / 2 ^ 18 % 8

/-- Whether a word is a hint. -/
def isHint (w : W32) : Bool := majorOf w == 63

/-- Whether a word reads SB as a register in a major that takes KSRC (R48). -/
def takesKsrc (w : W32) : Bool :=
  let fn := fnOf w
  match majorOf w with
  | 0x01 | 0x06 | 0x07 | 0x08 | 0x0C => true
  | 0x03 => decide (fn < 5)
  | 0x04 => fn != 7
  | 0x10 | 0x11 | 0x12 | 0x13 | 0x15 | 0x16 | 0x17 | 0x18 | 0x19 | 0x1B | 0x1F => true
  | 0x1A => decide (fn < 6)
  | 0x1C => fn == 2 || fn == 3 || fn == 4 || fn == 5
  | 0x1D => fn == 0 || fn == 1 || fn == 4
  | _ => false

/-- Whether a word takes a VEC hint's rounding field (R48). -/
def takesRounding (w : W32) : Bool :=
  [0x18, 0x19, 0x1C, 0x1D, 0x1E, 0x1F].contains (majorOf w)

/-- Whether a hint word (as decoded) fits the word it attaches to (R48). -/
def hintFits (h : Instr) (w : W32) : Bool :=
  let maj := majorOf w
  match h with
  | .hintLit _ => [0x02, 0x09, 0x0B, 0x20, 0x21, 0x28, 0x29, 0x2A, 0x2B].contains maj
  | .hintLith _ => [0x02, 0x09, 0x0B, 0x28, 0x29, 0x2A, 0x2B].contains maj
  | .hintVec _ _ r _ sat o =>
    decide (0x10 ≤ maj) && decide (maj ≤ 0x1F) && (r == 0 || takesRounding w) &&
      (!sat || maj == 0x1C || maj == 0x1D) && (o == 0 || maj == 0x1F)
  | .hintMemo _ acq rel _ =>
    (maj == 0x28 && !rel) || (maj == 0x29 && !acq) || maj == 0x2C || maj == 0x2D || maj == 0x2E ||
      (maj == 0x24 && [3, 4, 6, 7].contains (fnOf w) && !acq && !rel)
  | .hintGuard _ _ => maj == 0x38 || maj == 0x39
  | .hintSched _ _ => true
  | .hintKsrc _ two => takesKsrc w && w.toNat % 64 == 0 && (!two || w.toNat / 64 % 64 == 0)
  | _ => false

/-- Whether the pending group of a fibre already has a hint of this one's kind (R46). -/
def Hints.has (g : Hints) (h : Instr) : Bool :=
  match h with
  | .hintLit _ => g.lit.isSome
  | .hintLith _ => g.lith.isSome
  | .hintVec .. => g.vec.isSome
  | .hintMemo .. => g.memo.isSome
  | .hintGuard .. => g.guard.isSome
  | .hintSched .. => g.sched.isSome
  | .hintKsrc .. => g.ksrc.isSome
  | _ => false

/-! ### What the first word of a run reads (R144, R146) -/

/-- Registers `n` from a code on. -/
def group (c n : Nat) : List Nat := upFrom c n

/-- The registers that a word without hints reads, by its major and function (R163 to R184, R188, R255 to R264, R267, R288,
R346, R390): latch codes among them name no register. -/
def readsOf (w : W32) : List Nat :=
  let d := w.toNat / 2 ^ 12 % 64
  let a := w.toNat / 2 ^ 6 % 64
  let b := w.toNat % 64
  let fn := fnOf w
  let form := w.toNat / 2 ^ 12 % 16
  match majorOf w with
  | 0x01 | 0x06 | 0x07 | 0x08 | 0x0C | 0x2C | 0x2D | 0x2F | 0x39 => [a, b]
  | 0x10 | 0x11 | 0x13 | 0x15 | 0x16 | 0x18 | 0x1B => [a, b]
  | 0x02 | 0x05 | 0x09 | 0x1E | 0x28 | 0x2A => [a]
  | 0x03 => if fn < 5 then [a, b] else [a]
  | 0x04 => if fn = 7 then [a] else [a, b]
  | 0x0A => if fn = 5 then [a] else []
  | 0x0D => if fn = 1 then [b] else if fn = 3 then [d] else []
  | 0x12 => if 4 ≤ fn then [d, a, b] else [a, b]
  | 0x14 => if fn = 7 then [d, a] else [a]
  | 0x17 => if fn = 7 then [d, a, b] else [a, b]
  | 0x19 => if 3 ≤ fn then [d, a, b] else [a, b]
  | 0x1A => if fn < 6 then [a, b] else [a]
  | 0x1C => if fn = 4 then [d, a, b] else if takesKsrc w then [a, b] else [a]
  | 0x1D => if fn = 0 then [d, a, b] else if fn = 5 then [d, a] else if takesKsrc w then [a, b] else [a]
  | 0x1F => [d, a, b]
  | 0x22 => if fn < 2 then [a] else []
  | 0x23 => if fn = 0 then [a, b] else if fn = 1 then [d, a, b] else if fn = 2 ∨ fn = 4 then [a] else []
  | 0x24 => if fn = 4 then [d, a, b] else if fn = 3 ∨ fn = 6 ∨ fn = 7 then [a, b] else []
  | 0x29 | 0x2B => [a, d] ++ if fn = 4 then [d + 1] else []
  | 0x2E => if fn < 2 then [d, a, b] else [a, b]
  | 0x30 => if fn = 4 then [a, b] else if fn = 5 then [] else [a]
  | 0x31 => b :: group a (if form % 8 = 1 then 5 else 4)
  | 0x32 => if fn = 2 then [a, b] else if fn = 1 ∨ fn = 6 then [] else [a]
  | 0x38 => b :: group a (if 6 ≤ form then 1 else if form = 1 ∨ form = 3 ∨ form = 4 then 3 else 2)
  | 0x3A =>
    let wfn := w.toNat / 2 ^ 17 % 16
    if wfn < 2 then [a, b] else if wfn = 5 then [a] else if wfn = 7 then [b] else []
  | 0x3B => if form = 0 then [a] else [a, b]
  | _ => []

/-- Whether a word makes a load or an atomic, which waits for an acquire before it (R263). -/
def isAccess (w : W32) : Bool :=
  [0x28, 0x2A, 0x2C, 0x2D, 0x2E, 0x2F].contains (majorOf w) || (majorOf w == 0x24 && fnOf w == 3) ||
    (majorOf w == 0x32 && [4, 5, 7].contains (fnOf w))

/-- Whether a word of a fibre makes a load or an atomic: a RET that refills the return stack makes one too (R175, R255). -/
def Fibre.accesses (f : Fibre) (w : W32) : Bool := isAccess w || (majorOf w == 0x22 && fnOf w == 2 && decide (9 ≤ f.depth))

/-- Whether a word waits for a release hold (R264): a load, an atomic, a fence or an engine command. -/
def Fibre.waitsHold (f : Fibre) (w : W32) : Bool :=
  f.accesses w || [0x38, 0x39, 0x3A, 0x3B].contains (majorOf w) || (majorOf w == 0x24 && decide (fnOf w < 6))

/-- Whether a fibre has to wait before a word that starts its run: for a register that the word reads (R144), for an acquire
or a release hold (R263, R264). A word that its guard keeps from executing waits for nothing (R36). -/
def State.waitsAt (s : State) (f : Fibre) (w : W32) : Bool :=
  !(isHint w) && f.guardOn (BitVec.ofNat 3 (w.toNat / 2 ^ 22)) (w.toNat / 2 ^ 21 % 2 == 1) &&
    ((readsOf w).any f.waits || (f.acqHold && f.accesses w && s.accessesOut f.key) ||
      (f.relHold.isSome && f.waitsHold w))

/-! ### Fetching (R35, R174) -/

/-- What stands at an address of .text. Instruction fetch reads at the home, as the launch engine reads the image
(R70, log 16). -/
inductive Fetched where
  | word (w : W32) (leaf : Leaf)
  | outside
  /-- Its line has to come over the fabric or the host link first (log 17). -/
  | away (p : Place)
  | fault (x : XlatAll)
  deriving DecidableEq, Repr

/-- The word at an address, for a fibre. -/
def State.fetch (s : State) (f : Fibre) (pc : Word) : Fetched :=
  match s.launchOf f with
  | none => .outside
  | some l =>
    if !(l.inText pc) then .outside
    else
      match s.translate (.core f.core) l.fn pc.toNat false with
      | .ok leaf =>
        let p := placeIn leaf pc.toNat
        if p.away && (s.fab.farLine p.line).isNone then .away p
        else .word (BitVec.ofNat 32 (natLE (s.agentLine p 4 leaf.key (dieOfCore f.core)))) leaf
      | x => .fault (x.at_ pc.toNat)

/-- Whether a fibre waits for nothing of its own: every register is ready, and no hold is out. -/
def Fibre.unheld (f : Fibre) : Bool := f.notReady.isEmpty && !f.acqHold && f.relHold.isNone

/-- Whether a fibre is ready to start a run with the word it stands at (R146); one that may have to wait for that word is
not while the word itself has to come first. -/
def State.firstReady (s : State) (f : Fibre) : Bool :=
  f.unheld ||
    (match s.fetch f f.pc with
     | .word w _ => !(s.waitsAt f w)
     | .away _ => false
     | .fault (.walk ..) => false
     | _ => true)

/-- The first word of such a fibre asked for, where its line has to come or a peer's export table has to be walked. -/
def State.askFirst (s : State) (f : Fibre) : State :=
  if f.unheld then s
  else
    match s.fetch f f.pc with
    | .away p => s.askFar p
    | .fault (.walk peer frame write) => s.askWalk peer frame write
    | _ => s

/-- What a scan of a run finds after a hint: the rest of its group, and the word it attaches to or what stands there. -/
structure Ahead where
  hints : List Instr
  word : Option W32
  at_ : Fetched
  deriving DecidableEq, Repr

/-- The words of the hint group from an address on, and the word it attaches to. -/
def State.lookAhead (s : State) (f : Fibre) : Nat → Word → Ahead
  | 0, _ => ⟨[], none, .outside⟩
  | fuel + 1, pc =>
    match s.fetch f pc with
    | .word w leaf =>
      if isHint w then
        let r := s.lookAhead f fuel (pc + 4)
        match decodeWord w with
        | .ok h => { r with hints := h :: r.hints }
        | .error _ => r
      else ⟨[], some w, .word w leaf⟩
    | x => ⟨[], none, x⟩

/-- Whether an instruction is LIT. -/
def isLit : Instr → Bool
  | .hintLit _ => true
  | _ => false

/-- Whether a hint is at fault by R46: a second of its kind, a LITH without LIT, or a kind that does not fit. A word that
cannot be fetched at all takes no hint: its own fault is what the fibre meets. -/
def hintFault (ahead : Ahead) (f : Fibre) (h : Instr) : Bool :=
  f.hints.has h ||
  (match h with
   | .hintLith _ => f.hints.lit.isNone && ahead.word.isSome && !(ahead.hints.any isLit)
   | _ => false) ||
  (match ahead.word with
   | some w => !(hintFits h w)
   | none => false)

/-- The hint of a pending group that does not go with the word that it attaches to, with its address: the first that does not fit, or a
LITH without LIT. The scan of its run has not seen that word where its page was away (R46, R52). -/
def Hints.misfit (g : Hints) (w : W32) : Option (Word × W32) :=
  g.words.find? fun x =>
    match decodeWord x.2 with
    | .ok (.hintLith i) => g.lit.isNone || !(hintFits (.hintLith i) w)
    | .ok h => !(hintFits h w)
    | .error _ => false

/-- What the scan of a run asks for before a hint can be judged (R52): the line of the attached word, or the walk of a
peer's export table. -/
def State.scanWaits (s : State) (ahead : Ahead) : Option State :=
  match ahead.at_ with
  | .away p => some (s.askFar p)
  | .fault (.walk peer frame write) => some (s.askWalk peer frame write)
  | _ => none

/-- Whether the word is the 24th of its run and does not end it (R46, R52). -/
def tooLong (f : Fibre) (w : W32) : Bool :=
  decide (23 ≤ f.runCount) && (isHint w || w.toNat / 2 ^ 25 % 2 == 0)

/-! ### The issue of a word -/

/-- What the issue of a word for the current fibre comes to before the word acts. -/
inductive Prepared where
  /-- The word executes in this state. -/
  | run (i : Instr) (s : State)
  /-- The fibre has left its batch: a trap or a page fault of the fetch. -/
  | left (s : State)
  /-- The word holds its slot, perhaps after something it waits for has been asked for. -/
  | hold (s : State)

/-- The fibre with the word being issued. -/
def Fibre.issuing (f : Fibre) (w : W32) : Fibre := { f with ir := w, afterCommit := none, nextSafe := false }

/-- The word of a fibre past the checks of the run's structure: its safe point is crossed, and it executes (R150). -/
def State.crossAndRun (s : State) (f : Fibre) (i : Instr) : Prepared :=
  let f := { f with nextSafe := s.isSafe f (f.pc + 4) }
  if s.isSafe f f.pc then
    match s.cross f with
    | some (s, f) => .run i (s.setFibre f)
    | none => .hold s
  else .run i (s.setFibre f)

/-- The issue of the word of the current fibre: fetch, structure, safe point (R52, R54, R150). A member that waits in the
slot lets the next one go on (R263). -/
def State.prepare (s : State) (f : Fibre) : Prepared :=
  if f.status ≠ .eligible then .hold s.nextMember
  else
  let s := s.evictCode f.core
  match s.fetch f f.pc with
  | .outside => .left ((s.trapEntry f 0x04 f.pc f.pc).leaveBatch f.key)
  | .fault x =>
    match xlatFault s f 0 x with
    | .out s' => .left (s'.leaveBatch f.key)
    | .trap s' f' c v t => .left ((s'.trapEntry f' c v t).leaveBatch f.key)
    | .hold s' => .hold s'
    | _ => .hold s
  | .away p => .hold (s.askFar p)
  | .word w leaf =>
    let f := f.issuing w
    let illegalAt := fun (pc : Word) (w : W32) => Prepared.left ((s.trapEntry f 0x01 (tvalWord 0 w) pc).leaveBatch f.key)
    let illegal := illegalAt f.pc w
    match decodeWord w with
    | .error _ => illegal
    | .ok i =>
      match if isHint w then none else f.hints.misfit w with
      | some x => illegalAt x.1 x.2
      | none =>
      let ahead := if isHint w then s.lookAhead f 24 (f.pc + 4) else ⟨[], none, .outside⟩
      match s.scanWaits ahead with
      | some s => .hold s
      | none =>
        if (isHint w && hintFault ahead f i) || tooLong f w then illegal
        else
          match (s.cache (.core f.core) (s.fnOf f) f.pc.toNat leaf).withMarks f with
          | .error a => .hold (s.ask a)
          | .ok s => (s.dropFar [(placeIn leaf f.pc.toNat).line]).crossAndRun f i

/-! ### Which batch issues -/

/-- The batch of a slot brought to the front. -/
def State.frontBatch (s : State) (core part slot : Nat) : State :=
  let is := fun (b : Batch) => b.core == core && b.part == part && b.slot == slot
  { s with batches := s.batches.filter is ++ s.batches.filter (fun b => !(is b)) }

/-- The first batch to the end, so that the slots of the package take turns. -/
def State.rotateBatches (s : State) : State := { s with batches := s.batches.drop 1 ++ s.batches.take 1 }

end Sys2Proof.Machine

end
end

