-- ==== Sys2Proof/Machine/Order.lean ====
section
/-! DEFINITION. Ordering words: ORD (R87 to R89, R261 to R264). -/

namespace Sys2Proof.Machine

/-- FENCE.rel and FENCE.ar (R87, R89, R262): a commit point; the write-backs start and the fibre waits in its slot (R263). -/
def fenceWord (sc : BitVec 3) (acq : Bool) (h : Gd) : State → Host.Outcome State Fault Refusal :=
  runWord true h.pg h.pn false fun s f =>
    withOpds [] (scopeBad sc) (fun s f =>
      commitPoint (fun s f =>
        if f.relHold.isSome || s.narrowOut f.key then .stall
        else
          let s := s.writeBacks f.core sc.toNat [f.key] []
          s.holdSlot { f with acqHold := f.acqHold || acq } (.fence sc.toNat none)) s f) s f

/-- The line a PREF or CLWB names, where the address translates as a read without a fault, given to `k`, or none; a walk of a
peer's export table, or of ATS, is made first (R262). -/
def withQuiet (va : Word) (k : Option (Nat × Leaf) → State → Fibre → WordOut) (s : State) (f : Fibre) : WordOut :=
  match s.translate (.core f.core) (s.fnOf f) va.toNat false with
  | .ok leaf => k (some (va.toNat, leaf)) s f
  | .walk peer frame write => .hold (s.askWalk peer frame write)
  | _ => k none s f

/-- A prefetch (R262): a miss-status entry for the line without a load, unless the copy is there; none while no entry is free, for
which the word holds its slot (R231). -/
def State.prefetch (s : State) (f : Fibre) (va : Nat) (leaf : Leaf) : Option State :=
  let p : Piece := ⟨placeIn leaf va, 1, leaf, va⟩
  let s := s.cache (.core f.core) (s.fnOf f) va leaf
  let has := match s.m.l1Line? f.core p.place.line with
    | some l => decide (s.ftime < l.lease)
    | none => false
  if has || (s.openEntry f.core p).isSome then some s
  else if 256 ≤ (s.m.mshrs.filter fun e => e.core == f.core).length then none
  else
    let e : Mshr := ⟨s.uid, f.core, p.place.line, s.ftime, f.memoPolicy, leaf.key, true, none⟩
    some { s with m := { s.m with mshrs := s.m.mshrs ++ [e] }, uid := s.uid + 1 }

/-- FENCE_REL (R87): Commits, writes back narrower-tagged lines and waits for GWMAX. -/
def execFenceRel (h : Gd) (sc : BitVec 3) (s : State) :
    Host.Outcome State Fault Refusal :=
  fenceWord sc false h s

/-- FENCE_ACQ (R88): Orders later loads after earlier loads. -/
def execFenceAcq (h : Hdr) (sc : BitVec 3) (s : State) :
    Host.Outcome State Fault Refusal :=
  runWord h.e h.pg h.pn false (fun s f =>
    withOpds [] (scopeBad sc) (fun s f => if f.relHold.isSome then .stall else .next s (f.holdAcq true)) s f) s

/-- FENCE_AR (R89): FENCE.rel followed by FENCE.acq. -/
def execFenceAr (h : Gd) (sc : BitVec 3) (s : State) :
    Host.Outcome State Fault Refusal :=
  fenceWord sc true h s

/-- LDAQ (R262): Aligned 8-byte acquiring load. -/
def execLdaq (h : Hdr) (d : BitVec 6) (a : BitVec 6) (b : BitVec 6) (s : State) :
    Host.Outcome State Fault Refusal :=
  runWord h.e h.pg h.pn false (fun s f =>
    withOpds [⟨1, d, .long⟩, ⟨2, a, .src⟩, ⟨3, b, .src⟩] f.memoBad (fun s f =>
      let va := f.eaA a b
      if va.toNat % 8 != 0 then trapOwn s f 0x03 va else loadWord ⟨8, false⟩ d.toNat true va s f) s f) s

/-- STREL (R262): Aligned 8-byte releasing store as a release hold. -/
def execStrel (h : Hdr) (d : BitVec 6) (a : BitVec 6) (b : BitVec 6) (s : State) :
    Host.Outcome State Fault Refusal :=
  runWord h.e h.pg h.pn false (fun s f =>
    withOpds [⟨1, d, .src⟩, ⟨2, a, .src⟩, ⟨3, b, .src⟩] f.memoBad (fun s f =>
      let va := f.eaA a b
      if f.inTask then taskFault s f 2
      else if va.toNat % 8 != 0 then trapOwn s f 0x03 va
      else storeWord (bytesLE 8 (f.src d).toNat) (f.memoScope 3) f.memoPolicy true va s f) s f) s

/-- WAITG (R262): Commits and waits until FTIME reaches GWMAX, returning GWMAX. -/
def execWaitg (h : Gd) (d : BitVec 6) (s : State) :
    Host.Outcome State Fault Refusal :=
  runWord true h.pg h.pn false (fun s f =>
    withOpds [⟨1, d, .long⟩] [] (fun s f =>
      commitPoint (fun s f =>
        if f.relHold.isSome then .stall else s.holdSlot f (.fence 0 (some d.toNat))) s f) s f) s

/-- PREF (R262): Prefetches a line without faulting. -/
def execPref (h : Hdr) (a : BitVec 6) (b : BitVec 6) (s : State) :
    Host.Outcome State Fault Refusal :=
  runWord h.e h.pg h.pn false (fun s f =>
    withOpds [⟨2, a, .src⟩, ⟨3, b, .src⟩] f.memoBad (fun s f =>
      withQuiet (f.eaA a b) (fun x s f =>
        match x with
        | none => .next s f
        | some (va, leaf) => ((s.prefetch f va leaf).map fun s => WordOut.next s f).getD .stall) s f) s f) s

/-- CLWB (R262): Buffers a write-back of a narrower-tagged line. -/
def execClwb (h : Hdr) (a : BitVec 6) (b : BitVec 6) (s : State) :
    Host.Outcome State Fault Refusal :=
  runWord h.e h.pg h.pn false (fun s f =>
    withOpds [⟨2, a, .src⟩, ⟨3, b, .src⟩] f.memoBad (fun s f =>
      withQuiet (f.eaA a b) (fun x s f =>
        let line := x.map fun p => (placeIn p.2 p.1).line
        putEntry (f.eaA a b) (.clwb (f.eaA a b).toNat line (f.memoScope 3)) .next s f) s f) s f) s

end Sys2Proof.Machine
end

