-- ==== Sys2Proof/Machine/Sched.lean ====
section
/-! DEFINITION. The sequencer's own moves: run selection, posted causes, wakes, results, the waits of fences and release
holds (R23, R24, R87, R138, R144, R147, R264). -/

namespace Sys2Proof.Machine

/-! ### Posted causes (R24, R26) -/

/-- The sequence number of a posted PROMISE_MISSED's ticket (R25). -/
def Posted.age (p : Posted) : Nat := p.tval.toNat % 2 ^ 32

/-- Whether one posted cause is delivered before another that was posted before it or at the same time (R24). -/
def Posted.beats (p q : Posted) : Bool :=
  if p.cause = 5 then q.cause != 5 || decide (p.age < q.age)
  else q.cause != 5 && p.at_ == q.at_ && decide (p.cause < q.cause)

/-- The posted cause delivered first (R24). -/
def firstPosted : List Posted → Option Posted
  | [] => none
  | p :: r => some (r.foldl (fun x y => if y.beats x then y else x) p)

/-- The cause that a run start or a wake of a fibre delivers: none in trap mode (R26). -/
def Fibre.deliverable (f : Fibre) : Option Posted := if f.trapMode then none else firstPosted f.posted

/-- Whether a cause comes from an engine or a remote error: abandoning its handler posts it again (R160). -/
def Posted.again (p : Posted) : Bool := p.cause == 5 || p.cause == 6 || p.cause == 0x0E

/-- A posted cause delivered to a fibre at its run start: TPC is the run's first word (R24). -/
def State.deliverPosted (s : State) (f : Fibre) (p : Posted) : State :=
  let f := { f with posted := f.posted.filter fun q => decide (q ≠ p), serving := if p.again then some p else none }
  (s.setFibre f).trapEntry f p.cause p.tval f.pc

/-! ### Run selection (R138, R147) -/

/-- Whether a batch holds its slot in the wait of a FENCE.rel, FENCE.ar or WAITG (R263). -/
def State.waitsInSlot (s : State) (b : Batch) : Bool :=
  b.members.any fun k => (s.fibre? k).any fun f => match f.status with | .blocked (.fence ..) => true | _ => false

/-- Whether a fibre stands free in a partition: of a running launch, neither waiting nor in a batch, nor one whose run lasts as long
as others wait in its slot (R263). -/
def State.stands (s : State) (core part : Nat) (f : Fibre) : Bool :=
  f.core == core && f.part == part && decide (f.status = .eligible) && !f.saved &&
    !(s.batches.any fun b => b.members.contains f.key || (b.finished.contains f.key && s.waitsInSlot b)) &&
    (s.launchOf f).elim false fun l => decide (l.phase = .running)

/-- Whether a fibre may start a run in a partition: it is eligible (R146). -/
def State.mayRun (s : State) (core part : Nat) (f : Fibre) : Bool := s.stands core part f && s.firstReady f

/-- The place of a fibre in the issue order: pass class, effective priority, age; smaller comes first (R147). -/
def State.rank (s : State) (f : Fibre) : Nat × Nat × Nat :=
  let prio := (s.launchOf f).elim 0 (·.prio) + (if f.boost then 1 else 0)
  if f.passes = 256 then (0, 0, f.age) else (1, 8 - prio, f.age)

/-- Lexicographic order of ranks. -/
def rankLt (a b : Nat × Nat × Nat) : Bool :=
  decide (a.1 < b.1) || (a.1 == b.1 && (decide (a.2.1 < b.2.1) || (a.2.1 == b.2.1 && decide (a.2.2 < b.2.2))))

/-- A fibre put into a list in rank order, after those of its own rank. -/
def State.byRank (s : State) (f : Fibre) : List Fibre → List Fibre
  | [] => [f]
  | x :: r => if rankLt (s.rank f) (s.rank x) then f :: x :: r else x :: s.byRank f r

/-- A list in the order that a number names: the order among equals is not promised (R147). -/
def shuffle {α : Type} : Nat → List α → Nat → List α
  | 0, l, _ => l
  | fuel + 1, l, n =>
    match l with
    | [] => []
    | x :: r =>
      let i := n % (r.length + 1)
      nth x l i :: shuffle fuel (l.take i ++ l.drop (i + 1)) (n / (r.length + 1))

/-- The fibres that may start a run, in issue order. -/
def State.issueOrder (s : State) (core part tie : Nat) : List Fibre :=
  let fs := s.fibres.filter (s.mayRun core part)
  (shuffle fs.length fs tie).foldl (fun acc f => s.byRank f acc) []

/-- Whether a fibre agrees with the first one chosen (R138). -/
def Fibre.agrees (f g : Fibre) : Bool :=
  f.pc == g.pc && f.window == g.window && f.role == g.role && f.tm == g.tm && f.sys == g.sys

/-- A batch formed behind its first fibre: those that agree with it, in issue order, up to 16; the other eligible ones of
the partition are passed over (R138, R147). Only the first fibre takes a posted cause at a selection; one that agrees and has
a posted cause is left out, and counts a pass (log 53). -/
def State.formBatch (s : State) (core part slot tie : Nat) (leader : Fibre) : State :=
  let others := (s.issueOrder core part tie).filter fun f => decide (f.key ≠ leader.key)
  let members := (leader :: others.filter fun f => f.agrees leader && f.deliverable.isNone).take 16
  let keys := members.map (·.key)
  let left := (others.filter fun f => !(keys.contains f.key)).map (·.key)
  { s with batches := s.batches ++ [⟨core, part, slot, keys, []⟩],
           fibres := s.fibres.map fun f =>
             if keys.contains f.key then { f with passes := 0, boost := false }
             else if left.contains f.key then { f with passes := Nat.min (f.passes + 1) 256 }
             else f }

/-- RUN_SELECTION (R147): A free issue slot selects and forms a batch and starts a run. A fibre that has taken its posted cause starts one
only if the first word of its handler waits for nothing (R144, R146). -/
def execRunSelection (core part slot tie : Nat) (s : State) : Host.Outcome State Fault Refusal :=
  if 2 ≤ slot ∨ (s.batches.any fun b => b.core == core && b.part == part && b.slot == slot) then .next s
  else
    let s := (s.fibres.filter (s.stands core part)).foldl (fun s f => s.askFirst f) s
    match s.issueOrder core part tie with
    | [] => .next s
    | f :: _ =>
      let s := match f.deliverable with
        | some p => s.deliverPosted f p
        | none => s
      match s.fibre? f.key with
      | some f => .next (if f.status = .eligible ∧ s.firstReady f then s.formBatch core part slot tie f else s)
      | none => .next s

/-! ### Wakes and results -/

/-- SLEEP_WAKE (R180): A sleeping fibre becomes eligible, after every command it issued with a PCT by then has settled, WPUSHS among them;
one posted cause is delivered at the wake (R23, R24). -/
def execSleepWake (k : FKey) (s : State) : Host.Outcome State Fault Refusal :=
  match s.fibre? k with
  | some f =>
    match f.status with
    | .sleeping t =>
      let open_ := s.cmds.any fun c => decide (c.issuer = k) && (decide (c.state = .accepted) || decide (c.state = .done)) &&
        decide (c.pct ≤ t.toNat)
      let open_ := open_ || s.cairn.pushes.any fun p => decide (p.issuer = k) && p.ticket.isSome && p.accepted &&
        decide (p.acceptedAt + 2000 ≤ t.toNat)
      if s.ftime < t.toNat || open_ || f.saved then .next s
      else
        let f := f.wake s.ftime
        match f.deliverable with
        | some p => .next (s.deliverPosted f p)
        | none => .next (s.setFibre f)
    | _ => .next s
  | none => .next s

/-- LONG_LATENCY_RESULT (R144): A long-latency result is written to its register and flags merge into FST. -/
def execLongLatencyResult (res : Nat) (s : State) : Host.Outcome State Fault Refusal :=
  match s.m.results.find? fun r => r.uid == res with
  | some r =>
    let s := s.onMem fun m => { m with results := m.results.filter fun x => x.uid != res }
    .next (s.onFibre r.fibre fun f => f.deliver r.uid r.writes r.flags)
  | none => .next s

/-! ### Waits of releases (R87, R262, R264) -/

/-- Whether a release at a scope is over: the writes on behalf of a key and the write-backs of its core have their GWCTs, and
FTIME has reached them (R87). -/
def State.releaseDone (s : State) (k : FKey) (core scope : Nat) (gwmax : Time) : Bool :=
  !(s.writesOut k) && decide (gwmax ≤ s.ftime) && !(s.evictionsOut core scope) &&
    decide (s.wbHorizon core scope ≤ s.ftime) && decide (s.fenceHorizon core scope ≤ s.ftime)

/-- Whether a release at a scope is over for a fibre (R87). -/
def State.released (s : State) (f : Fibre) (scope : Nat) : Bool := s.releaseDone f.key f.core scope f.gwmax

/-- A fibre whose wait in a slot is over (R141, R263): the slot and its run last until those of the other members are; an empty
batch frees its slot. -/
def State.freeSlot (s : State) (k : FKey) : State :=
  let left := s.batches.map fun b =>
    if b.members.contains k then { b with members := b.members.filter (fun x => decide (x ≠ k)), finished := k :: b.finished } else b
  { s with batches := left.filter fun b => !b.members.isEmpty }

/-- FENCE_WAIT_END (R87): FTIME reaches a fence's or WAITG's wait value and the fibre continues; an END goes on with its
task, its counter, its end (R105, R179). -/
def execFenceWaitEnd (k : FKey) (s : State) : Host.Outcome State Fault Refusal :=
  match s.fibre? k with
  | none => .next s
  | some f =>
    match f.status with
    | .blocked (.fence _ (some d)) =>
      if s.writesOut k || decide (s.ftime < f.gwmax) then .next s
      else .next ((s.setFibre { f.writeG d (BitVec.ofNat 64 f.gwmax) with status := .eligible }).freeSlot k)
    | .blocked (.fence scope none) =>
      if s.released f scope then .next ((s.setFibre { f with status := .eligible }).freeSlot k) else .next s
    | .blocked (.ending scope counter) =>
      if s.released f scope && !(s.loadsOut k) then
        if f.task.isSome then .next ((s.setFibre { f with status := .blocked (.endingTask counter) }).tryDone k)
        else if counter.all s.atomMayLeave then .next (s.endCount f counter)
        else .next s
      else .next s
    | .blocked (.endingTask _) => .next (s.tryDone k)
    | .blocked (.evwait va value acq (some scope) told) =>
      if s.released f scope then .next (s.setFibre { f with status := .blocked (.evwait va value acq none told) }) else .next s
    | _ => .next s

/-- What an ended fibre still held issued (R161, R264). -/
def State.issueHeld (s : State) (h : HeldOp) : State :=
  let s := s.onMem fun m => { m with held := m.held.filter fun x => decide (x ≠ h) }
  match h.what with
  | .store (.store va pieces bs scope policy) => s.issueStore h.fibre h.core scope policy va pieces bs true
  | .store _ => s
  | .atomic a => s.sendAtom a

/-- Whether a held store or atomic may leave its core: no atomic that it has to find executed is on its way (R79, R95). -/
def State.mayLeave (s : State) (core : Nat) : Held → Bool
  | .store e => s.mayIssue core e
  | .atomic a => s.atomMayLeave a

/-- RELEASE_HOLD_ISSUE (R264): A release hold ends and its store or atomic issues. -/
def execReleaseHoldIssue (k : FKey) (s : State) : Host.Outcome State Fault Refusal :=
  match s.m.held.find? fun h => decide (h.fibre = k) with
  | some h => .next (if s.releaseDone k h.core h.scope h.gwmax && s.mayLeave h.core h.what then s.issueHeld h else s)
  | none =>
    match s.fibre? k with
    | none => .next s
    | some f =>
      match f.relHold with
      | some (scope, h) =>
        if s.released f scope && !(s.loadsOut k) && s.mayLeave f.core h then
          let s := s.setFibre { f with relHold := none }
          match h with
          | .store e => .next (s.issueEntry f e true)
          | .atomic a => .next (s.sendAtom a)
        else .next s
      | none => .next s

end Sys2Proof.Machine
end

