-- ==== Sys2Proof/Machine/Preempt.lean ====
section
/-! DEFINITION. Pre-emption, restore and moves at STEP (R72, R106, R121 to R125, R160, R364, R385, R386). -/

namespace Sys2Proof.Machine

/-! ### When a launch is pre-empted (R122, R127) -/

/-- Whether a launch waits for room that it may make by pre-empting: a ready head, or a lost rope to restart. -/
def State.wantsRoom (s : State) (l : Launch) : Option Nat :=
  if s.ready l then some l.teams
  else if (l.lost.any fun x => s.restartable l x.rope) && !(s.fits [] l l.rope) then some l.rope
  else none

/-- Whether a running launch is to be pre-empted now. -/
def State.mustPreempt (s : State) (v : Launch) : Bool :=
  !s.closed && s.launches.any fun l => (s.wantsRoom l).elim false fun n => (s.needed l n).contains v.id

/-! ### Saving (R123) -/

/-- Whether nothing that a launch's fibres have begun is still on its way: accesses, results, release holds, counters of
END, matrix entries, fills of chunks. -/
def State.quiet (s : State) (launch : Nat) : Bool :=
  let mine := fun (k : FKey) => k.launch == launch
  !((s.m.loads.any fun l => mine l.fibre) || (s.m.results.any fun r => mine r.fibre) || (s.m.atoms.any fun a => mine a.fibre) ||
    (s.m.spads.any fun a => mine a.fibre) || (s.m.outs.any fun o => o.fibres.any mine) ||
    (s.mat.queue.any fun e => e.launch == launch) ||
    (s.teams.any fun t => t.launch == launch && t.chunks.any (·.fill.isSome)) ||
    (s.fibres.any fun f => mine f.key && (f.relHold.isSome || decide (f.status = .blocked .counting))))

/-- Whether a fibre waits after an action that its word has taken, and is saved in place (R123 step 3). -/
def Fibre.inPlace (f : Fibre) : Bool :=
  !f.trapMode &&
  (match f.status with
   | .sleeping _ => true
   | .blocked (.belay _) => true
   | .blocked .step => true
   | .blocked .ropebar => true
   | .blocked (.evwait ..) => true
   | .blocked (.wpopw ..) => true
   | .blocked (.wterm ..) => true
   | .blocked (.aballoc ..) => true
   | .blocked (.guard ..) => true
   | .blocked (.wdone _) => true
   | .blocked (.endingTask _) => true
   | _ => false)

/-- What the LIVE table says of a safe point (R72): the 8 bytes of its mask, or what they wait for; none where the address has
no SAFE entry, for which the spec names no mask. -/
def State.liveMask (s : State) (l : Launch) (die : Nat) (spc : Word) : AgentGot :=
  match s.safeIndex l die ((spc.toNat - l.text) / 4) 33 0 l.safeCount with
  | .at_ (some i) => s.agentGet l.fn die (l.liveAt + 8 * i) 8
  | .at_ none => .bytes []
  | .away p => .away p
  | .fault x => .fault x

/-- The registers of a fibre that a save at its SPC keeps; the others read 0 after the restore (R72). Without a mask, where SPC
has no SAFE entry or the tables cannot be translated, every register is kept (log 56). -/
def maskRegs (mask : AgentGot) (g : List Word) : List Word :=
  match mask with
  | .bytes (b :: bs) => (g.zip (upFrom 0 g.length)).map fun x => if natLE (b :: bs) / 2 ^ x.2 % 2 = 1 then x.1 else 0
  | _ => g

/-- Where a fibre restarts when it is saved (R123, R153, R160). -/
def Fibre.restartAt (f : Fibre) : Word := if f.trapMode then f.spc else f.passed.spc

/-- What the save of fibres waits for, asked for: a line of SAFE or LIVE of a peer or of host memory, the walk of its tables, a
page that is not resident. -/
def State.saveAsks (s : State) (l : Launch) (fs : List Fibre) : Option State :=
  fs.findSome? fun f =>
    if f.status = .ended || f.inPlace then none
    else
      match s.liveMask l (dieOfCore f.core) f.restartAt with
      | .away p => some (s.askFar p)
      | .fault (.walk peer frame w) => some (s.askWalk peer frame w)
      | .fault (.page a c) => some (s.raiseFault l.fn (a / 65536) c 3 l.id)
      | _ => none

/-- A fibre rolled back to its SPC and saved: a handler is abandoned and what it served is posted again, a held task stays
RUNNING and is kept for the pop (R123, R160, R385). -/
def State.saveRolled (s : State) (l : Launch) (f : Fibre) : State :=
  let s := s.withdraw f
  let f := f.withdrawn
  let f1 := if f.trapMode then
      { f.clearFst (fstTM ||| fstSYS) with posted := f.serving.elim f.posted (· :: f.posted), serving := none }
    else f.passed
  let f2 := f1.rollback s.ftime
  let s := { s with mat := { s.mat with abFifo := s.mat.abFifo.filter fun r => decide (r.fibre ≠ f.key) } }
  s.setFibre { f2 with status := .eligible, task := none, keptTask := f.task.or f.keptTask, arrivedStep := false,
                       arrivedRope := false, saved := true, g := maskRegs (s.liveMask l (dieOfCore f.core) f2.spc) f2.g }

/-- A fibre saved. -/
def State.saveFibre (s : State) (l : Launch) (f : Fibre) : State :=
  if f.status = .ended then s
  else if f.inPlace then
    { s.setFibre { f with saved := true } with
      mat := { s.mat with abFifo := s.mat.abFifo.filter fun r => decide (r.fibre ≠ f.key) } }
  else s.saveRolled l f

/-- Held banks moved, with their contents (R364): what stood in the new banks before is gone. -/
def MatState.moveBanks (m : MatState) (launch team core : Nat) (banks : List Nat) : MatState :=
  match m.holds.find? fun h => h.launch == launch && h.team == team && !h.freed with
  | none => m
  | some h =>
    let inOf := fun (c : Nat) (bs : List Nat) (p : Nat × AccElem) => p.1 / 65536 == c && bs.contains (p.1 / 4096 % 16)
    let re := fun (p : Nat × AccElem) =>
      ((core * 16 + nth 0 banks ((memberOf h.banks (p.1 / 4096 % 16)).getD 0)) * 4096 + p.1 % 4096, p.2)
    let rest := m.acc.filter fun p => !(inOf h.core h.banks p) && !(inOf core banks p)
    { m with acc := (m.acc.filter (inOf h.core h.banks)).map re ++ rest,
             holds := m.holds.map fun x => if decide (x = h) then { h with core := core, banks := banks } else x }

/-- The number, beyond those of cores, under which a saved team's banks are kept. -/
def savedCore (launch team : Nat) : Nat := 2 ^ 20 + launch * 2 ^ 32 + team

/-- Sectors of a virtual range whose contents the manual leaves undefined. -/
def State.scramble (s : State) (fn va n : Nat) : State :=
  let id := s.undefId
  let one := fun (s : State) (page : Nat) =>
    let lo := Nat.max va (page * 65536)
    let hi := Nat.min (va + n) (page * 65536 + 65536)
    match s.walk fn lo with
    | .ok (leaf, _) =>
      match placeIn leaf lo with
      | .dram pa => s.onMem fun m => m.scramble pa (hi - lo) id
      | _ => s
    | .error _ => s
  let s := (pagesIn va n).foldl one s
  { s with mg := { s.mg with deadKeys := s.mg.deadKeys + 1 } }

/-- The size of a team's slot in the SAVE area (R124). -/
def Launch.slotSize (l : Launch) : Nat :=
  let w := maxList (l.roles.map l.windowOf)
  (327680 + 4096 * l.field 36 2 + l.nfib * (192 + 8 * w) + 4095) / 4096 * 4096

/-- The lines of SAFE and LIVE that were read from elsewhere, no longer kept. -/
def State.dropTables (s : State) (l : Launch) : State :=
  s.dropFar (s.linesOf l.fn l.safeAt (4 * l.safeCount) ++ s.linesOf l.fn l.liveAt (8 * l.safeCount))

/-- The slot of a team in the SAVE area written (R124): its layout is the device's own. -/
def State.writeSlot (s : State) (l : Launch) (team : Nat) : State :=
  s.scramble l.fn (l.save + team * l.slotSize) l.slotSize

/-- A launch saved as a whole (R123 steps 2 to 6, R124). -/
def State.saveLaunch (s : State) (l : Launch) : State :=
  let mine := fun (k : FKey) => k.launch == l.id
  let left := s.batches.map fun b => { b with members := b.members.filter fun k => !(mine k) }
  let s := { s with batches := left.filter fun b => !b.members.isEmpty }
  let s := (s.fibres.filter fun f => mine f.key).foldl (fun s f => s.saveFibre l f) s
  let teams := s.teams.filter fun t => t.launch == l.id && !t.ended
  let s := teams.foldl (fun s t =>
    let n := (s.banksOf l.id t.idx).length
    ({ s with mat := s.mat.moveBanks l.id t.idx (savedCore l.id t.idx) (upFrom 0 n) }).writeSlot l t.idx) s
  (s.dropTables l).onLaunch l.id fun l => { l with phase := .saved, moving := [] }

/-- PREEMPTION (R122): A launch stops issue at run boundaries; once what it has under way is done, it is saved whole, the
runs that remain being abandoned. -/
def execPreemption (launch : Nat) (s : State) : Host.Outcome State Fault Refusal :=
  match s.launch? launch with
  | none => .next s
  | some l =>
    match l.phase with
    | .running => .next (if s.mustPreempt l then s.onLaunch launch fun l => { l with phase := .saving } else s)
    | .saving =>
      if !(s.quiet launch) then .next s
      else .next ((s.saveAsks l (s.fibres.filter fun f => f.key.launch == launch)).getD (s.saveLaunch l))
    | _ => .next s

/-! ### Restore (R125, R364) -/

/-- A team back on its core: its fibres in free slots, eligible anew (R147), the same number of banks, its ABALLOC at the tail
of the FIFO. -/
def State.restoreTeam (s : State) (l : Launch) (t : Team) : State :=
  let slots := s.freeSlots [l.id] t.core
  let taken := (s.fibres.filter fun f => f.key.launch == l.id && f.core == t.core && decide (f.key.team < t.idx)).length
  let part := fun (fid : Nat) => nth 0 slots (taken + fid)
  let n := (s.banksOf l.id t.idx).length
  let free := (upFrom 0 16).filter fun b => !(s.mat.holds.any fun h => h.core == t.core && h.banks.contains b)
  let s := { s with mat := s.mat.moveBanks l.id t.idx t.core (free.take n) }
  let waiting := s.fibres.filterMap fun f =>
    if f.key.launch == l.id && f.key.team == t.idx then
      match f.status with
      | .blocked (.aballoc n d) => some (AbReq.mk t.core f.key n d)
      | _ => none
    else none
  { s with mat := { s.mat with abFifo := s.mat.abFifo ++ waiting },
           fibres := s.fibres.map fun f =>
             if f.key.launch == l.id && f.key.team == t.idx then { f with part := part f.key.fid, saved := false, age := s.ftime } else f }

/-- LAUNCH_RESTORE (R125): A saved launch is restored onto its cores. -/
def execLaunchRestore (launch : Nat) (s : State) : Host.Outcome State Fault Refusal :=
  match s.launch? launch with
  | none => .next s
  | some l =>
    if !(s.mayRestore l) then .next s
    else
      let s := (s.teams.filter fun t => t.launch == launch).foldl (fun s t => s.restoreTeam l t) s
      .next ((s.onLaunch launch fun l => { l with phase := .running }).tryStep launch)

/-! ### Moves at STEP (R106, R121) -/

/-- Tasks of a worklist moved, in transit, off the cores of withdrawn dies: those of their slices and chunks (R386). -/
def State.moveTasks (s : State) (wl : Nat) (dies : List Nat) (dest : Nat) : State :=
  s.onWl wl fun w => { w with tasks := w.tasks.map fun t =>
    match t.at_ with
    | .queued c => if dies.contains (dieOfCore c) then { t with at_ := .transit dest } else t
    | .spilled c => if dies.contains (dieOfCore c) then { t with at_ := .transit dest } else t
    | .transit c => if dies.contains (dieOfCore c) then { t with at_ := .transit dest } else t
    | .parked c f p => if dies.contains (dieOfCore c) then { t with at_ := .parked dest f p } else t
    | _ => t }

/-- Whether moves have room: the named teams run, and their fibres, scratchpad and banks fit where they go, all together. -/
def State.canMove (s : State) (l : Launch) (moves : List TeamPlace) : Bool :=
  let idxs := moves.map (·.team)
  let mine := (s.teams.filter fun t => t.launch == l.id && !t.ended).map (·.idx)
  let away := { s with teams := s.teams.filter fun t => !(t.launch == l.id && idxs.contains t.idx) }
  let free := fun (c : Nat) =>
    (upFrom 0 16).filter fun b => !(s.mat.holds.any fun h => h.core == c && h.banks.contains b && !(h.launch == l.id && idxs.contains h.team))
  let banks := fun (c : Nat) =>
    decide (sumList ((moves.filter fun p => p.core == c).map fun p => (s.banksOf l.id p.team).length) ≤ (free c).length)
  (idxs.all mine.contains) && away.validPlace [] l idxs moves && (dedup (moves.map (·.core))).all banks

/-- Whether the engine may change a launch's die set by these moves: it has SAVE, the teams fit, and the set stays within
MINDIE to MAXDIE; a die is withdrawn only for a waiting launch of higher priority (R121). -/
def State.mayMove (s : State) (l : Launch) (moves : List TeamPlace) : Bool :=
  let old := s.diesWith l.id [] []
  let new := s.diesWith l.id (moves.map (·.team)) moves
  let withdrawn := old.filter fun d => !(new.contains d)
  let added := new.filter fun d => !(old.contains d)
  l.save != 0 && s.canMove l moves && decide (new.length ≤ l.field 46 1) &&
    decide (Nat.min old.length (l.field 45 1) ≤ new.length) && (!withdrawn.isEmpty || !added.isEmpty) &&
    (withdrawn.isEmpty || s.launches.any fun w => s.ready w && decide (l.prio < w.prio))

/-- A team saved for a move (R106, R121): its fibres as at a pre-emption, a handler abandoned with its region, its slot of the
SAVE area written, its banks put by. -/
def State.unplaceTeam (s : State) (l : Launch) (p : TeamPlace) : State :=
  let s := (s.fibres.filter fun f => f.key.launch == l.id && f.key.team == p.team).foldl (fun s f => s.saveFibre l f) s
  let n := (s.banksOf l.id p.team).length
  ({ s with mat := s.mat.moveBanks l.id p.team (savedCore l.id p.team) (upFrom 0 n) }).writeSlot l p.team

/-- A team restored on the core it moves to. -/
def State.moveTeam (s : State) (l : Launch) (p : TeamPlace) : State :=
  let n := (s.banksOf l.id p.team).length
  let free := (upFrom 0 16).filter fun b => !(s.mat.holds.any fun h => h.core == p.core && h.banks.contains b)
  let s := { s with mat := s.mat.moveBanks l.id p.team p.core (free.take n) }
  let s := s.onTeam l.id p.team fun t => { t with core := p.core }
  { s with fibres := s.fibres.map fun f =>
      if f.key.launch == l.id && f.key.team == p.team then
        { f with core := p.core, part := nth 0 p.parts f.key.fid, saved := false, age := s.ftime } else f }

/-- Moves whose fences are over: the teams run on their new cores, tasks leave withdrawn dies, the step is released. -/
def State.applyMoves (s : State) (l : Launch) (moves : List TeamPlace) : State :=
  let old := s.diesWith l.id [] []
  let s := (moves.foldl (fun s p => s.unplaceTeam l p) s).dropTables l
  let s := moves.foldl (fun s p => s.moveTeam l p) s
  let new := s.diesWith l.id [] []
  let gone := old.filter fun d => !(new.contains d)
  let dest := ((s.teams.find? fun t => t.launch == l.id && !t.ended).map (·.core)).getD 0
  let s := if l.wlb && !gone.isEmpty then s.moveTasks l.wlId gone dest else s
  (s.onLaunch l.id fun l => { l with dies := new, moving := [] }).releaseStep l.id

/-- The fibres of a launch that moves take along. -/
def State.movedBy (s : State) (launch : Nat) (moves : List TeamPlace) : List Fibre :=
  s.fibres.filter fun f => f.key.launch == launch && (moves.any fun p => p.team == f.key.team) && decide (f.status ≠ .ended)

/-- A die change begun: the FENCE.rel at DEVICE scope on the cores that teams leave (R106). -/
def State.beginMoves (s : State) (l : Launch) (moves : List TeamPlace) : State :=
  let moved := s.movedBy l.id moves
  let s := (dedup (moved.map (·.core))).foldl
    (fun s c => s.writeBacks c 3 ((moved.filter fun f => f.core == c).map (·.key)) []) s
  s.onLaunch l.id fun l => { l with moving := moves }

/-- A die change in progress looked at: once the fences are over and nothing is on its way, the teams move. Where their room is
gone meanwhile, the step is released without them. -/
def State.goOnMoving (s : State) (l : Launch) : State :=
  let moved := s.movedBy l.id l.moving
  if !(moved.all fun f => s.released f 3) || !(s.quiet l.id) then s
  else if !(s.canMove l l.moving) then (s.onLaunch l.id fun l => { l with moving := [] }).releaseStep l.id
  else (s.saveAsks l moved).getD (s.applyMoves l l.moving)

/-- DIE_SET_CHANGE (R121): While every fibre waits at STEP the engine moves teams by save and restore: first the FENCE.rel
at DEVICE scope on the cores they leave and the wait for GWMAX (R106), then the moves and the release of the step. With no
moves the step is released as it is. -/
def execDieSetChange (launch : Nat) (moves : List TeamPlace) (s : State) : Host.Outcome State Fault Refusal :=
  match s.launch? launch with
  | none => .next s
  | some l =>
    if l.phase ≠ .running ∨ !(s.stepReady l) then .next s
    else if !l.moving.isEmpty then .next (s.goOnMoving l)
    else if moves.isEmpty then .next (s.releaseStep launch)
    else if !(s.mayMove l moves) || (s.movedBy launch moves).any (fun f => s.narrowOut f.key) then .next s
    else .next (s.beginMoves l moves)

end Sys2Proof.Machine
end

