-- ==== Sys2Proof/Machine/Finish.lean ====
section
/-! DEFINITION. The completion of launches, errors of cores, and missed promises (R22, R126, R128, R129, R226, R367, R389,
R422 to R424). -/

namespace Sys2Proof.Machine

/-! ### Completion (R128, R129) -/

/-- A write of the launch engine for a launch that completes: its bytes at their homes, and the latest GWCT. -/
def State.launchPut (s : State) (l : Launch) : List (Nat × Nat) → List Byte → Time → State × Time
  | [], _, due => (s, due)
  | (va, n) :: r, bs, due =>
    match s.walk l.fn va with
    | .ok (leaf, _) =>
      let p := placeIn leaf va
      if s.gone p then s.launchPut l r (bs.drop n) due
      else
        let x := s.agentWrite p (bs.take n) leaf.key 0 .none (.launch l.id)
        x.1.launchPut l r (bs.drop n) (Nat.max due x.2)
    | .error _ => s.launchPut l r (bs.drop n) due

/-- The entries that fit a record. -/
def RecEntry.bytes (e : RecEntry) : List Byte :=
  bytesLE 1 e.typ ++ bytesLE 1 e.cause ++ bytesLE 2 e.fid ++ bytesLE 4 e.team ++ bytesLE 8 e.value.toNat

/-- The completion record of a launch that completes now (R129). -/
def Launch.recordBytes (l : Launch) (now : Time) : List Byte :=
  let cap := 2 ^ l.field 47 1
  let overflows := if cap < l.entries.length then 1 else 0
  bytesLE 4 l.status ++ bytesLE 4 l.entries.length ++ bytesLE 8 l.id ++ bytesLE 8 l.start ++ bytesLE 8 now ++
    bytesLE 4 l.ropesLost ++ bytesLE 4 overflows ++ List.replicate 24 0 ++ (l.entries.take cap).flatMap (·.bytes)

/-- Whether every fibre of a grid has ended and no lost rope is still to be restarted. -/
def State.gridOver (s : State) (l : Launch) : Bool :=
  !l.awaitsRope && s.fibres.all fun f => f.key.launch != l.id || decide (f.status = .ended)

/-- Whether what a grid has left behind is done: its commands have settled and its promises of
announcements are kept, its matrix entries and fills are over. -/
def State.settled (s : State) (launch : Nat) : Bool :=
  !((s.cmds.any fun c => c.issuer.launch == launch) || (s.m.held.any fun h => h.fibre.launch == launch) ||
    (s.cairn.pushes.any fun p => p.issuer.launch == launch && p.ticket.isSome) || (s.mat.queue.any fun e => e.launch == launch) ||
    (s.teams.any fun t => t.launch == launch && t.chunks.any (·.fill.isSome)))

/-- The FILLED chunks of teams with written lines, which their end writes back (R224, R226). -/
def chunksBack (teams : List Team) : List (Team × Chunk) :=
  teams.flatMap fun t => (t.chunks.filter fun ch => ch.filled && !ch.written.isEmpty).map fun ch => (t, ch)

/-- Those of a launch's teams. -/
def State.toWriteBack (s : State) (l : Launch) : List (Team × Chunk) := chunksBack (s.teams.filter fun t => t.launch == l.id)

/-- The translation under which a chunk is written back: the kept one where it takes writes, else a new one (R226). A kept one of a
peer's page whose lease has ended is walked again at the peer (R253). -/
def State.backXlat (s : State) (l : Launch) (t : Team) (ch : Chunk) : Xlat :=
  match ch.leaf with
  | some leaf => if leaf.w then s.admitPeer l.fn (ch.va / 65536) true leaf else s.translate (.core t.core) l.fn ch.va true
  | none => s.translate (.core t.core) l.fn ch.va true

/-- Whether the write-back of a chunk waits for the fault service, with ACCESS 5, or for a walk of a peer's tables (R226,
R250). -/
def Xlat.waits : Xlat → Bool
  | .page _ => true
  | .walk .. => true
  | _ => false

/-- What such a write-back waits for asked for. -/
def State.askBack (s : State) (l : Launch) (ch : Chunk) : Xlat → State
  | .page c => s.raiseFault l.fn (ch.va / 65536) c 5 l.id
  | .walk peer frame write => s.askWalk peer frame write
  | _ => s

/-- The written lines of a chunk at their homes, and the latest GWCT; where the page is denied or bad they are dropped with
an error record (R226). -/
def State.backChunk (s : State) (l : Launch) (t : Team) (ch : Chunk) (due : Time) : State × Time :=
  match s.backXlat l t ch with
  | .ok leaf =>
    (t.writtenLines ch).foldl (fun (x : State × Time) w =>
      if x.1.gone (placeIn leaf w.1) then x
      else
        let y := x.1.agentWrite (placeIn leaf w.1) w.2 leaf.key 0 .none (.launch l.id) (t.lineBad ch w.1 w.2.length)
          (x.1.packFor leaf w.1 w.2.length)
        (y.1, Nat.max x.2 y.2)) (s, due)
  | _ => (s.errorRecord 3 (dieOfCore t.core) 24 t.core ch.va l.id, due)

/-- Step 3 of R128 for one team whose chunks are written back: every chunk PLAIN, and its banks freed. -/
def State.closeTeam (s : State) (t : Team) : State :=
  let s := s.onTeam t.launch t.idx fun t => { t with chunks := [], ended := true }
  let holds := s.mat.holds.map fun h => if h.launch == t.launch && h.team == t.idx then { h with freed := true } else h
  { s with mat := { s.mat with holds := holds } }.reclaim

/-- The worklist of a launch that completes: its tasks are discarded, the binding is released, and the spill area holds
undefined bytes (R367, R369). -/
def State.unbind (s : State) (l : Launch) : State :=
  if l.wlb && decide ((s.wl l.wlId).bound = some l.id) then
    let s := s.onWl l.wlId fun _ => Worklist.initial
    let s := { s with cairn := { s.cairn with pushes := s.cairn.pushes.filter fun p => p.issuer.launch != l.id } }
    s.scramble l.fn (l.field 104 8) (65536 * l.field 120 4)
  else s

/-- Teams of a launch closed, once every write-back has its translation or a denial (R226); then what follows, with the latest
GWCT of the write-backs. -/
def State.closeTeams (s : State) (l : Launch) (teams : List Team) (k : State → Time → State) : State :=
  let back := chunksBack teams
  let open_ := back.filter fun x => (s.backXlat l x.1 x.2).waits
  if open_.isEmpty then
    let r := back.foldl (fun (x : State × Time) b => x.1.backChunk l b.1 b.2 x.2) (s, s.ftime)
    k (teams.foldl (fun s t => s.closeTeam t) r.1) r.2
  else open_.foldl (fun s x => s.askBack l x.2 (s.backXlat l x.1 x.2)) s

/-- The teams of a grid closed (R128 step 3). -/
def State.closeGrid (s : State) (l : Launch) : State :=
  s.closeTeams l (s.teams.filter fun t => t.launch == l.id) fun s due =>
    (s.unbind l).onLaunch l.id fun l => { l with phase := .closing false due }

/-- Whether the writes of a completing launch have their GWCTs behind them and its requests their answers. -/
def State.landed (s : State) (l : Launch) (due : Time) : Bool :=
  decide (due ≤ s.ftime) && !(s.fab.remote.any fun r => decide (r.why = .launch l.id))

/-- A place that the engine writes for a launch: translated for a write, else waited for, or given up. -/
def State.closeAt (s : State) (l : Launch) (va n : Nat) (giveUp : State → State) (act : State → State) : State :=
  match s.translateParts (.engine 4) l.fn true (cutLines va n) with
  | .ok _ => act s
  | .page a c => s.raiseFault l.fn (a / 65536) c 4 l.id
  | .walk p f w => s.askWalk p f w
  | .violation _ c e => giveUp (s.xlatRecord c e 22 noCore l.id)

/-- Step 4 of R128: the completion record, its release beginning. -/
def State.writeRecord (s : State) (l : Launch) : State :=
  let next := fun (s : State) (due : Time) => s.onLaunch l.id fun l => { l with phase := .closing true due }
  let va := l.field 96 8
  let bs := l.recordBytes s.ftime
  if va = 0 then next s s.ftime
  else if va % 64 ≠ 0 then next (s.errorRecord 3 22 20 noCore va l.id) s.ftime
  else
    s.closeAt l va bs.length (fun s => next s s.ftime) fun s =>
      let r := s.launchPut l (cutLines va bs.length) bs s.ftime
      next r.1 r.2

/-- A launch that has completed leaves the device. -/
def State.dropLaunch (s : State) (id : Nat) : State :=
  { s with launches := s.launches.filter (fun l => l.id != id), teams := s.teams.filter (fun t => t.launch != id),
           fibres := s.fibres.filter fun f => f.key.launch != id }

/-- Step 5 of R128: DONE.VALUE added to the DONE counter. The addition is an atomic (R112), and on a replicated page its write
does not take place (R100; log 59). -/
def State.addDone (s : State) (l : Launch) : State :=
  let va := l.doneAt
  if l.field 80 8 = 0 then s.dropLaunch l.id
  else
    s.closeAt l va 8 (fun s => s.dropLaunch l.id) fun s =>
      match s.walk l.fn va with
      | .ok (leaf, _) =>
        if s.gone (placeIn leaf va) || isRepl leaf then s.dropLaunch l.id
        else ((s.agentAdd (placeIn leaf va) leaf.key (BitVec.ofNat 64 (l.field 88 8)) 0 .none).1).dropLaunch l.id
      | .error _ => s.dropLaunch l.id

/-- LAUNCH_COMPLETION (R128): A launch's grid has ended, or it failed its checks; record and DONE are written. Each step of
R128 follows once the one before it is done. -/
def execLaunchCompletion (launch : Nat) (s : State) : Host.Outcome State Fault Refusal :=
  match s.launch? launch with
  | none => .next s
  | some l =>
    match l.phase with
    | .running => .next (if s.gridOver l && s.settled launch then s.closeGrid l else s)
    | .complete => .next (if s.gridOver l && s.settled launch then s.closeGrid l else s)
    | .closing false due => .next (if s.landed l due then s.writeRecord l else s)
    | .closing true due => .next (if s.landed l due then s.addDone l else s)
    | _ => .next s

/-! ### Restarting a rope (R127, R331) -/

/-- Whether nothing that the lost teams of a rope have left behind can still reach their scratchpad, tables or accumulators: their
scratchpad is not given to other work before (R331). -/
def State.ropeQuiet (s : State) (l : Launch) (rope : Nat) : Bool :=
  let mine := fun (k : FKey) => k.launch == l.id && k.team / l.rope == rope
  !((s.cmds.any fun c => mine c.issuer) || (s.m.held.any fun h => mine h.fibre) || (s.m.loads.any fun x => mine x.fibre) ||
    (s.m.atoms.any fun a => mine a.fibre) || (s.m.spads.any fun a => mine a.fibre) ||
    (s.mat.queue.any fun e => e.launch == l.id && e.team / l.rope == rope) ||
    (s.teams.any fun t => t.launch == l.id && t.idx / l.rope == rope && t.chunks.any (·.fill.isSome)))

/-- The teams of a rope, closed as at a team's end, replaced by those that start again (R119, R127, R224). -/
def State.restartRope (s : State) (l : Launch) (rope : Nat) (place : List TeamPlace) : State :=
  s.closeTeams l (s.teams.filter fun t => t.launch == l.id && t.idx / l.rope == rope) fun s _ =>
    ((s.startTeams l place).record l.id ⟨6, 0, 0xFFFF, rope, BitVec.ofNat 64 l.stepn⟩).onLaunch l.id fun l =>
      { l with lost := l.lost.map fun x => if x.rope == rope && !x.restarted then { x with restarted := true } else x,
               dies := dedup (l.dies ++ place.map fun p => dieOfCore p.core) }

/-- ROPE_RESTART (R127): A lost rope is placed and started again, once what its teams have left is over (R331). -/
def execRopeRestart (launch rope : Nat) (place : List TeamPlace) (s : State) : Host.Outcome State Fault Refusal :=
  match s.launch? launch with
  | none => .next s
  | some l =>
    if !(s.restartable l rope) || s.closed then .next s
    else if !(s.placeable l (l.field 46 1) l.rope) then .next (s.giveUpRope l rope)
    else if !(s.ropeQuiet l rope) then .next s
    else if !(s.validPlace [] l (l.ropeTeams rope) place) || decide (l.field 46 1 < (s.diesWith launch [] place).length) then .next s
    else .next (s.restartRope l rope place)

/-! ### Running launches ended or saved from outside (R130, R417, R419) -/

/-- The queue entry of a DRAIN whose rows have left, dropped with its fibre; one that is still to run completes (R364). -/
def State.dropRun (s : State) (f : Fibre) : State :=
  match f.status with
  | .blocked (.drained _ _) =>
    let mine := fun (e : MatEntry) => decide (e.drainer = some f.key)
    ({ s with mat := { s.mat with queue := s.mat.queue.filter fun e => !(mine e) } }).reclaim.queueMoves f.core
  | _ => s

/-- The fibres of a launch end, and it completes with a status. -/
def State.abortLaunch (s : State) (l : Launch) (status : Nat) : State :=
  let mine := s.fibres.filter fun f => f.key.launch == l.id && decide (f.status ≠ .ended)
  let s := mine.foldl (fun s f => s.dropRun f) s
  let s := mine.foldl (fun s f => ((s.withdraw f).abortTask f (.queued f.core)).retireFibre f) s
  let teams := (s.teams.filter fun t => t.launch == l.id && !t.ended).map (·.idx)
  let s := teams.foldl (fun s t => s.endTeam l.id t) s
  let s := { s with batches := s.batches.filter fun b => !b.members.isEmpty }
  s.onLaunch l.id fun l => { l with phase := .complete, status := status, moving := [],
                                    lost := l.lost.map fun x => { x with counted := true } }

/-- Running launches treated as for a quiesce: those with SAVE are saved, the others end with status 4 (R130). -/
def State.clearDevice (s : State) : State :=
  s.launches.foldl (fun s l =>
    if l.phase = .running then
      if l.save ≠ 0 then s.onLaunch l.id fun l => { l with phase := .saving } else s.abortLaunch l 4
    else s) s

/-! ### Errors of cores (R126, R389, R423, R424) -/

/-- A core marked for retirement (R424). -/
def State.markCore (s : State) (core : Nat) : State :=
  if s.mg.marked.contains core then s else { s with mg := { s.mg with marked := s.mg.marked ++ [core] } }

/-- The first core, of those that take teams, other than those that an error has struck. -/
def State.otherCore (s : State) (struck : List Nat) : Option Nat :=
  ((upFrom 0 4).flatMap s.coresOf).find? fun c => !(struck.contains c)

/-- The structures of a core whose code an error record gives; 0 is one that is not identified (R422, R431). -/
def isCoreStruct (struct : Nat) : Bool := [1, 2, 3, 4, 5, 9, 10].contains struct

/-- The tasks in a core's slices, by worklist. -/
def State.sliceTasks (s : State) (core : Nat) : List (Nat × Nat) :=
  (upFrom 0 8).flatMap fun w => ((s.wl w).tasks.filter fun t => t.inSlice core).map fun t => (w, t.uid)

/-- An uncorrectable error of a core (R126, R389, R423, R431), one of the cores that it strikes: tasks go to none of those. -/
def State.coreError (s : State) (struck : List Nat) (core struct addr : Nat) : State :=
  if 256 ≤ core ∨ s.mg.absent.contains core then s
  else
    let s := (s.errorRecord 1 (dieOfCore core) (if isCoreStruct struct then struct else 0) core addr 0).reportAer
    let s := s.strikeCore core
    let s := { s with batches := s.batches.filter fun b => !b.members.isEmpty }
    let hit := s.sliceTasks core
    let lost := if struct = 10 && !hit.isEmpty then (hit.drop (addr % hit.length)).take 1 else []
    let s := lost.foldl (fun s x => s.loseTasks x.1 [x.2] (dieOfCore core) core addr) s
    (s.moveTasksOff core ((s.otherCore struck).getD core)).markCore core

/-- CORE_UNCORRECTABLE_ERROR (R126): A core's teams end, their ropes are lost, its tasks go to another core, it is
marked for retirement, and AER reports it (R416). An error of its Cairn slices (structure 10) loses the task of the entry it hit. -/
def execCoreUncorrectableError (core struct : Nat) (addr : Nat) (s : State) : Host.Outcome State Fault Refusal :=
  .next (s.coreError [core] core struct addr)

/-! ### Missed promises (R22, R24) -/

/-- The promise of an accepted WPUSHS missed: its announcement passes no fabric, so only through an error of a part of the
package (R22, R392). -/
def State.missPush (s : State) (push : Nat) : State :=
  { s with cairn := { s.cairn with pushes := s.cairn.pushes.map fun p =>
    if p.uid = push ∧ p.accepted = true then { p with missed := true } else p } }

/-- A contribution of SCATTER or SCADD lost to an uncorrectable error in transit: a marker with its number takes its place, and its
command's promise is missed (R22, R327). -/
def State.loseContrib (s : State) (uid : Nat) : State :=
  match s.gat.contribs.find? fun x => x.uid == uid with
  | none => s
  | some x =>
    let s := { s with gat := { s.gat with contribs := s.gat.contribs.map fun (y : Contrib) => if y.uid = uid then { y with lost := true } else y } }
    let s := (s.cmd? x.cmd).elim s s.cmdMissed
    match x.peer with
    | none => s
    | some q =>
      let s := { s with fab := { s.fab with remote := s.fab.remote.filter fun r => decide (r.why ≠ RemoteWhy.contrib uid) } }
      s.sendRemote q false (.contrib x.core x.die x.seq x.add true []) (.contrib uid)

/-- A row of a gather command lost to an uncorrectable error in transit: the positions that it serves fail, where its part is not served
yet (R323). -/
def State.loseRow (s : State) (cmd pos : Nat) : State :=
  let strike := fun (p : GPart) => if p.stage = 3 then p else
    { p with rows := p.rows.map fun r => if r.poss.contains pos then { r with pieces := none } else r }
  s.onJob cmd fun j => { j with parts := j.parts.map strike }

/-- Whether traffic of a command waits on a port: a request of it without an answer goes to a peer whose flow is there, or whose flow is
on no port that is known. -/
def State.trafficOn (s : State) (port : Nat) (c : Cmd) : Bool :=
  let ofCmd := fun (r : RemoteOp) => match r.why with
    | .cmdRead u _ => u == c.uid
    | .cmdWrite u => u == c.uid
    | .contrib u => s.gat.contribs.any fun x => x.uid == u && x.cmd == c.uid
    | _ => false
  s.fab.remote.any fun r => !r.host && ofCmd r &&
    ((s.fab.flows.any fun f => f.peer == r.peer && f.port == port) || !(s.fab.flows.any fun f => f.peer == r.peer))

/-- Whether a port is in a retrain that has lasted longer than 30,000 ticks (R406). -/
def Port.overlong (x : Port) (now : Time) : Bool := x.state == 3 && decide (x.retrainAt + 30000 < now)

/-- PROMISE_MISSED (R24): An engine command, or a WPUSHS, misses its promise; the miss is reported when it settles. A departed
peer makes only a command late whose work reaches it, and a retrain only one whose traffic waits on a port that has retrained for
too long (R22, R406). An error in transit names a position of a GATH word, or a contribution, that it hits. -/
def execPromiseMissed (cmd : Nat) (why : MissCause) (s : State) : Host.Outcome State Fault Refusal :=
  match s.cmd? cmd with
  | none => .next (match why with | .uncorrectable _ => (s.missPush cmd).loseContrib cmd | _ => s)
  | some c =>
    if !(decide (c.state = .accepted) || decide (c.state = .done)) then .next s
    else
      match why with
      | .departed p => .next (if s.departed p && s.cmdTouches c p then s.cmdGone c else s)
      | .retrain =>
        let late := (upFrom 0 48).any fun p => (nth Port.initial s.fab.ports p).overlong s.ftime && s.trafficOn p c
        .next (if late then s.cmdMissed c else s)
      | .uncorrectable n => .next ((s.loseRow cmd n).cmdMissed c)

end Sys2Proof.Machine
end

