-- ==== Sys2Proof/Machine/Fabric.lean ====
section
/-! DEFINITION. The fabric: ports and flits, joining and departing, requests of peers and replies to this package's own
(R400 to R415, R332). -/

namespace Sys2Proof.Machine

/-! ### Ports (R400, R404, R405) -/

/-- A port, and the state with it changed. -/
def State.port (s : State) (p : Nat) : Port := nth Port.initial s.fab.ports p
def State.onPort (s : State) (p : Nat) (g : Port → Port) : State :=
  { s with fab := { s.fab with ports := setNth Port.initial s.fab.ports p (g (s.port p)) } }

/-- A bit of MSTAT.REASON set, numbered from [16] (R425). -/
def State.reason (s : State) (bit : Nat) : State :=
  if s.mg.reason / 2 ^ bit % 2 = 1 then s else { s with mg := { s.mg with reason := s.mg.reason + 2 ^ bit } }

/-- A flit put together and sent, kept in the retry buffer until it is acknowledged; nothing on a port that is not up or
whose buffer of 512 is full. -/
def State.sendFlit (s : State) (p typ : Nat) (payload : List Byte) : State :=
  let x := s.port p
  if x.state ≠ 2 ∨ 512 ≤ x.retry.length then s
  else
    let s := s.onPort p fun x => { x with txSeq := (x.txSeq + 1) % 4096, lastSent := s.ftime, retry := x.retry ++ [(x.txSeq, typ, payload)] }
    { s with outbox := s.outbox ++ [.flit p x.txSeq x.rxSeq typ x.credit payload] }

/-- The header word of a flit. -/
def flitHeader (f : Flit) : Nat := f.seq % 4096 + f.ack % 4096 * 2 ^ 12 + f.typ % 16 * 2 ^ 24 + f.credit % 16 * 2 ^ 28

/-- Whether FEC could correct a flit and its CRC holds over its bytes 0 to 231. -/
def flitIntact (f : Flit) : Bool := f.fecOk && f.payload.length == 228 && f.crc == crc64 (bytesLE 4 (flitHeader f) ++ f.payload)

/-- Flits acknowledged leave the retry buffer: ACK is the number of the flit expected next (log 24). -/
def Port.ack (x : Port) (ack : Nat) : Port :=
  { x with acked := ack, retry := x.retry.filter fun e => decide (2048 ≤ (e.1 + 4096 - ack) % 4096) == false }

/-- Whether a flit of a type is taken: intact, in sequence, on a port that is up. -/
def State.takesFlit (s : State) (p typ : Nat) (f : Flit) : Bool :=
  decide (p < 48) && (s.port p).state == 2 && f.typ == typ && flitIntact f && f.seq % 4096 == (s.port p).rxSeq

/-- A flit taken: its sequence number, acknowledgement and credit; its payload where it has one. -/
def State.takeFlit (s : State) (p : Nat) (f : Flit) : State :=
  s.onPort p fun x =>
    { (x.ack (f.ack % 4096)) with rxSeq := (x.rxSeq + 1) % 4096, credit := f.credit % 16,
                                  rx := if f.typ = 0 then x.rx else f.payload }

/-- PACKET_DATA_FLIT (R404): A packet data flit is received and checked by FEC and CRC. -/
def execPacketDataFlit (port : Nat) (flit : Flit) (s : State) : Host.Outcome State Fault Refusal :=
  .next (if s.takesFlit port 1 flit then s.takeFlit port flit else s)

/-- TIME_SYNC_FLIT (R412): A time sync flit holds fabric time: a package that is ahead is slowed, never stepped back (R17). -/
def execTimeSyncFlit (port : Nat) (flit : Flit) (fabricTime : Nat) (s : State) : Host.Outcome State Fault Refusal :=
  if s.takesFlit port 2 flit then
    let s := s.takeFlit port flit
    .next { s with fab := { s.fab with ahead := if fabricTime + 16 < s.ftime then s.ftime - fabricTime else 0 } }
  else .next s

/-- CONTROL_FLIT (R404): A control flit is received on a port. -/
def execControlFlit (port : Nat) (flit : Flit) (s : State) : Host.Outcome State Fault Refusal :=
  .next (if s.takesFlit port 3 flit then s.takeFlit port flit else s)

/-- IDLE_FLIT (R404): An idle flit is received, carrying acknowledgements and credits. -/
def execIdleFlit (port : Nat) (flit : Flit) (s : State) : Host.Outcome State Fault Refusal :=
  .next (if s.takesFlit port 0 flit then s.takeFlit port flit else s)

/-- A count that saturates at 0xFFFF. -/
def sat16 (n : Nat) : Nat := Nat.min n 65535

/-- FLIT_REPLAY (R404): Flits that were not received are replayed from the retry buffer in SEQ order. -/
def execFlitReplay (port : Nat) (s : State) : Host.Outcome State Fault Refusal :=
  let x := s.port port
  if 48 ≤ port ∨ x.state ≠ 2 ∨ x.retry.isEmpty then .next s
  else
    let out := x.retry.map fun e => Out.flit port e.1 x.rxSeq e.2.1 x.credit e.2.2
    let recent := x.replayAt.filter fun t => decide (s.ftime ≤ t + 25000)
    let s := s.onPort port fun x => { x with replays := sat16 (x.replays + 1), lastSent := s.ftime, replayAt := recent ++ [s.ftime] }
    .next { s with outbox := s.outbox ++ out }

/-- FLIT_IDLE_TIMER (R404): A port that has sent nothing for 400 ticks sends an idle flit. -/
def execFlitIdleTimer (port : Nat) (s : State) : Host.Outcome State Fault Refusal :=
  .next (if port < 48 ∧ (s.port port).lastSent + 400 ≤ s.ftime then s.sendFlit port 0 (List.replicate 228 0) else s)

/-- TIME_SYNC_TIMER (R412): A time-sync flit is sent on an up port at least every 25,000 ticks. -/
def execTimeSyncTimer (port : Nat) (s : State) : Host.Outcome State Fault Refusal :=
  if 48 ≤ port ∨ !s.fab.joined ∨ s.ftime < (s.port port).lastSync + 25000 then .next s
  else .next ((s.sendFlit port 2 (bytesLE 8 s.ftime ++ List.replicate 220 0)).onPort port fun x => { x with lastSync := s.ftime })

/-! ### What a departed peer leaves (R332, R413, R415) -/

/-- A gather contribution sent to a peer, removed: it has been answered. -/
def State.dropContrib (s : State) (uid : Nat) : State :=
  { s with gat := { s.gat with contribs := s.gat.contribs.filter fun y => y.uid != uid } }

/-- A gather contribution that failed at its home, or on its way there: its positions fail (R323). -/
def State.failContrib (s : State) (uid : Nat) (also : State → Cmd → State) : State :=
  match s.gat.contribs.find? fun x => x.uid == uid with
  | none => s
  | some x =>
    let s := (s.dropContrib uid).failPositions x.cmd x.poss
    (s.cmd? x.cmd).elim s (also s)

/-- A request completed as for a departed peer (R413). -/
def State.failOp (s : State) (op : RemoteOp) : State :=
  let s := { s with fab := { s.fab with remote := s.fab.remote.filter fun r => r.uid != op.uid } }
  match op.why with
  | .fill e => ((s.m.mshrs.find? fun x => x.uid == e).map s.fillGone).getD s
  | .write w => ((s.m.outs.find? fun o => o.uid == w).map s.outGone).getD s
  | .atomic a => ((s.m.atoms.find? fun x => x.uid == a).map fun a => s.atomDone a (BitVec.allOnes 64) s.ftime true).getD s
  | .cmdRead c off =>
    match s.cmd? c with
    | some cmd =>
      let n := match op.ask with | .load _ _ n => n | _ => 0
      let s := if cmd.engine = 2 then s
        else s.onCmd c fun c => { c with buf := withAddr off (List.replicate n 0xFF) ++ c.buf }
      s.cmdGone cmd
    | none => s
  | .cmdWrite c => ((s.cmd? c).map s.cmdGone).getD s
  | .contrib u => s.failContrib u State.cmdGone
  | .far line => { s with fab := { s.fab with far := (line, List.replicate 128 0xFF) :: s.fab.far } }
  | .walk _ => s
  | .launch _ => s
  | .none => s

/-- Every request to a peer, or to the host, completed as for a departed peer. -/
def State.failOps (s : State) (mine : RemoteOp → Bool) : State := (s.fab.remote.filter mine).foldl (fun s op => s.failOp op) s

/-- Whether a page of a function lies on a peer, or in host memory. -/
def State.pageOn (s : State) (peer : Option Nat) (fn page : Nat) : Bool :=
  match s.walk fn (page * 65536) with
  | .ok (leaf, _) =>
    (match leaf.base, peer with
     | .peer i _, some p => i == p
     | .host _, none => true
     | _, _ => false)
  | .error _ => false

/-- Fibres and tasks parked on faults of a departed peer's pages go on (R413). -/
def State.wakeParked (s : State) (peer : Option Nat) : State :=
  let pages := s.fibres.filterMap fun f => match f.status with | .parked fn page => some (fn, page) | _ => none
  let tasks := s.cairn.wls.flatMap fun w => w.tasks.filterMap fun t => match t.at_ with | .parked _ fn page => some (fn, page) | _ => none
  ((dedup (pages ++ tasks)).filter fun x => s.pageOn peer x.1 x.2).foldl (fun s x => s.wakePage x.1 x.2 false) s

/-- The translations that chunks keep of pages of a peer dropped (R253): the write-back of a FILLED one translates again (R226), and a
fill under way completes as for a departed peer (R413). -/
def State.dropKept (s : State) (peer : Nat) : State :=
  let onPeer := fun (ch : Chunk) => ch.leaf.elim false fun l => match l.base with | .peer i _ => i == peer | _ => false
  let fills := s.teams.flatMap fun t => (t.chunks.filter onPeer).filterMap fun ch => ch.fill.map fun k => (t, ch, k)
  let s := fills.foldl (fun s x => s.chunkGone x.1 x.2.1 x.2.2) s
  { s with teams := s.teams.map fun t =>
      { t with chunks := t.chunks.map fun ch => if onPeer ch && ch.filled then { ch with leaf := none } else ch } }

/-- What is dropped of a peer that departs or rejoins: requests, translations and their leases, contributions that wait for a gap,
sequence numbers, and what it has granted to commands not yet accepted; the leases granted to it are recalled (R332, R415). -/
def State.dropPeer (s : State) (peer : Nat) : State :=
  let s := s.failOps fun r => !r.host && r.peer == peer
  let onPeer := fun (t : TlbEnt) => match t.leaf.base with | .peer i _ => i == peer | _ => false
  let s := s.recall fun l => l.peer == peer
  let s := { s with x := { s.x with tlb := s.x.tlb.filter (fun t => !(onPeer t)), peers := s.x.peers.filter fun p => p.peer != peer } }
  let s := s.dropKept peer
  let s := { s with cmds := s.cmds.map fun (c : Cmd) =>
    if c.engine != 2 then c
    else if c.queued then { c with grants := c.grants.filter fun g => g.1 != peer }
    else { c with stale := peer :: c.stale } }
  let other := fun (k : Nat) => k / 4 % 8192 != peer + 1
  { s with gat := { s.gat with given := s.gat.given.filter (fun p => other p.1), applied := s.gat.applied.filter (fun p => other p.1),
                               waiting := s.gat.waiting.filter fun r => r.src != peer },
           fab := { s.fab with inboundWaits := s.fab.inboundWaits.filter fun w => w.1 != peer } }

/-- A peer recorded with its incarnation, departed or not. -/
def State.setPeer (s : State) (p : PeerInfo) : State :=
  { s with fab := { s.fab with peers := p :: s.fab.peers.filter fun x => x.id != p.id } }

/-- A peer marked departed (R413): every command whose work touches it is a missed promise, and one that writes to it by multicast
settles with RERR too (R281, R410). -/
def State.departPeer (s : State) (peer : Nat) : State :=
  let casts := s.cmds.filter fun c => match c.dst with
    | .cast g _ _ => decide (c.state = .accepted) && Config.castMember g peer
    | _ => false
  let s := (casts.foldl (fun s c => s.cmdGone c) s).missWhere fun c => s.cmdTouches c peer
  let s := if s.departed peer then s
    else s.setPeer ⟨peer, ((s.fab.peers.find? fun p => p.id == peer).map (·.inc)).getD 0, some s.ftime⟩
  ((s.dropPeer peer).wakeParked (some peer)).pump

/-- DEPARTURE_NOTICE (R413): A peer is marked departed and outstanding accesses complete as R413 gives. -/
def execDepartureNotice (peer : Nat) (s : State) : Host.Outcome State Fault Refusal :=
  .next (if s.fab.joined && peer != s.fab.id then s.departPeer peer else s)

/-- JOIN_NOTICE (R412): A member records a joining package's new incarnation; what it had of an earlier one is dropped, and gather
commands that wait for acceptance ask it for their grants again (R411). -/
def execJoinNotice (peer inc : Nat) (s : State) : Host.Outcome State Fault Refusal :=
  if s.fab.joined && peer != s.fab.id then
    let s := (s.dropPeer peer).setPeer ⟨peer, inc % 256, none⟩
    .next ((s.cmds.filter fun c => c.arrival != 0 && c.queued).foldl (fun s c => s.askGrants c (· == peer)) s)
  else .next s

/-- Whether work has begun by which FTIME cannot be stepped any more: a launch, a command of one, or traffic (R17). -/
def State.begun (s : State) : Bool :=
  !s.cmds.isEmpty || !s.fab.remote.isEmpty || s.launches.any fun l => decide (l.phase ≠ .queued)

/-- FABRIC_JOIN (R412): The package joins: identity, incarnation, and fabric time stepped forward, which R17 puts before any
fabric traffic or launch: while work has begun, a package that is behind cannot join (log 64). -/
def execFabricJoin (id lastInc : Nat) (first : Bool) (fabricTime : Nat) (s : State) : Host.Outcome State Fault Refusal :=
  if s.fab.joined || decide (4096 ≤ id) || !(s.fab.ports.any fun p => p.state == 2) ||
      (decide (s.ftime < fabricTime) && s.begun) then .next s
  else
    .next { s with ftime := Nat.max s.ftime fabricTime,
                   fab := { s.fab with id := id, inc := if first then 1 else (lastInc + 1) % 256, joined := true,
                                       ahead := if fabricTime + 16 < s.ftime then s.ftime - fabricTime else 0 } }

/-! ### Ports that retrain or fail (R405 to R407) -/

/-- PORTSTAT of a port. -/
def Port.stat (x : Port) : Nat := x.state + x.lanes * 4 + x.failed * 16 + x.retrains * 2 ^ 32 + x.replays * 2 ^ 48

/-- A port down: its flows and its unacknowledged packets go to another up port of its switch die, the first one (R407 does not say
which; log 48); with no port left every peer has departed. -/
def State.portDown (s : State) (p : Nat) : State :=
  let x := s.port p
  let s := (s.onPort p fun x => { x with state := 0, lanes := 0, retry := [] }).reason 3
  let others := (upFrom (p / 24 * 24) 24).filter fun q => q != p && (s.port q).state == 2
  let s := match others with
    | q :: _ =>
      let s := { s with fab := { s.fab with flows := s.fab.flows.map fun (f : Flow) => if f.port == p then { f with port := q } else f } }
      (x.retry.filter fun (e : Nat × Nat × List Byte) => e.2.1 == 1).foldl (fun (s : State) (e : Nat × Nat × List Byte) => s.sendFlit q 1 e.2.2) s
    | [] => s
  if s.fab.ports.all fun y => y.state == 0 then (s.fab.peers.map fun (p : PeerInfo) => p.id).foldl (fun (s : State) (i : Nat) => s.departPeer i) s else s

/-- A port that has trained: up on four lanes, or on the two of the pair without a failed lane, or down (R405). -/
def State.trained (s : State) (p : Nat) (failed : BitVec 4) : State :=
  let bad := Nat.lor (s.port p).failed failed.toNat
  let s := s.onPort p fun x => { x with failed := bad }
  if bad = 0 then s.onPort p fun x => { x with state := 2, lanes := 2, lastSent := s.ftime }
  else if bad % 4 = 0 ∨ bad / 4 = 0 then (s.onPort p fun x => { x with state := 2, lanes := 1, lastSent := s.ftime }).reason 2
  else s.portDown p

/-- PORT_RETRAIN (R405): Sixteen replays in 25,000 ticks or excess lane errors start a retrain. -/
def execPortRetrain (port : Nat) (laneErrors : Bool) (s : State) : Host.Outcome State Fault Refusal :=
  let x := s.port port
  let many := decide (16 ≤ (x.replayAt.filter fun t => decide (s.ftime ≤ t + 25000)).length)
  if port < 48 ∧ x.state = 2 ∧ (laneErrors || many) then
    .next (s.onPort port fun x => { x with state := 3, retrains := sat16 (x.retrains + 1), retrainAt := s.ftime, replayAt := [] })
  else .next s

/-- RETRAIN_COMPLETE (R405): A retraining port resumes, drops a failed lane pair, or goes down; one that took longer than
30,000 ticks has missed the promises of the commands whose traffic waits on it, and goes down with an error record (R406). -/
def execRetrainComplete (port : Nat) (failed : BitVec 4) (s : State) : Host.Outcome State Fault Refusal :=
  let x := s.port port
  if 48 ≤ port ∨ x.state ≠ 3 then .next s
  else
    let s' := if x.overlong s.ftime then
        ((s.missWhere (s.trafficOn port)).onPort port fun x => { x with failed := Nat.lor x.failed failed.toNat }).portDown port
      else s.trained port failed
    .next (if (s'.port port).state = 0 then s'.errorRecord 1 (8 + port / 24) 8 noCore port (s'.port port).stat else s')

/-- PORT_TRAINING_COMPLETE (R405): A port that was down finishes training. -/
def execPortTrainingComplete (port : Nat) (failed : BitVec 4) (s : State) : Host.Outcome State Fault Refusal :=
  .next (if port < 48 ∧ (s.port port).state = 1 then s.trained port failed else s)

/-- LOSS_OF_SIGNAL (R405): Loss of signal on every lane marks the port down, unless it is retraining. -/
def execLossOfSignal (port : Nat) (s : State) : Host.Outcome State Fault Refusal :=
  let x := s.port port
  .next (if port < 48 ∧ (x.state = 1 ∨ x.state = 2) then s.portDown port else s)

/-- FLOWGAP of a switch die (R407): the greatest difference of path latency among its up ports, plus 64 ticks, and never less than
1,250; the latencies measured are free (log 48). -/
def State.flowgapOf (s : State) (sw : Nat) : Nat :=
  let paths := ((upFrom (24 * sw) 24).filter fun p => (s.port p).state == 2).map Config.pathLatency
  match leastField paths with
  | none => 1250
  | some lo => Nat.max 1250 (maxList paths - lo + 64)

/-- FLOWLET_GAP_EXPIRY (R407): A flow idle longer than FLOWGAP may move to another port; a new flow takes one. -/
def execFlowletGapExpiry (sw peer port : Nat) (s : State) : Host.Outcome State Fault Refusal :=
  let mine := fun (f : Flow) => f.sw == sw && f.peer == peer
  if !(decide (port < 48) && port / 24 == sw && (s.port port).state == 2) then .next s
  else
    match s.fab.flows.find? mine with
    | none => .next { s with fab := { s.fab with flows := s.fab.flows ++ [⟨sw, peer, port, s.ftime⟩] } }
    | some f =>
      if f.last + s.flowgapOf sw < s.ftime then
        .next { s with fab := { s.fab with flows := s.fab.flows.map fun (f : Flow) => if mine f then { f with port := port } else f } }
      else .next s

/-! ### Die-to-die links (R408) -/

/-- Whether a die has no link left to any other. -/
def FabState.cutOff (b : FabState) (d : Nat) : Bool :=
  (upFrom 0 4).all fun x => x == d || b.cutLinks.any fun l => (l.1 == d && l.2 == x) || (l.1 == x && l.2 == d)

/-- Whether a command's promise depends on a die: its issuer's core, its copy engine, a page that it holds, or a row is there; a
replicated page has a copy on every die (log 25). -/
def State.needsDie (s : State) (c : Cmd) (d : Nat) : Bool :=
  dieOfCore c.core == d || (c.engine == 1 && c.unit == d) || (c.leaves.any fun l => homedOn (placeIn l.2 (65536 * l.1)) d) ||
    (s.chargesOf c).any fun x => decide (x = (d, none))

/-- A die cut off: an uncorrectable error in each of its cores, and the promises that depend on it are missed: of commands, and of the
announcements of its cores' WPUSHS (R22, R408). -/
def State.loseDie (s : State) (d : Nat) : State :=
  let cores := upFrom (64 * d) 64
  let s := cores.foldl (fun s c => s.coreError cores c 0 0) s
  let pushes := s.cairn.pushes.filter fun p => dieOfCore p.core == d
  pushes.foldl (fun s p => s.missPush p.uid) (s.missWhere fun c => s.needsDie c d)

/-- D2D_LINK_FAILURE (R408): A failed die-to-die link is rerouted through a third die; a die without any is lost. The four
die pairs are taken to be linked each with each (log 25). -/
def execD2dLinkFailure (a b : Nat) (s : State) : Host.Outcome State Fault Refusal :=
  if 4 ≤ a ∨ 4 ≤ b ∨ a = b then .next s
  else
    let before := (upFrom 0 4).filter s.fab.cutOff
    let s := { s with fab := { s.fab with cutLinks := (a, b) :: s.fab.cutLinks } }
    .next (((upFrom 0 4).filter fun d => s.fab.cutOff d && !(before.contains d)).foldl (fun s d => s.loseDie d) s)

/-! ### Requests of peers (R101, R253, R401, R402, R415) -/

/-- The issuer of a write of a peer's core, numbered beyond this package's cores. -/
def reqIssuer (r : RemoteReq) : Issuer := r.core.elim .none fun c => .core (256 * (r.src + 1) + c)

/-- The GWCT of a write that comes from a peer: it carries the 32-tick guard (R101). -/
def MemState.remoteGwct (m : MemState) (now : Time) (line : Place) (latency : Nat) : Time :=
  let h := (m.horizon .home line).1
  Nat.max (m.gwctFor now .home line latency) (if h = 0 then 0 else h + Config.guardFabric)

/-- The class of a refused incarnation, and of uncorrectable data, in a reply. -/
def clsStale : Nat := 15
def clsPoison : Nat := 14

/-- A write of a peer to local memory, line by line, with the addresses of bytes that it writes poisoned: the latest GWCT. -/
def State.peerWrite (s : State) (r : RemoteReq) (key : Nat) (bad : List Nat) : List (Nat × Nat) → List Byte → Time → State × Time
  | [], _, due => (s, due)
  | (pa, n) :: rest, bs, due =>
    let mine := (bad.filter fun a => decide (pa ≤ a) && decide (a < pa + n)).map fun a => pa % 128 + (a - pa)
    let line := (Place.dram pa).line
    let g := s.m.remoteGwct s.ftime line (Nat.min r.latency maxLatency)
    let s := s.onMem fun m => m.arrive s.uid .home line (withAddr (pa % 128) (bs.take n)) g (reqIssuer r) key mine
    { s with uid := s.uid + 1 }.peerWrite r key bad rest (bs.drop n) (Nat.max due g)

/-- A write of a peer that covers a whole block: one write under one GWCT, in the stored form that its sender chose (R240). -/
def State.peerBlock (s : State) (r : RemoteReq) (key : Nat) (bad : List Nat) (pa : Nat) (bs : List Byte) (pack : Nat) :
    State × Time :=
  let halves := lineHalves (.dram pa) (withAddr 0 bs)
  let g := maxList (halves.map fun h => s.m.remoteGwct s.ftime h.1 (Nat.min r.latency maxLatency))
  let m := halves.foldl (fun m h => m.arrive s.uid .home h.1 h.2 g (reqIssuer r) key (halfOffs (.dram pa) h.1 bad) (pack % 8)) s.m
  ({ s with m := m, uid := s.uid + 1 }, g)

/-- A reply put out, with the offsets of poisoned bytes. -/
def State.reply (s : State) (r : RemoteReq) (bytes : List Byte) (gwct lease cls : Nat) (bad : List Nat := []) : State :=
  s.sendPeer r.src (.reply r.src r.tag bytes gwct lease cls bad)

/-- A part of a contribution at its export entry (R319). -/
structure InPart where
  pa : Nat
  key : Nat
  bytes : List Byte
  deriving DecidableEq, Repr

/-- The parts of a contribution of a peer under the export table: the class that refuses one, or all of them. -/
def State.inParts (s : State) : List (Nat × Nat × List Byte) → Except Nat (List InPart)
  | [] => .ok []
  | (frame, off, bs) :: r =>
    let e := s.exportOf frame true
    if e.cls ≠ 0 then .error e.cls else (s.inParts r).map (⟨e.pa + off, e.key, bs⟩ :: ·)

/-- The parts of a contribution written at their homes, added or copied: the latest GWCT (R326, R328). -/
def State.writeIn (s : State) (r : RemoteReq) (add : Bool) : List InPart → Time → State × Time
  | [], due => (s, due)
  | p :: rest, due =>
    let pl := Place.dram p.pa
    let new := if add then addBytes (s.m.homeNewest .home pl.line p.key pl.off p.bytes.length) p.bytes else p.bytes
    let x := s.peerWrite r p.key [] (cutLines p.pa p.bytes.length) new due
    x.1.writeIn r add rest x.2

/-- A contribution of a peer in its turn: applied, or skipped where it was lost, or refused, or its row is poisoned (R323, R327). -/
def State.applyIn (s : State) (r : RemoteReq) (add lost : Bool) (parts : List (Nat × Nat × List Byte)) : State :=
  match s.inParts parts with
  | .error cls => s.reply r [] 0 0 cls
  | .ok ps =>
    if lost || (add && ps.any fun p => s.m.poisoned .home (.dram p.pa) p.bytes.length) then s.reply r [] 0 0 clsPoison
    else
      let x := s.writeIn r add ps s.ftime
      x.1.reply r [] x.2 0 0

/-- The number of a contribution's sequence, and its key, where a request carries one (R327). -/
def turnOf (r : RemoteReq) : Option (Nat × Nat) :=
  match r.ask with
  | .contrib core die seq _ _ _ => some (seqKey core (some r.src) die, seq)
  | _ => none

/-- Whether a contribution is the next of its sequence. -/
def State.isTurn (s : State) (r : RemoteReq) : Bool :=
  match turnOf r with
  | some (key, seq) => lookupD 0 s.gat.applied key == seq
  | none => false

/-- Contributions of a peer applied as far as their sequences go, each once its turn comes (R327). -/
def State.applyWaiting : Nat → State → State
  | 0, s => s
  | n + 1, s =>
    match s.gat.waiting.find? s.isTurn with
    | none => s
    | some r =>
      match r.ask with
      | .contrib core die seq add lost parts =>
        let g := { s.gat with waiting := s.gat.waiting.filter fun x => !(s.isTurn x && turnOf x == turnOf r),
                              applied := putNat s.gat.applied (seqKey core (some r.src) die) ((seq + 1) % seqMod) }
        ({ s with gat := g }.applyIn r add lost parts).applyWaiting n
      | _ => s

/-- A contribution of a peer arrives: one that comes early waits for the gap before it (R327). -/
def State.takeContrib (s : State) (r : RemoteReq) : State :=
  let g := { s.gat with waiting := s.gat.waiting ++ [r] }
  { s with gat := g }.applyWaiting (s.gat.waiting.length + 1)

/-- A request of a current peer served at its home. -/
def State.serve (s : State) (r : RemoteReq) : State :=
  match r.ask with
  | .contrib .. => s.takeContrib r
  | .walk frame write =>
    let e := s.exportOf frame write
    if e.cls = 0 then
      let until_ := s.ftime + Config.freeNat s.fresh % 250001
      let s := { s.takeFresh with x := { s.x with leases := s.x.leases ++ [(⟨r.src, frame, until_, false⟩ : PeerLease)] } }
      s.reply r [if e.w then 1 else 0] 0 until_ 0
    else s.reply r (bytesLE 8 e.entry) 0 0 e.cls
  | .load frame off n =>
    let e := s.exportOf frame false
    let p := Place.dram (e.pa + off)
    if e.cls ≠ 0 then s.reply r [] 0 0 e.cls
    else
      let bad := (upFrom 0 n).filter fun i => s.m.poisoned .home (p.add i) 1
      let reader := r.core.map fun c => 256 * (r.src + 1) + c
      let parts := (cutLines (e.pa + off) n).map fun x => (Place.dram x.1, x.2)
      let bs := parts.flatMap fun (x : Place × Nat) => s.m.homeBytes s.ftime .home x.1.line reader e.key x.1.off x.2
      let g := maxList (parts.map fun (x : Place × Nat) => seenGwct s.ftime reader (s.m.pendingAt .home x.1.line))
      if g = 0 then
        let until_ := parts.foldl
          (fun u (x : Place × Nat) => Nat.min u (s.m.leaseEnd s.ftime .home x.1.line (Config.freeNat s.fresh) true)) (s.ftime + Config.leaseMax)
        let s := parts.foldl (fun s (x : Place × Nat) => s.onMem (·.grant .home x.1.line until_ true)) s.takeFresh
        s.reply r bs 0 until_ 0 bad
      else s.reply r bs g 0 0 bad
  | .store frame off bytes bad pack =>
    let e := s.exportOf frame true
    if e.cls ≠ 0 then s.reply r [] 0 0 e.cls
    else if off % 256 = 0 ∧ bytes.length = 256 then
      let x := s.peerBlock r e.key bad (e.pa + off) bytes pack
      x.1.reply r [] x.2 0 0
    else
      let x := s.peerWrite r e.key (bad.map (e.pa + off + ·)) (cutLines (e.pa + off) bytes.length) bytes s.ftime
      x.1.reply r [] x.2 0 0
  | .atomic frame off width op operand compare =>
    let e := s.exportOf frame true
    let p := Place.dram (e.pa + off)
    if e.cls ≠ 0 then s.reply r [] 0 0 e.cls
    else if s.m.poisoned .home p width then s.reply r [] 0 0 clsPoison
    else
      let old := natLE (s.m.homeNewest .home p.line e.key p.off width)
      let new := atomNew op width old (cutTo width operand) (cutTo width compare)
      if new = old then s.reply r (bytesLE width old) (s.m.latestPending s.ftime .home p.line) 0 0
      else
        let x := s.peerWrite r e.key [] [(e.pa + off, width)] (bytesLE width new) s.ftime
        x.1.reply r (bytesLE width old) x.2 0 0

/-- REMOTE_REQUEST (R415): A request of a peer arrives: one of another incarnation is refused, the others are served under
the export table. -/
def execRemoteRequest (req : RemoteReq) (s : State) : Host.Outcome State Fault Refusal :=
  if !(s.takesPacket req.domain req.ageTicks) then .next s
  else if !(s.current req.src req.inc) then .next (s.reply req [] 0 0 clsStale)
  else .next (s.serve req)

/-! ### Replies (R101, R403, R415) -/

/-- A line supplied by a peer or the host to a core: the L2 keeps a copy while its lease lasts (R76, R101), none of a line with poison
(R423). -/
def State.farSupply (s : State) (core : Nat) (line : Place) (key : Nat) (rep : RemoteRep) : State × Supply :=
  let keep := decide (s.ftime < rep.lease) && rep.gwct ≤ s.ftime && rep.bad.isEmpty && (match line with | .peer _ _ => true | _ => false)
  let s' := if keep then s.putL2 (dieOfCore core) line rep.bytes rep.lease key else s
  s'.fromL2 core line Config.leaseMax rep.bytes (if keep then rep.lease else s.ftime) (if rep.gwct ≤ s.ftime then 0 else rep.gwct)

/-- A write or atomic of a core at a peer's home noted until its GWCT: until then the core is served at the peer's home, and not by a copy
that another core of the die has fetched since (R78, R84). -/
def State.noteFar (s : State) (uid : Nat) (lines : List Place) (gwct : Time) (issuer : Issuer) (key : Nat) : State :=
  if gwct ≤ s.ftime then s
  else lines.foldl (fun s l => s.onMem fun m => m.arrive uid .home l [] gwct issuer key) s

/-- An atomic that meets uncorrectable data: the rope of its fibre is lost (R423). -/
def State.poisonAtom (s : State) (a : AtomReq) : State :=
  (s.onMem fun m => { m with atoms := m.atoms.filter fun y => y.uid != a.uid }).consumePoison a.fibre

/-- Whether the bytes of an atomic are among those of its line that an answer gives as poisoned. -/
def spoils (rep : RemoteRep) (p : Place) (n : Nat) : Bool := rep.bad.any fun i => decide (p.off ≤ i) && decide (i < p.off + n)

/-- The answer of an atomic: the old value, or the line on which it executes here. -/
def State.atomReply (s : State) (a : AtomReq) (rep : RemoteRep) : State :=
  match a.at_ with
  | .level .home p =>
    let s := match p with
      | .peer _ _ => s.noteFar a.uid [p.line] rep.gwct (.core a.core) a.key
      | _ => s
    s.atomDone a (atomOld a.width a.signed (natLE rep.bytes)) rep.gwct false
  | .level (.l1 _) p =>
    if spoils rep p a.width then s.poisonAtom a
    else State.atomTeamOn a p (Config.freeNat s.fresh % maxLatency) (s.farSupply a.core p.line a.key rep)
  | .level (.l2 d) p =>
    if spoils rep p a.width then s.poisonAtom a
    else State.atomDieOn a d p (Config.freeNat s.fresh % maxLatency) (s.farSupply a.core p.line a.key rep)
  | _ => s

/-- A fill of a line of a peer or of the host from its answer, with the other line of the block where that was asked for too
(R239). -/
def State.farFill (s : State) (e : Mshr) (op : RemoteOp) (rep : RemoteRep) : State :=
  let lo := fun (p : Place) => if 128 < rep.bytes.length then p.addr % 256 else 0
  let half := fun (p : Place) =>
    { rep with bytes := (rep.bytes.drop (lo p)).take 128,
               bad := (rep.bad.filter fun i => decide (lo p ≤ i) && decide (i < lo p + 128)).map (· - lo p) }
  let r := s.farSupply e.core e.line e.key (half e.line)
  let s := r.1.fill e (Config.freeNat s.fresh) r.2 (half e.line).bad
  match op.ask, r.2.gwct with
  | .load _ _ 256, 0 =>
    if s.wantsBuddy e.core e.line && (half (buddy e.line)).bad.isEmpty then
      let b := s.farSupply e.core (buddy e.line) e.key (half (buddy e.line))
      b.1.putBuddy e.core e.line e.key { b.2 with lease := Nat.min b.2.lease r.2.lease }
    else s
  | _, _ => s

/-- A translation that a peer or ATS has answered kept, in place of an older one of the page; of those of ATS the 4,096 latest, the
entries of its cache (R416; log 69). -/
def State.keepXlat (s : State) (x : PeerXlat) : State :=
  let rest := s.x.peers.filter fun p => !(p.peer == x.peer && p.frame == x.frame)
  let ofAts := fun (p : PeerXlat) => p.peer == atsPeer
  let kept := if ofAts x then (rest.filter ofAts).take 4095 ++ rest.filter fun p => !(ofAts p) else rest
  { s with x := { s.x with peers := x :: kept } }

/-- An answer handed to what asked for it. -/
def State.answer (s : State) (op : RemoteOp) (rep : RemoteRep) : State :=
  let gwct := if op.host then s.ftime else rep.gwct
  let others := fun (why : RemoteWhy) => s.fab.remote.any fun r => decide (r.why = why)
  match op.why with
  | .fill e =>
    match s.m.mshrs.find? fun x => x.uid == e && x.remoteReq == some op.uid with
    | some x => s.farFill x op rep
    | none => s
  | .write w =>
    match s.m.outs.find? fun o => o.uid == w with
    | some o =>
      let s := if others (.write w) then s else s.dropOut w
      (s.noteFar o.uid (o.halves.map (·.1)) gwct o.issuer o.key).giveGwct o gwct
    | none => s
  | .atomic a => ((s.m.atoms.find? fun x => x.uid == a).map fun a => s.atomReply a rep).getD s
  | .cmdRead c off =>
    let s := s.onCmd c fun c => { c with buf := withAddr off rep.bytes ++ c.buf, bad := rep.bad.map (off + ·) ++ c.bad }
    if rep.bad.isEmpty then s else (s.cmd? c).elim s s.cmdMissed
  | .cmdWrite c => s.onCmd c fun c => { c with due := Nat.max c.due gwct }
  | .walk frame =>
    let w := natLE (rep.bytes.take 1) == 1
    s.keepXlat ⟨op.peer, frame, 0, w, if op.host then 2 ^ 64 else rep.lease, false, false, 0⟩
  | .contrib u =>
    let s := match s.gat.contribs.find? fun x => x.uid == u with
      | some x => s.onCmd x.cmd fun c => { c with due := Nat.max c.due gwct }
      | none => s
    s.dropContrib u
  | .far line =>
    { s with fab := { s.fab with far := (line, rep.bytes) :: s.fab.far,
                                 farBad := if rep.bad.isEmpty then s.fab.farBad else line :: s.fab.farBad } }
  | .launch id => s.onLaunch id fun l =>
      match l.phase with
      | .closing r due => { l with phase := .closing r (Nat.max due gwct) }
      | _ => l
  | .none => s

/-- Uncorrectable data as the answer: the rope of an atomic's fibre is lost, a contribution fails (R22, R423), and of a read every byte
is poisoned. -/
def State.poisonReply (s : State) (op : RemoteOp) (rep : RemoteRep) : State :=
  match op.why with
  | .atomic a => ((s.m.atoms.find? fun x => x.uid == a).map s.poisonAtom).getD s
  | .contrib u => s.failContrib u State.cmdMissed
  | _ =>
    match op.ask with
    | .load _ _ n => s.answer op { rep with bytes := List.replicate n 0, bad := upFrom 0 n }
    | _ => s

/-- A refusal by the export table: of a walk it becomes the class of the translation, with the entry's address; the rows of a gather command fail as a page
that does not translate (R319, R323); anything else completes as for a departed peer. -/
def State.refused (s : State) (op : RemoteOp) (rep : RemoteRep) : State :=
  match op.why with
  | .walk frame =>
    let s := { s with fab := { s.fab with remote := s.fab.remote.filter fun r => r.uid != op.uid } }
    s.keepXlat ⟨op.peer, frame, rep.cls, false, 0, false, false, natLE rep.bytes⟩
  | .contrib u => s.failContrib u fun s _ => s
  | .cmdRead c _ =>
    if ((s.cmd? c).map (·.engine)) = some 2 then { s with fab := { s.fab with remote := s.fab.remote.filter fun r => r.uid != op.uid } }
    else s.failOp op
  | _ => s.failOp op

/-- REMOTE_REPLY (R415): A reply completes a request of this package; one of a stale incarnation is dropped, and the request
completes as for a departed peer. -/
def execRemoteReply (rep : RemoteRep) (s : State) : Host.Outcome State Fault Refusal :=
  match s.fab.remote.find? fun r => r.uid == rep.req && (r.host || r.peer == rep.src) with
  | none => .next s
  | some op =>
    if !op.host && !(s.takesPacket rep.domain rep.ageTicks) then .next s
    else if (!op.host && !(s.current rep.src rep.inc)) || rep.cls == clsStale then .next (s.failOp op)
    else
      let s' := { s with fab := { s.fab with remote := s.fab.remote.filter fun r => r.uid != op.uid } }
      if rep.cls = 0 then .next (s'.answer op rep)
      else if rep.cls = clsPoison then .next (s'.poisonReply op rep)
      else .next (s.refused op rep)

end Sys2Proof.Machine
end

