-- ==== Sys2Proof/Machine/Hint.lean ====
section
/-! DEFINITION. Hint words (R45 to R51, R185). -/

namespace Sys2Proof.Machine

/-- A hint word (R46, R185): it joins the pending group of the fibre, whose first hint it may be, and takes its slot. -/
def hintWord (put : Hints → Hints) (s : State) : Host.Outcome State Fault Refusal :=
  match s.cur with
  | none => .fault .noFibre
  | some f =>
    let g := { put f.hints with start := some f.groupPc, words := f.hints.words ++ [(f.pc, f.ir)] }
    .next (s.setFibre { f with hints := g, pc := f.pc + 4, runCount := f.runCount + 1 }).nextMember

/-- HINT_LIT (R49): Supplies 22 immediate bits above the attached word's immediate. -/
def execHintLit (i : BitVec 22) (s : State) :
    Host.Outcome State Fault Refusal :=
  hintWord (fun g => { g with lit := some i }) s

/-- HINT_LITH (R49): Supplies 22 immediate bits above LIT's. -/
def execHintLith (i : BitVec 22) (s : State) :
    Host.Outcome State Fault Refusal :=
  hintWord (fun g => { g with lith := some i }) s

/-- HINT_VEC (R197): Supplies mask, rounding, zeroing, saturation and fourth operand to a vector word. -/
def execHintVec (m : BitVec 3) (v : Bool) (r : BitVec 2) (z : Bool) (sat : Bool) (o : BitVec 6) (s : State) :
    Host.Outcome State Fault Refusal :=
  hintWord (fun g => { g with vec := some ⟨m, v, r, z, sat, o⟩ }) s

/-- HINT_MEMO (R91): Supplies scope, acquire, release and cache policy to a memory word. -/
def execHintMemo (sc : BitVec 3) (a : Bool) (r : Bool) (c : BitVec 2) (s : State) :
    Host.Outcome State Fault Refusal :=
  hintWord (fun g => { g with memo := some ⟨sc, a, r, c⟩ }) s

/-- HINT_GUARD (R30): Places a COPY or GATH command under a guard slot. -/
def execHintGuard (q : BitVec 6) (p : Bool) (s : State) :
    Host.Outcome State Fault Refusal :=
  hintWord (fun g => { g with guard := some (q, p) }) s

/-- HINT_SCHED (R149): Requests a yield or priority boost after the run. -/
def execHintSched (y : Bool) (b : Bool) (s : State) :
    Host.Outcome State Fault Refusal :=
  hintWord (fun g => { g with sched := some (y, b) }) s

/-- HINT_KSRC (R50): Makes the attached word read team registers for SB and SA. -/
def execHintKsrc (k : BitVec 9) (x : Bool) (s : State) :
    Host.Outcome State Fault Refusal :=
  hintWord (fun g => { g with ksrc := some (k, x) }) s

end Sys2Proof.Machine
end

