-- ==== Sys2Proof/Machine/HostIf.lean ====
section
/-! DEFINITION. The host link: its loss and return, ATS, BAR2, and the registers of BAR0 (R6, R108 to R110, R249, R400,
R402, R409, R410, R416, R417, R420, R425). -/

namespace Sys2Proof.Machine

/-! ### The link (R416, R417) -/

/-- HOST_SURPRISE_DOWN (R417): The host link drops without request; queues stop and launches are saved or aborted. -/
def execHostSurpriseDown (s : State) : Host.Outcome State Fault Refusal :=
  if !s.fab.hostUp then .next s
  else
    let off := fun (q : HostQueue) => { q with cfg := q.cfg &&& ~~~0x10000 }
    let s := { s with q := { s.q with host := s.q.host.map off, held := true } }
    let s := s.clearDevice
    let s := { s with fab := { s.fab with hostUp := false, ats := [] },
                      x := { s.x with peers := s.x.peers.filter fun p => p.peer != atsPeer } }
    let s := (s.failOps fun r => r.host).wakeParked none
    .next ((s.errorRecord 3 22 25 noCore 0 0).reason 4).pump

/-- HOST_LINK_TRAINED (R417): The host link trains again after a surprise down. -/
def execHostLinkTrained (s : State) : Host.Outcome State Fault Refusal :=
  .next { s with fab := { s.fab with hostUp := true } }

/-- What a range of I/O virtual addresses covers. -/
def hostCovers (iova bytes : Nat) : Covers := fun _ _ l =>
  match l.base with
  | .host a => decide (iova / 65536 ≤ a / 65536) && decide (a / 65536 * 65536 < iova + bytes)
  | _ => false

/-- Whether an access of before still uses an ATS translation of a range. -/
def State.atsUsed (s : State) (c : Covers) : Bool :=
  let inRange := fun (frame : Nat) => c 0 0 (pageLeaf (.host (frame * 65536)))
  s.stillUsed c s.uid ||
  (s.m.outs.any fun o => c 0 0 (pageLeaf o.line)) ||
  (s.fab.remote.any fun r => r.host &&
    (match r.ask with
     | .load f _ _ => inRange f
     | .store f _ _ _ _ => inRange f
     | .atomic f _ _ _ _ _ => inRange f
     | .contrib .. => false
     | .walk _ _ => false))

/-- ATS_INVALIDATION_REQUEST (R416): A host ATS invalidation drops cached translations, and completes once every access that
used them has performed; until then it stays open, and the same event completes it. -/
def execAtsInvalidationRequest (iova bytes : Nat) (s : State) : Host.Outcome State Fault Refusal :=
  let c := hostCovers iova bytes
  let hit := fun (p : PeerXlat) => p.peer == atsPeer && c 0 0 (pageLeaf (.host (p.frame % 2 ^ 26 * 65536)))
  let s := { s with x := { s.x with peers := s.x.peers.filter fun p => !(hit p) } }
  let rest := s.fab.ats.filter fun x => decide (x ≠ (iova, bytes))
  if s.atsUsed c then .next { s with fab := { s.fab with ats := rest ++ [(iova, bytes)] } }
  else .next { s with fab := { s.fab with ats := rest }, outbox := s.outbox ++ [.atsDone iova bytes] }

/-! ### BAR2 (R416) -/

/-- The local physical addresses that BAR2 reaches, cut at 128 B lines: those of stacks 12 to 15 are left out. -/
def bar2Lines (pa n : Nat) : List (Nat × Nat) := (cutLines pa n).filter fun p => paOk p.1

/-- The bytes of a host write, line by line, at their homes. -/
def State.bar2Put (s : State) (pa : Nat) (data : List Byte) : List (Nat × Nat) → State
  | [] => s
  | (a, n) :: r => ((s.agentWrite (.dram a) ((data.drop (a - pa)).take n) 0 0 .none).1).bar2Put pa data r

/-- BAR2_WRITE (R416): A host write through BAR2 is performed at the home as a DEVICE-scope store under key slot 0; in stacks
12 to 15 it is discarded. -/
def execBar2Write (pa : Nat) (data : List (BitVec 8)) (s : State) : Host.Outcome State Fault Refusal :=
  if 2 ^ 40 < pa + data.length then .next s
  else .next (s.bar2Put pa data (bar2Lines pa data.length))

/-- BAR2_READ (R416): A host read through BAR2 is served at the home under key slot 0; stacks 12 to 15 read all ones. Poison is
forwarded, and AER reports it (R423). -/
def execBar2Read (pa n : Nat) (s : State) : Host.Outcome State Fault Refusal :=
  if 2 ^ 40 < pa + n then .next s
  else
    let one := fun (p : Nat × Nat) =>
      if paOk p.1 then s.m.homeBytes s.ftime .home (Place.dram p.1).line none 0 (p.1 % 128) p.2 else List.replicate p.2 0xFF
    let bad := (upFrom 0 n).filter fun i => paOk (pa + i) && s.m.poisoned .home (.dram (pa + i)) 1
    let s := { s with outbox := s.outbox ++ [.bar2 ((cutLines pa n).flatMap one) bad] }
    .next (if bad.isEmpty then s else s.reportAer)

/-! ### Host queues (R108 to R110) -/

/-- Whether a function may write QTAIL of a queue: the physical function, and the one in whose BAR0 the block appears. -/
def HostQueue.writer (q : HostQueue) (fn : Nat) : Bool := fn == 0 || fn == q.shown

/-- Whether a doorbell value is taken (R110). -/
def HostQueue.takes (q : HostQueue) (v : Nat) : Bool :=
  let ahead := fun n => (n + 2 ^ 32 - q.head % 2 ^ 32) % 2 ^ 32
  decide (ahead v ≤ 2 ^ q.log) && decide (ahead q.tail ≤ ahead v)

/-- QTAIL_DOORBELL (R110): A write to QTAIL rings a host queue's doorbell or is ignored with a record. -/
def execQtailDoorbell (fn q : Nat) (v : BitVec 64) (s : State) : Host.Outcome State Fault Refusal :=
  let hq := nth HostQueue.initial s.q.host q
  let n := bitsOf v 31 0
  if 64 ≤ q ∨ !(hq.writer fn) then .next s
  else if hq.takes n then .next (s.onQueue q fun x => { x with tail := n })
  else .next (s.errorRecord 3 22 18 noCore (0x100000 + 64 * q + 0x18) (n + fn * 2 ^ 32))

/-- QCFG_WRITE (R109): Writes a host queue's configuration under its EN rules. Only the physical function writes it. -/
def execQcfgWrite (fn q : Nat) (v : BitVec 64) (s : State) : Host.Outcome State Fault Refusal :=
  let hq := nth HostQueue.initial s.q.host q
  if 64 ≤ q ∨ fn ≠ 0 then .next s
  else if bitOf hq.cfg 16 then
    if bitOf v 16 then .next s else .next (s.onQueue q fun x => { x with cfg := x.cfg &&& ~~~0x10000 })
  else if !(bitOf v 16) then .next (s.onQueue q fun x => { x with cfg := v &&& 0x3F01070F })
  else if bitsOf v 3 0 < 4 then .next s
  else
    let s := s.onQueue q fun x => { x with cfg := v &&& 0x3F01070F, wait := none, shown := bitsOf v 29 24 }
    .next (if s.fab.hostUp then { s with q := { s.q with held := false } } else s)

/-! ### Fabric and management registers (R400, R409, R420, R425) -/

/-- FABCFG_WRITE (R400): Writes fabric configuration while not joined; a value with GSHARE above 64 is ignored. -/
def execFabcfgWrite (v : BitVec 64) (s : State) : Host.Outcome State Fault Refusal :=
  if s.fab.joined ∨ 64 < bitsOf v 39 32 then .next s
  else .next { s with fab := { s.fab with cfg := v &&& 0xFF1FFFFFFF } }

/-- MCDATA_WRITE (R409): Stores a multicast group entry at MCIDX. -/
def execMcdataWrite (v : BitVec 64) (s : State) : Host.Outcome State Fault Refusal :=
  let i := bitsOf s.fab.mcidx 16 0
  let e := v &&& 0x101FFFFFF
  let rest := s.fab.groups.filter fun (p : Nat × Word) => p.1 != i
  .next { s with fab := { s.fab with groups := if e = 0 then rest else (i, e) :: rest } }

/-- ERRCFG_WRITE (R420): Sets the error ring size, ignoring invalid values. -/
def execErrcfgWrite (v : BitVec 64) (s : State) : Host.Outcome State Fault Refusal :=
  if bitsOf v 4 0 < 6 ∨ 20 < bitsOf v 4 0 then .next s
  else .next { s with mg := { s.mg with errcfg := v &&& 0x1F } }

/-- The bits of a number that a W1C write leaves (R6). -/
def clearBits (w old v : Nat) : Nat := (BitVec.ofNat w old &&& ~~~(BitVec.ofNat w v)).toNat

/-- ERRLOST_CLEAR (R420): Writing 1 clears a bit of the count of dropped error records. -/
def execErrlostClear (v : BitVec 64) (s : State) : Host.Outcome State Fault Refusal :=
  .next { s with mg := { s.mg with errlost := clearBits 32 s.mg.errlost v.toNat } }

/-- MSTAT_REASON_CLEAR (R425): Clears replacement-request reason bits. -/
def execMstatReasonClear (v : BitVec 64) (s : State) : Host.Outcome State Fault Refusal :=
  .next { s with mg := { s.mg with reason := clearBits 8 s.mg.reason (bitsOf v 23 16) } }

/-- A multicast window's words, unlisted windows being 0 (R410). -/
def Fn.window (f : Fn) (w : Nat) : Word × Word := nth (0, 0) f.mcwin w

/-- A function's block with a multicast window changed. -/
def Fn.setWindow (f : Fn) (w : Nat) (v : Word × Word) : Fn :=
  { f with mcwin := setNth (0, 0) f.mcwin w v }

/-- MSTAT (R425). -/
def MgmtState.mstat (m : MgmtState) : Nat :=
  (if m.ready then 1 else 0) + (if m.reason ≠ 0 then 2 else 0) + (if m.quiesced then 4 else 0) + (if m.fatal then 8 else 0) +
    m.reason % 256 * 2 ^ 16

/-- A write to a register of a function's own blocks (R249, R410). -/
def State.writeFnReg (s : State) (fn off : Nat) (v : Word) : State :=
  if off = 0x4000 then s.onFn fn fun f => { f with troot := v &&& ~~~0x7FFE }
  else if off = 0x4008 then s.onFn fn fun f => { f with fqbase := v &&& ~~~0xFFF }
  else if off = 0x4030 then s.onFn fn fun f => { f with tinvva := v &&& 0x01FFFFFFFFFF0000 }
  else if 0x4100 ≤ off ∧ off < 0x4200 ∧ off % 8 = 0 then
    let w := (off - 0x4100) / 16
    if off % 16 = 0 then s.onFn fn fun f => f.setWindow w (v &&& 0x01FFFFFFFFFF0001, (f.window w).2)
    else s.onFn fn fun f => f.setWindow w ((f.window w).1, v &&& 0x03FFFFFFFFFFFFFF)
  else s

/-- A write to a register that only the physical function has (R108, R402, R409, R420). -/
def State.writePfReg (s : State) (off : Nat) (v : Word) : State :=
  if off = 0x8018 then { s with fab := { s.fab with expbase := v &&& ~~~0xFFFF } }
  else if off = 0x8020 then { s with fab := { s.fab with mcidx := v &&& 0x1FFFF } }
  else if off = 0xC000 then { s with mg := { s.mg with errbase := v &&& ~~~0xFFF } }
  else if off = 0xC018 then { s with mg := { s.mg with errhead := bitsOf v 31 0 } }
  else if 0x100000 ≤ off ∧ off < 0x101000 ∧ off % 64 = 0 then
    s.onQueue ((off - 0x100000) / 64) fun q => { q with base := v &&& ~~~0xFF }
  else s

/-- REGISTER_WRITE (R6): A host write to a register with no behaviour of its own; reserved bits and read-only registers ignore
it. A virtual function has its translation block and its multicast windows (R416). -/
def execRegisterWrite (fn off : Nat) (v : BitVec 64) (s : State) : Host.Outcome State Fault Refusal :=
  if 64 ≤ fn then .next s
  else
    let s := s.writeFnReg fn off v
    .next (if fn = 0 then s.writePfReg off v else s)

/-! ### Reads of BAR0 (R6, R109, R249, R400, R409, R410, R420, R425) -/

/-- A queue's register as the physical function reads it, or a virtual function in whose BAR0 the block appears: there QBASE reads
zero (R108, R109). -/
def HostQueue.read (q : HostQueue) (fn off : Nat) : Word :=
  match off with
  | 0x00 => if fn = 0 then q.base else 0
  | 0x08 => q.cfg
  | 0x10 => BitVec.ofNat 64 (q.head % 2 ^ 32)
  | 0x18 => BitVec.ofNat 64 (q.tail % 2 ^ 32)
  | _ => 0

/-- A register of a function's translation block; FRESP and TINVCMD are write-only (R249). -/
def Fn.read (f : Fn) (off : Nat) : Word :=
  match off with
  | 0x00 => f.troot
  | 0x08 => f.fqbase
  | 0x10 => f.fqcfg
  | 0x18 => BitVec.ofNat 64 (f.fqtail % 2 ^ 32)
  | 0x20 => BitVec.ofNat 64 (f.fqhead % 2 ^ 32)
  | 0x30 => f.tinvva
  | 0x40 => BitVec.ofNat 64 (f.tinvdone % 2 ^ 32)
  | _ => 0

/-- A register of the fabric block (R400, R402, R409). -/
def State.readFabric (s : State) (off : Nat) : Word :=
  if 0x40 ≤ off ∧ off < 0x1C0 ∧ off % 8 = 0 then BitVec.ofNat 64 (s.port ((off - 0x40) / 8)).stat
  else
    match off with
    | 0x00 => BitVec.ofNat 64 (s.fab.id + s.fab.inc * 2 ^ 12 + if s.fab.joined then 2 ^ 20 else 0)
    | 0x08 => s.fab.cfg
    | 0x10 => BitVec.ofNat 64 (Nat.min 65535 (Nat.max (s.flowgapOf 0) (s.flowgapOf 1)))
    | 0x18 => s.fab.expbase
    | 0x20 => s.fab.mcidx
    | 0x28 => lookupD 0 s.fab.groups (bitsOf s.fab.mcidx 16 0)
    | _ => 0

/-- A register of the management block (R420, R425). -/
def MgmtState.read (m : MgmtState) (off : Nat) : Word :=
  match off with
  | 0x00 => m.errbase
  | 0x08 => m.errcfg
  | 0x10 => BitVec.ofNat 64 (m.errtail % 2 ^ 32)
  | 0x18 => BitVec.ofNat 64 (m.errhead % 2 ^ 32)
  | 0x20 => BitVec.ofNat 64 (m.errlost % 2 ^ 32)
  | 0x28 => BitVec.ofNat 64 m.mstat
  | _ => 0

/-- What a read of BAR0 of a function returns: the physical function has every block; a virtual one its translation block, its
multicast windows and the blocks of its queues, and reads zero elsewhere, as do write-only and reserved registers (R6, R416). -/
def State.readReg (s : State) (fn off : Nat) : Word :=
  let f := s.fn fn
  if 0x4000 ≤ off ∧ off < 0x4100 then f.read (off - 0x4000)
  else if 0x4100 ≤ off ∧ off < 0x4200 ∧ off % 8 = 0 then
    let w := f.window ((off - 0x4100) / 16)
    if off % 16 = 0 then w.1 else w.2
  else if 0x100000 ≤ off ∧ off < 0x101000 then
    let q := nth HostQueue.initial s.q.host ((off - 0x100000) / 64)
    if q.writer fn then q.read fn (off % 64) else 0
  else if fn ≠ 0 then 0
  else if 0x8000 ≤ off ∧ off < 0x8200 then s.readFabric (off - 0x8000)
  else if 0xC000 ≤ off ∧ off < 0xC030 then s.mg.read (off - 0xC000)
  else 0

/-- A host's read of BAR0 answered; it changes nothing else (R6). -/
def State.answerRead (s : State) (fn off : Nat) : State :=
  if 64 ≤ fn then s else { s with outbox := s.outbox ++ [.bar0 fn off (s.readReg fn off)] }

end Sys2Proof.Machine
end

