-- ==== Sys2Proof/Machine/Int.lean ====
section
/-! DEFINITION. INT, INTI, INTX, SHIFT, SHIFTI, MUL and LEA (R163 to R167). -/

namespace Sys2Proof.Machine

/-- A fixed-latency word of SA and SB (KSRC may replace them). -/
def abWord (h : Hdr) (d a b : BitVec 6) (op : Word → Word → Word) : State → Host.Outcome State Fault Refusal :=
  fixedWord h d (fun f => f.srcsAB a b) (fun s f => op (s.srcA f a) (s.srcB f b))

/-- A fixed-latency word of SA and imm6, widened by LIT and LITH (R49). -/
def aiWord (h : Hdr) (d a i : BitVec 6) (op : Word → Word → Word) : State → Host.Outcome State Fault Refusal :=
  fixedWord h d (fun _ => [⟨2, a, .src⟩]) (fun _ f => op (f.src a) (f.widen 6 i.toNat))

/-- A fixed-latency word of SA alone. -/
def unWord (h : Hdr) (d a : BitVec 6) (op : Word → Word) : State → Host.Outcome State Fault Refusal :=
  fixedWord h d (fun _ => [⟨2, a, .src⟩]) (fun _ f => op (f.src a))

/-- A fixed-latency shift of SA by imm6; a 32-bit form with imm6[5] = 1 raises ILLEGAL_OPERAND, FIELD 3 (R165). -/
def shiWord (h : Hdr) (d a i : BitVec 6) (w : Bool) (op : Word → Nat → Word) :
    State → Host.Outcome State Fault Refusal :=
  runWord h.e h.pg h.pn true fun s f =>
    withOpds [⟨1, d, .dst⟩, ⟨2, a, .src⟩] (if w && decide (32 ≤ i.toNat) then [3] else [])
      (fun s f => .next s (f.writeFixed d (op (f.src a) i.toNat))) s f

/-- A long-latency word of SA and SB (R59): its result and flags wait in the memory of results (R133, R144). -/
def longWord (h : Hdr) (d a b : BitVec 6) (op : Word → Word → Word × Word) :
    State → Host.Outcome State Fault Refusal :=
  runWord h.e h.pg h.pn false fun s f =>
    withOpds (⟨1, d, .long⟩ :: f.srcsAB a b) f.ksrcBad (fun s f =>
      let r := op (s.srcA f a) (s.srcB f b)
      .next (s.addResult f d.toNat r.1 r.2) (f.await d.toNat s.uid)) s f

/-! ### Integer functions (R163 to R167) -/

/-- The smaller, as signed. -/
def sminW (x y : Word) : Word := if x.toInt ≤ y.toInt then x else y
/-- The larger, as signed. -/
def smaxW (x y : Word) : Word := if x.toInt ≤ y.toInt then y else x
/-- The smaller, as unsigned. -/
def uminW (x y : Word) : Word := if x.toNat ≤ y.toNat then x else y
/-- The larger, as unsigned. -/
def umaxW (x y : Word) : Word := if x.toNat ≤ y.toNat then y else x
/-- The low 32 bits sign-extended. -/
def sext32 (x : Word) : Word := (x.setWidth 32).signExtend 64
/-- ABSD: the exact distance of two signed values. -/
def absdW (x y : Word) : Word := BitVec.ofNat 64 (x.toInt - y.toInt).natAbs
/-- Leading zero bits among the low `n` of a number. -/
def leadingZeros : Nat → Nat → Nat
  | 0, _ => 0
  | n + 1, v => if 2 ^ n ≤ v then 0 else 1 + leadingZeros n v
/-- Trailing zero bits, `n` at most. -/
def trailingZeros : Nat → Nat → Nat
  | 0, _ => 0
  | n + 1, v => if v % 2 = 1 then 0 else 1 + trailingZeros n (v / 2)
/-- One bits among the low `n`. -/
def countOnes : Nat → Nat → Nat
  | 0, _ => 0
  | n + 1, v => v % 2 + countOnes n (v / 2)
/-- The low `n` bits in reverse order. -/
def reverseBits : Nat → Nat → Nat
  | 0, _ => 0
  | n + 1, v => v % 2 * 2 ^ n + reverseBits n (v / 2)
/-- CLZ. -/
def clzW (x : Word) : Word := BitVec.ofNat 64 (leadingZeros 64 x.toNat)
/-- CTZ. -/
def ctzW (x : Word) : Word := BitVec.ofNat 64 (trailingZeros 64 x.toNat)
/-- POPC. -/
def popcW (x : Word) : Word := BitVec.ofNat 64 (countOnes 64 x.toNat)
/-- BREV. -/
def brevW (x : Word) : Word := BitVec.ofNat 64 (reverseBits 64 x.toNat)
/-- SHL by an amount of which bits [5:0] count. -/
def shlW (x : Word) (n : Nat) : Word := x <<< (n % 64)
/-- SHR. -/
def shrW (x : Word) (n : Nat) : Word := x >>> (n % 64)
/-- SAR. -/
def sarW (x : Word) (n : Nat) : Word := x.sshiftRight (n % 64)
/-- ROL. -/
def rolW (x : Word) (n : Nat) : Word := x.rotateLeft (n % 64)
/-- SHLW, by bits [4:0]. -/
def shlwW (x : Word) (n : Nat) : Word := ((x.setWidth 32) <<< (n % 32)).signExtend 64
/-- SHRW. -/
def shrwW (x : Word) (n : Nat) : Word := ((x.setWidth 32) >>> (n % 32)).signExtend 64
/-- SARW. -/
def sarwW (x : Word) (n : Nat) : Word := ((x.setWidth 32).sshiftRight (n % 32)).signExtend 64
/-- MULH. -/
def mulhW (x y : Word) : Word := BitVec.ofInt 64 (x.toInt * y.toInt / 2 ^ 64)
/-- MULHU. -/
def mulhuW (x y : Word) : Word := BitVec.ofNat 64 (x.toNat * y.toNat / 2 ^ 64)
/-- DIV with the flags it sets. -/
def divW (x y : Word) : Word × Word :=
  if y = 0 then (BitVec.allOnes 64, fstDZ) else (BitVec.ofInt 64 (x.toInt.tdiv y.toInt), 0)
/-- DIVU with its flags. -/
def divuW (x y : Word) : Word × Word := if y = 0 then (BitVec.allOnes 64, fstDZ) else (x / y, 0)
/-- REM with its flags. -/
def remW (x y : Word) : Word × Word :=
  if y = 0 then (x, fstDZ) else (BitVec.ofInt 64 (x.toInt.tmod y.toInt), 0)
/-- REMU with its flags. -/
def remuW (x y : Word) : Word × Word := if y = 0 then (x, fstDZ) else (x % y, 0)

/-- ADD (R163): Adds two registers modulo 2^64. -/
def execAdd (h : Hdr) (d : BitVec 6) (a : BitVec 6) (b : BitVec 6) (s : State) :
    Host.Outcome State Fault Refusal :=
  abWord h d a b (· + ·) s

/-- INTI_ADD (R163): Adds a sign-extended immediate. -/
def execIntiAdd (h : Hdr) (d : BitVec 6) (a : BitVec 6) (i : BitVec 6) (s : State) :
    Host.Outcome State Fault Refusal :=
  aiWord h d a i (· + ·) s

/-- SUB (R163): Subtracts SB from SA modulo 2^64. -/
def execSub (h : Hdr) (d : BitVec 6) (a : BitVec 6) (b : BitVec 6) (s : State) :
    Host.Outcome State Fault Refusal :=
  abWord h d a b (· - ·) s

/-- INTI_SUB (R163): Subtracts a sign-extended immediate. -/
def execIntiSub (h : Hdr) (d : BitVec 6) (a : BitVec 6) (i : BitVec 6) (s : State) :
    Host.Outcome State Fault Refusal :=
  aiWord h d a i (· - ·) s

/-- AND (R163): Bitwise AND of two registers. -/
def execAnd (h : Hdr) (d : BitVec 6) (a : BitVec 6) (b : BitVec 6) (s : State) :
    Host.Outcome State Fault Refusal :=
  abWord h d a b (· &&& ·) s

/-- INTI_AND (R163): AND with a sign-extended immediate. -/
def execIntiAnd (h : Hdr) (d : BitVec 6) (a : BitVec 6) (i : BitVec 6) (s : State) :
    Host.Outcome State Fault Refusal :=
  aiWord h d a i (· &&& ·) s

/-- OR (R163): Bitwise OR of two registers. -/
def execOr (h : Hdr) (d : BitVec 6) (a : BitVec 6) (b : BitVec 6) (s : State) :
    Host.Outcome State Fault Refusal :=
  abWord h d a b (· ||| ·) s

/-- INTI_OR (R163): OR with a sign-extended immediate. -/
def execIntiOr (h : Hdr) (d : BitVec 6) (a : BitVec 6) (i : BitVec 6) (s : State) :
    Host.Outcome State Fault Refusal :=
  aiWord h d a i (· ||| ·) s

/-- XOR (R163): Bitwise XOR of two registers. -/
def execXor (h : Hdr) (d : BitVec 6) (a : BitVec 6) (b : BitVec 6) (s : State) :
    Host.Outcome State Fault Refusal :=
  abWord h d a b (· ^^^ ·) s

/-- INTI_XOR (R163): XOR with a sign-extended immediate. -/
def execIntiXor (h : Hdr) (d : BitVec 6) (a : BitVec 6) (i : BitVec 6) (s : State) :
    Host.Outcome State Fault Refusal :=
  aiWord h d a i (· ^^^ ·) s

/-- ANDN (R163): SA AND NOT SB. -/
def execAndn (h : Hdr) (d : BitVec 6) (a : BitVec 6) (b : BitVec 6) (s : State) :
    Host.Outcome State Fault Refusal :=
  abWord h d a b (fun x y => x &&& ~~~y) s

/-- INTI_ANDN (R163): AND NOT a sign-extended immediate. -/
def execIntiAndn (h : Hdr) (d : BitVec 6) (a : BitVec 6) (i : BitVec 6) (s : State) :
    Host.Outcome State Fault Refusal :=
  aiWord h d a i (fun x y => x &&& ~~~y) s

/-- MIN (R163): Signed minimum of two registers. -/
def execMin (h : Hdr) (d : BitVec 6) (a : BitVec 6) (b : BitVec 6) (s : State) :
    Host.Outcome State Fault Refusal :=
  abWord h d a b sminW s

/-- INTI_MIN (R163): Signed minimum with an immediate. -/
def execIntiMin (h : Hdr) (d : BitVec 6) (a : BitVec 6) (i : BitVec 6) (s : State) :
    Host.Outcome State Fault Refusal :=
  aiWord h d a i sminW s

/-- MAX (R163): Signed maximum of two registers. -/
def execMax (h : Hdr) (d : BitVec 6) (a : BitVec 6) (b : BitVec 6) (s : State) :
    Host.Outcome State Fault Refusal :=
  abWord h d a b smaxW s

/-- INTI_MAX (R163): Signed maximum with an immediate. -/
def execIntiMax (h : Hdr) (d : BitVec 6) (a : BitVec 6) (i : BitVec 6) (s : State) :
    Host.Outcome State Fault Refusal :=
  aiWord h d a i smaxW s

/-- MINU (R164): Unsigned minimum. -/
def execMinu (h : Hdr) (d : BitVec 6) (a : BitVec 6) (b : BitVec 6) (s : State) :
    Host.Outcome State Fault Refusal :=
  abWord h d a b uminW s

/-- MAXU (R164): Unsigned maximum. -/
def execMaxu (h : Hdr) (d : BitVec 6) (a : BitVec 6) (b : BitVec 6) (s : State) :
    Host.Outcome State Fault Refusal :=
  abWord h d a b umaxW s

/-- ADDW (R164): 32-bit add, sign-extended. -/
def execAddw (h : Hdr) (d : BitVec 6) (a : BitVec 6) (b : BitVec 6) (s : State) :
    Host.Outcome State Fault Refusal :=
  abWord h d a b (fun x y => sext32 (x + y)) s

/-- SUBW (R164): 32-bit subtract, sign-extended. -/
def execSubw (h : Hdr) (d : BitVec 6) (a : BitVec 6) (b : BitVec 6) (s : State) :
    Host.Outcome State Fault Refusal :=
  abWord h d a b (fun x y => sext32 (x - y)) s

/-- ABSD (R164): Exact absolute difference of signed values, unsigned result. -/
def execAbsd (h : Hdr) (d : BitVec 6) (a : BitVec 6) (b : BitVec 6) (s : State) :
    Host.Outcome State Fault Refusal :=
  abWord h d a b absdW s

/-- CLZ (R164): Counts leading zero bits. -/
def execClz (h : Hdr) (d : BitVec 6) (a : BitVec 6) (s : State) :
    Host.Outcome State Fault Refusal :=
  unWord h d a clzW s

/-- CTZ (R164): Counts trailing zero bits. -/
def execCtz (h : Hdr) (d : BitVec 6) (a : BitVec 6) (s : State) :
    Host.Outcome State Fault Refusal :=
  unWord h d a ctzW s

/-- POPC (R164): Counts one bits. -/
def execPopc (h : Hdr) (d : BitVec 6) (a : BitVec 6) (s : State) :
    Host.Outcome State Fault Refusal :=
  unWord h d a popcW s

/-- BREV (R165): Reverses the 64 bits. -/
def execBrev (h : Hdr) (d : BitVec 6) (a : BitVec 6) (s : State) :
    Host.Outcome State Fault Refusal :=
  unWord h d a brevW s

/-- SHL (R165): Shifts left by a register amount. -/
def execShl (h : Hdr) (d : BitVec 6) (a : BitVec 6) (b : BitVec 6) (s : State) :
    Host.Outcome State Fault Refusal :=
  abWord h d a b (fun x y => shlW x y.toNat) s

/-- SHIFTI_SHL (R165): Shifts left by an immediate amount. -/
def execShiftiShl (h : Hdr) (d : BitVec 6) (a : BitVec 6) (i : BitVec 6) (s : State) :
    Host.Outcome State Fault Refusal :=
  shiWord h d a i false shlW s

/-- SHR (R165): Logical right shift by a register amount. -/
def execShr (h : Hdr) (d : BitVec 6) (a : BitVec 6) (b : BitVec 6) (s : State) :
    Host.Outcome State Fault Refusal :=
  abWord h d a b (fun x y => shrW x y.toNat) s

/-- SHIFTI_SHR (R165): Logical right shift by an immediate. -/
def execShiftiShr (h : Hdr) (d : BitVec 6) (a : BitVec 6) (i : BitVec 6) (s : State) :
    Host.Outcome State Fault Refusal :=
  shiWord h d a i false shrW s

/-- SAR (R165): Arithmetic right shift by a register amount. -/
def execSar (h : Hdr) (d : BitVec 6) (a : BitVec 6) (b : BitVec 6) (s : State) :
    Host.Outcome State Fault Refusal :=
  abWord h d a b (fun x y => sarW x y.toNat) s

/-- SHIFTI_SAR (R165): Arithmetic right shift by an immediate. -/
def execShiftiSar (h : Hdr) (d : BitVec 6) (a : BitVec 6) (i : BitVec 6) (s : State) :
    Host.Outcome State Fault Refusal :=
  shiWord h d a i false sarW s

/-- ROL (R165): Rotates left by a register amount. -/
def execRol (h : Hdr) (d : BitVec 6) (a : BitVec 6) (b : BitVec 6) (s : State) :
    Host.Outcome State Fault Refusal :=
  abWord h d a b (fun x y => rolW x y.toNat) s

/-- SHIFTI_ROL (R165): Rotates left by an immediate. -/
def execShiftiRol (h : Hdr) (d : BitVec 6) (a : BitVec 6) (i : BitVec 6) (s : State) :
    Host.Outcome State Fault Refusal :=
  shiWord h d a i false rolW s

/-- SHLW (R165): 32-bit left shift, sign-extended. -/
def execShlw (h : Hdr) (d : BitVec 6) (a : BitVec 6) (b : BitVec 6) (s : State) :
    Host.Outcome State Fault Refusal :=
  abWord h d a b (fun x y => shlwW x y.toNat) s

/-- SHIFTI_SHLW (R165): 32-bit left shift by an immediate. -/
def execShiftiShlw (h : Hdr) (d : BitVec 6) (a : BitVec 6) (i : BitVec 6) (s : State) :
    Host.Outcome State Fault Refusal :=
  shiWord h d a i true shlwW s

/-- SHRW (R165): 32-bit logical right shift, sign-extended. -/
def execShrw (h : Hdr) (d : BitVec 6) (a : BitVec 6) (b : BitVec 6) (s : State) :
    Host.Outcome State Fault Refusal :=
  abWord h d a b (fun x y => shrwW x y.toNat) s

/-- SHIFTI_SHRW (R165): 32-bit logical right shift by an immediate. -/
def execShiftiShrw (h : Hdr) (d : BitVec 6) (a : BitVec 6) (i : BitVec 6) (s : State) :
    Host.Outcome State Fault Refusal :=
  shiWord h d a i true shrwW s

/-- SARW (R165): 32-bit arithmetic right shift, sign-extended. -/
def execSarw (h : Hdr) (d : BitVec 6) (a : BitVec 6) (b : BitVec 6) (s : State) :
    Host.Outcome State Fault Refusal :=
  abWord h d a b (fun x y => sarwW x y.toNat) s

/-- SHIFTI_SARW (R165): 32-bit arithmetic right shift by an immediate. -/
def execShiftiSarw (h : Hdr) (d : BitVec 6) (a : BitVec 6) (i : BitVec 6) (s : State) :
    Host.Outcome State Fault Refusal :=
  shiWord h d a i true sarwW s

/-- MUL (R166): Low 64 bits of the product. -/
def execMul (h : Hdr) (d : BitVec 6) (a : BitVec 6) (b : BitVec 6) (s : State) :
    Host.Outcome State Fault Refusal :=
  abWord h d a b (· * ·) s

/-- MULH (R166): High 64 bits of the signed product. -/
def execMulh (h : Hdr) (d : BitVec 6) (a : BitVec 6) (b : BitVec 6) (s : State) :
    Host.Outcome State Fault Refusal :=
  abWord h d a b mulhW s

/-- MULHU (R166): High 64 bits of the unsigned product. -/
def execMulhu (h : Hdr) (d : BitVec 6) (a : BitVec 6) (b : BitVec 6) (s : State) :
    Host.Outcome State Fault Refusal :=
  abWord h d a b mulhuW s

/-- MULW (R166): 32-bit product, sign-extended. -/
def execMulw (h : Hdr) (d : BitVec 6) (a : BitVec 6) (b : BitVec 6) (s : State) :
    Host.Outcome State Fault Refusal :=
  abWord h d a b (fun x y => sext32 (x * y)) s

/-- DIV (R166): Signed division with divide-by-zero flag. -/
def execDiv (h : Hdr) (d : BitVec 6) (a : BitVec 6) (b : BitVec 6) (s : State) :
    Host.Outcome State Fault Refusal :=
  longWord h d a b divW s

/-- DIVU (R166): Unsigned division. -/
def execDivu (h : Hdr) (d : BitVec 6) (a : BitVec 6) (b : BitVec 6) (s : State) :
    Host.Outcome State Fault Refusal :=
  longWord h d a b divuW s

/-- REM (R166): Signed remainder. -/
def execRem (h : Hdr) (d : BitVec 6) (a : BitVec 6) (b : BitVec 6) (s : State) :
    Host.Outcome State Fault Refusal :=
  longWord h d a b remW s

/-- REMU (R166): Unsigned remainder. -/
def execRemu (h : Hdr) (d : BitVec 6) (a : BitVec 6) (b : BitVec 6) (s : State) :
    Host.Outcome State Fault Refusal :=
  longWord h d a b remuW s

/-- LEA0 (R167): d := a + b. -/
def execLea0 (h : Hdr) (d : BitVec 6) (a : BitVec 6) (b : BitVec 6) (s : State) :
    Host.Outcome State Fault Refusal :=
  abWord h d a b (fun x y => x + y <<< 0) s

/-- LEA1 (R167): d := a + (b << 1). -/
def execLea1 (h : Hdr) (d : BitVec 6) (a : BitVec 6) (b : BitVec 6) (s : State) :
    Host.Outcome State Fault Refusal :=
  abWord h d a b (fun x y => x + y <<< 1) s

/-- LEA2 (R167): d := a + (b << 2). -/
def execLea2 (h : Hdr) (d : BitVec 6) (a : BitVec 6) (b : BitVec 6) (s : State) :
    Host.Outcome State Fault Refusal :=
  abWord h d a b (fun x y => x + y <<< 2) s

/-- LEA3 (R167): d := a + (b << 3). -/
def execLea3 (h : Hdr) (d : BitVec 6) (a : BitVec 6) (b : BitVec 6) (s : State) :
    Host.Outcome State Fault Refusal :=
  abWord h d a b (fun x y => x + y <<< 3) s

end Sys2Proof.Machine
end

