-- ==== Sys2Proof/Machine/LoadStore.lean ====
section
/-! DEFINITION. Loads and stores: LD, LDL, ST and STL (R257, R258). -/

namespace Sys2Proof.Machine

/-- The operands of an M-format load: D, or the group of D and D+1 for LDQ, and SA. -/
def loadOpds (d a : BitVec 6) (size : Nat) : List Opd :=
  [⟨1, d, if size = 16 then .longGroup 2 else .long⟩, ⟨2, a, .src⟩]

/-- The operands of an M-format store: D as a source, a group for STQ, and SA. -/
def storeOpds (d a : BitVec 6) (size : Nat) : List Opd :=
  [⟨1, d, if size = 16 then .srcGroup 2 else .src⟩, ⟨2, a, .src⟩]

/-- LD (R257). -/
def ldWord (size : Nat) (signed : Bool) (h : Hdr) (d a o : BitVec 6) : State → Host.Outcome State Fault Refusal :=
  runWord h.e h.pg h.pn false fun s f =>
    withOpds (loadOpds d a size) f.memoBad
      (fun s f => loadWord ⟨size, signed⟩ d.toNat f.memoAcq (f.eaM a o size) s f) s f

/-- LDL (R257). -/
def ldlWord (size : Nat) (signed : Bool) (h : Hdr) (d a o : BitVec 6) : State → Host.Outcome State Fault Refusal :=
  runWord h.e h.pg h.pn false fun s f =>
    withOpds (loadOpds d a size) []
      (fun s f => loadSpadWord ⟨size, signed⟩ d.toNat (f.eaM a o size) s f) s f

/-- ST (R258); its scope is TEAM without MEMO (R79). -/
def stWord (size : Nat) (h : Hdr) (d a o : BitVec 6) : State → Host.Outcome State Fault Refusal :=
  runWord h.e h.pg h.pn false fun s f =>
    withOpds (storeOpds d a size) f.memoBad
      (fun s f => storeWord (storeBytes size (f.src d) (f.readG (d.toNat + 1))) (f.memoScope 0) f.memoPolicy f.memoRel
        (f.eaM a o size) s f) s f

/-- STL (R258). -/
def stlWord (size : Nat) (h : Hdr) (d a o : BitVec 6) : State → Host.Outcome State Fault Refusal :=
  runWord h.e h.pg h.pn false fun s f =>
    withOpds (storeOpds d a size) []
      (fun s f => storeSpadWord (storeBytes size (f.src d) (f.readG (d.toNat + 1))) (f.eaM a o size) s f) s f

/-- LDB (R257): Loads a sign-extended byte from global memory. -/
def execLdb (h : Hdr) (d : BitVec 6) (a : BitVec 6) (o : BitVec 6) (s : State) :
    Host.Outcome State Fault Refusal :=
  ldWord 1 true h d a o s

/-- LDBZ (R257): Loads a zero-extended byte. -/
def execLdbz (h : Hdr) (d : BitVec 6) (a : BitVec 6) (o : BitVec 6) (s : State) :
    Host.Outcome State Fault Refusal :=
  ldWord 1 false h d a o s

/-- LDH (R257): Loads a sign-extended half. -/
def execLdh (h : Hdr) (d : BitVec 6) (a : BitVec 6) (o : BitVec 6) (s : State) :
    Host.Outcome State Fault Refusal :=
  ldWord 2 true h d a o s

/-- LDHZ (R257): Loads a zero-extended half. -/
def execLdhz (h : Hdr) (d : BitVec 6) (a : BitVec 6) (o : BitVec 6) (s : State) :
    Host.Outcome State Fault Refusal :=
  ldWord 2 false h d a o s

/-- LDW (R257): Loads a sign-extended word. -/
def execLdw (h : Hdr) (d : BitVec 6) (a : BitVec 6) (o : BitVec 6) (s : State) :
    Host.Outcome State Fault Refusal :=
  ldWord 4 true h d a o s

/-- LDWZ (R257): Loads a zero-extended word. -/
def execLdwz (h : Hdr) (d : BitVec 6) (a : BitVec 6) (o : BitVec 6) (s : State) :
    Host.Outcome State Fault Refusal :=
  ldWord 4 false h d a o s

/-- LDD (R257): Loads 8 bytes. -/
def execLdd (h : Hdr) (d : BitVec 6) (a : BitVec 6) (o : BitVec 6) (s : State) :
    Host.Outcome State Fault Refusal :=
  ldWord 8 false h d a o s

/-- LDQ (R257): Loads 16 bytes into D and D+1. -/
def execLdq (h : Hdr) (d : BitVec 6) (a : BitVec 6) (o : BitVec 6) (s : State) :
    Host.Outcome State Fault Refusal :=
  ldWord 16 false h d a o s

/-- LDB_L (R257): Loads a sign-extended byte from scratchpad. -/
def execLdbL (h : Hdr) (d : BitVec 6) (a : BitVec 6) (o : BitVec 6) (s : State) :
    Host.Outcome State Fault Refusal :=
  ldlWord 1 true h d a o s

/-- LDBZ_L (R257): Loads a zero-extended byte from scratchpad. -/
def execLdbzL (h : Hdr) (d : BitVec 6) (a : BitVec 6) (o : BitVec 6) (s : State) :
    Host.Outcome State Fault Refusal :=
  ldlWord 1 false h d a o s

/-- LDH_L (R257): Loads a sign-extended half from scratchpad. -/
def execLdhL (h : Hdr) (d : BitVec 6) (a : BitVec 6) (o : BitVec 6) (s : State) :
    Host.Outcome State Fault Refusal :=
  ldlWord 2 true h d a o s

/-- LDHZ_L (R257): Loads a zero-extended half from scratchpad. -/
def execLdhzL (h : Hdr) (d : BitVec 6) (a : BitVec 6) (o : BitVec 6) (s : State) :
    Host.Outcome State Fault Refusal :=
  ldlWord 2 false h d a o s

/-- LDW_L (R257): Loads a sign-extended word from scratchpad. -/
def execLdwL (h : Hdr) (d : BitVec 6) (a : BitVec 6) (o : BitVec 6) (s : State) :
    Host.Outcome State Fault Refusal :=
  ldlWord 4 true h d a o s

/-- LDWZ_L (R257): Loads a zero-extended word from scratchpad. -/
def execLdwzL (h : Hdr) (d : BitVec 6) (a : BitVec 6) (o : BitVec 6) (s : State) :
    Host.Outcome State Fault Refusal :=
  ldlWord 4 false h d a o s

/-- LDD_L (R257): Loads 8 bytes from scratchpad. -/
def execLddL (h : Hdr) (d : BitVec 6) (a : BitVec 6) (o : BitVec 6) (s : State) :
    Host.Outcome State Fault Refusal :=
  ldlWord 8 false h d a o s

/-- LDQ_L (R257): Loads 16 bytes from scratchpad. -/
def execLdqL (h : Hdr) (d : BitVec 6) (a : BitVec 6) (o : BitVec 6) (s : State) :
    Host.Outcome State Fault Refusal :=
  ldlWord 16 false h d a o s

/-- STB (R258): Stores a byte to global memory, buffered. -/
def execStb (h : Hdr) (d : BitVec 6) (a : BitVec 6) (o : BitVec 6) (s : State) :
    Host.Outcome State Fault Refusal :=
  stWord 1 h d a o s

/-- STH (R258): Stores a half. -/
def execSth (h : Hdr) (d : BitVec 6) (a : BitVec 6) (o : BitVec 6) (s : State) :
    Host.Outcome State Fault Refusal :=
  stWord 2 h d a o s

/-- STW (R258): Stores a word. -/
def execStw (h : Hdr) (d : BitVec 6) (a : BitVec 6) (o : BitVec 6) (s : State) :
    Host.Outcome State Fault Refusal :=
  stWord 4 h d a o s

/-- STD (R258): Stores 8 bytes. -/
def execStd (h : Hdr) (d : BitVec 6) (a : BitVec 6) (o : BitVec 6) (s : State) :
    Host.Outcome State Fault Refusal :=
  stWord 8 h d a o s

/-- STQ (R258): Stores 16 bytes from D and D+1. -/
def execStq (h : Hdr) (d : BitVec 6) (a : BitVec 6) (o : BitVec 6) (s : State) :
    Host.Outcome State Fault Refusal :=
  stWord 16 h d a o s

/-- STB_L (R258): Stores a byte to scratchpad. -/
def execStbL (h : Hdr) (d : BitVec 6) (a : BitVec 6) (o : BitVec 6) (s : State) :
    Host.Outcome State Fault Refusal :=
  stlWord 1 h d a o s

/-- STH_L (R258): Stores a half to scratchpad. -/
def execSthL (h : Hdr) (d : BitVec 6) (a : BitVec 6) (o : BitVec 6) (s : State) :
    Host.Outcome State Fault Refusal :=
  stlWord 2 h d a o s

/-- STW_L (R258): Stores a word to scratchpad. -/
def execStwL (h : Hdr) (d : BitVec 6) (a : BitVec 6) (o : BitVec 6) (s : State) :
    Host.Outcome State Fault Refusal :=
  stlWord 4 h d a o s

/-- STD_L (R258): Stores 8 bytes to scratchpad. -/
def execStdL (h : Hdr) (d : BitVec 6) (a : BitVec 6) (o : BitVec 6) (s : State) :
    Host.Outcome State Fault Refusal :=
  stlWord 8 h d a o s

/-- STQ_L (R258): Stores 16 bytes to scratchpad. -/
def execStqL (h : Hdr) (d : BitVec 6) (a : BitVec 6) (o : BitVec 6) (s : State) :
    Host.Outcome State Fault Refusal :=
  stlWord 16 h d a o s

end Sys2Proof.Machine
end

