-- ==== Sys2Proof/Machine/Manage.lean ====
section
/-! DEFINITION. Management: the controller's commands, sparing, errors, power and cooling, fatal errors and module reset
(R418 to R431). -/

namespace Sys2Proof.Machine

/-! ### Requests and responses (R418, R425) -/

/-- A response of the controller. -/
def State.respondMctp (s : State) (code status : Nat) (body : List Nat) : State :=
  { s with outbox := s.outbox ++ [.mctp code status body] }

/-- A request served in its turn: behind a QUIESCE or a KEYERASE that has no answer yet it waits. After a fatal error only
GETSTAT, ATTEST and COUNTERS are served, anything else is refused (R419, R426). -/
def State.serveMctp (s : State) (r : Request) (code : Nat) (reads : Bool) (act : State → State) : State :=
  if s.mg.fatal && !reads then s.respondMctp code 3 []
  else if !s.mg.fatal && (s.mg.quiescing || s.mg.erasing.isSome) then { s with mg := { s.mg with waiting := s.mg.waiting ++ [r] } }
  else act s

/-- The requests that waited are served now. -/
def State.serveWaiting (s : State) : State :=
  { s with agenda := s.mg.waiting.map Move.request ++ s.agenda, mg := { s.mg with waiting := [] } }

/-- GETSTAT (R418): Management command returning MSTAT and the reason mask. -/
def execGetstat (s : State) : Host.Outcome State Fault Refusal :=
  .next (s.serveMctp .getstat 1 true fun s => s.respondMctp 1 0 [s.mg.mstat, s.mg.reason])

/-- QUIESCE (R419): Stops queues, saves or aborts launches and answers when no fibre runs. -/
def execQuiesce (s : State) : Host.Outcome State Fault Refusal :=
  .next (s.serveMctp .quiesce 2 false fun s =>
    let s := { s with q := { s.q with stopped := true }, mg := { s.mg with quiescing := true } }
    s.clearDevice)

/-- Whether nothing of any launch runs any more: each is saved, waits or has ended, and accepted commands have settled. -/
def State.quietDevice (s : State) : Bool :=
  (s.launches.all fun l => decide (l.phase ≠ .running) && decide (l.phase ≠ .saving)) &&
  (s.fibres.all fun f => f.saved || decide (f.status = .ended)) &&
  !(s.cmds.any fun c => decide (c.state = .accepted) || decide (c.state = .done))

/-- QUIESCE_COMPLETE (R419): Once no fibre of any launch runs, QUIESCED is set and the QUIESCE response is sent. -/
def execQuiesceComplete (s : State) : Host.Outcome State Fault Refusal :=
  if s.mg.quiescing && s.quietDevice then
    let s := { s with mg := { s.mg with quiescing := false, quiesced := true } }
    .next (s.respondMctp 2 0 []).serveWaiting
  else .next s

/-- RESUME (R418): Queues are read again and saved launches resume; it is refused after a fatal error (R419). -/
def execResume (s : State) : Host.Outcome State Fault Refusal :=
  .next (s.serveMctp .resume 3 false fun s =>
    { s with q := { s.q with stopped := false }, mg := { s.mg with quiesced := false } }.respondMctp 3 0 [])

/-- RETIRE (R424): Marks a named core for retirement. -/
def execRetire (core : Nat) (s : State) : Host.Outcome State Fault Refusal :=
  .next (s.serveMctp (.retire core) 4 false fun s =>
    if 256 ≤ core ∨ s.mg.absent.contains core then s.respondMctp 4 1 [] else (s.markCore core).respondMctp 4 0 [])

/-- PORTEN (R405): Enables a fabric port that is down: it trains anew, its lanes tested again. -/
def execPorten (port : Nat) (s : State) : Host.Outcome State Fault Refusal :=
  .next (s.serveMctp (.porten port) 5 false fun s =>
    if 48 ≤ port ∨ (s.port port).state ≠ 0 then s.respondMctp 5 1 []
    else (s.onPort port fun x => { x with state := 1, failed := 0 }).respondMctp 5 0 [])

/-! ### Keys (R428) -/

/-- KEYSET (R428): Loads a key pair into an empty key slot, in an authenticated session; slot 0 and a loaded slot are refused, and so is
a request outside such a session (log 21). -/
def execKeyset (slot : Nat) (key : KeyLoad) (s : State) : Host.Outcome State Fault Refusal :=
  .next (s.serveMctp (.keyset slot key) 6 false fun s =>
    if 8192 ≤ slot ∨ 2 ^ 512 ≤ key.pair then s.respondMctp 6 1 []
    else if !key.session || s.keyLoaded slot then s.respondMctp 6 3 []
    else { s with mg := { s.mg with keySlots := (slot, key.pair) :: s.mg.keySlots } }.respondMctp 6 0 [])

/-- Every cached line under a key written back, then dropped. -/
def State.dropKeyLines (s : State) (key : Nat) : State :=
  let l2 := s.m.l2.filter fun l => l.key == key
  let s := l2.foldl (fun s l => s.pushDieBytes (64 * l.die) l.line (.evictL2 l.die) [] []) s
  let l1 := s.m.l1.filter fun l => l.key == key
  l1.foldl (fun s l => s.pushTeamBytes l.core .home l.line (.evictL1 l.core) [] []) s

/-- Whether a line is cached under a key, or a write-back of one has not arrived. -/
def State.keyCached (s : State) (key : Nat) : Bool :=
  (s.m.outs.any fun o => decide (o.kind ≠ .store) && o.key == key) ||
  (s.m.l1.any fun l => l.key == key) || (s.m.l2.any fun l => l.key == key)

/-- Whether an access that is already translated still goes on under a key. -/
def State.keyUsed (s : State) (slot : Nat) : Bool :=
  let held := fun (l : Leaf) => l.key == slot
  s.keyCached slot || (s.m.pend.any fun p => p.key == slot) ||
  (s.m.mshrs.any fun e => e.key == slot) || (s.m.outs.any fun o => o.key == slot) || (s.m.atoms.any fun a => a.key == slot) ||
  (s.m.loads.any fun l => l.parts.any fun p => p.got.isNone && p.key == slot) ||
  (s.cmds.any fun c => c.leaves.any fun p => held p.2) ||
  (s.gat.jobs.any fun j => j.parts.any fun p => p.rows.any fun r => ((r.pieces.getD []) ++ r.live.toList).any fun q => held q.leaf) ||
  (s.gat.contribs.any fun x => x.pieces.any fun q => held q.leaf) ||
  (s.mat.queue.any fun e => match e.op with
    | .drain _ _ _ _ _ _ leaves => leaves.any fun p => held p.2
    | _ => false) ||
  (s.fibres.any fun f =>
    (f.region.any fun e => match e with
      | .store _ ps _ _ _ => ps.any fun q => held q.leaf
      | _ => false) ||
    (match f.relHold with
     | some (_, .store (.store _ ps _ _ _)) => ps.any fun q => held q.leaf
     | some (_, .atomic a) => a.key == slot
     | _ => false))

/-- A slot emptied: accesses that begin translation find it empty (R428). -/
def State.emptySlot (s : State) (slot key : Nat) : State :=
  { s with x := { s.x with tlb := s.x.tlb.filter fun t => t.leaf.key != key },
           mg := { s.mg with keySlots := s.mg.keySlots.filter fun k => k.1 != slot } }

/-- A KEYERASE carried on (R428, R430): the lines under the key are written back and dropped, then the slot is emptied, and the answer is
given after the accesses that were translated before. -/
def State.erase (s : State) : State :=
  match s.mg.erasing with
  | none => s
  | some (slot, key) =>
    let s := s.dropKeyLines key
    if s.keyCached key then s
    else
      let s := if s.keyLoaded slot then s.emptySlot slot key else s
      if s.keyUsed key then s
      else { s with mg := { s.mg with erasing := none } }.respondMctp 7 0 [] |>.serveWaiting

/-- KEYERASE (R428): Writes back and drops the lines under a slot, and empties it; the controller carries it on until it has its answer
(Move.tend). -/
def execKeyerase (slot : Nat) (s : State) : Host.Outcome State Fault Refusal :=
  .next (s.serveMctp (.keyerase slot) 7 false fun s =>
    if 8192 ≤ slot then s.respondMctp 7 1 []
    else if slot = 0 then s.respondMctp 7 3 []
    else if !(s.keyLoaded slot) then s.respondMctp 7 0 []
    else { s with mg := { s.mg with erasing := some (slot, s.keyId slot) } }.erase)

/-- What the device has begun goes on: a KEYERASE, the records whose writes stand now, and requests that wait for inbound granules
(R411, R420, R428). -/
def State.tend (s : State) : State := (s.erase.tailsOn s.mg.errDue.length).grantWaiting s.fab.inboundWaits.length

/-! ### Firmware, attestation, counters (R422, R427) -/

/-- ATTEST (R427): Returns a signed attestation report, while one-time signatures are left. -/
def execAttest (nonce : List (BitVec 8)) (s : State) : Host.Outcome State Fault Refusal :=
  .next (s.serveMctp (.attest nonce) 8 true fun s =>
    if nonce.length ≠ 32 then s.respondMctp 8 1 []
    else if s.mg.signatures = 0 then (s.reason 7).respondMctp 8 3 []
    else
      let report := [s.mg.firmware.2, Config.serial, Config.fuses, natLE nonce, s.mg.keySlots.length + 1, s.mg.mstat]
      let n := s.mg.signatures - 1
      let s := { s with mg := { s.mg with signatures := n } }
      let s := s.respondMctp 8 0 (report ++ [Config.signature n report])
      if n = 0 then s.reason 7 else s)

/-- FWLOAD (R427): Stages a firmware image for the next reset if it verifies and is no older than the fused minimum. -/
def execFwload (version digest : Nat) (verifies : Bool) (s : State) : Host.Outcome State Fault Refusal :=
  .next (s.serveMctp (.fwload version digest verifies) 9 false fun s =>
    if !verifies || decide (version < Config.minFirmware) then s.respondMctp 9 3 []
    else { s with mg := { s.mg with staged := some (version, digest) } }.respondMctp 9 0 [])

/-- COUNTERS (R422): Returns the soft-error counts: structure, die and count. -/
def execCounters (s : State) : Host.Outcome State Fault Refusal :=
  .next (s.serveMctp .counters 10 true fun s =>
    s.respondMctp 10 0 (s.mg.soft.flatMap fun p => [p.1 / 64, p.1 % 64, p.2]))

/-! ### Sparing (R8, R424) -/

/-- Whether a team that runs is placed on a core; one of a saved launch only where no spare takes the core's place, since it is
restored onto the same core (R125; log 71). -/
def State.placedOn (s : State) (core : Nat) : Bool :=
  let spare := decide (0 < nth 0 s.mg.spares (dieOfCore core))
  s.teams.any fun t => t.core == core && !t.ended && (s.launch? t.launch).elim false fun l => !spare || decide (l.phase ≠ .saved)

/-- CORE_RETIREMENT (R424): A marked core with no team placed is retired: a spare of its die takes its logical place, or the
die runs with one core fewer. What its L1 has of written bytes is written back. -/
def execCoreRetirement (core : Nat) (s : State) : Host.Outcome State Fault Refusal :=
  if !(s.mg.marked.contains core) || s.placedOn core then .next s
  else
    let d := dieOfCore core
    let lines := s.m.l1.filter fun l => l.core == core
    let s : State := lines.foldl (fun s l => s.pushTeamBytes core .home l.line (.evictL1 core) [] []) s
    let s : State := { s with mg := { s.mg with marked := s.mg.marked.filter fun c => c != core } }
    let left : Nat := nth 0 s.mg.spares d
    if 0 < left then .next { s with mg := { s.mg with spares := setNth 0 s.mg.spares d (left - 1) } }
    else
      let s := { s with mg := { s.mg with absent := s.mg.absent ++ [core] } }
      .next ((s.moveTasksOff core ((s.otherCore [core]).getD core)).reason 0)

/-- Errors of the last 2^32 ticks, a new one included. -/
def recent (now : Time) (times : List Time) (n : Nat) : List Time :=
  (times.filter fun t => decide (now < t + 2 ^ 32)) ++ List.replicate n now

/-- A list of counts with the times of one replaced. -/
def putCount (l : List ErrCount) (struct place : Nat) (times : List Time) : List ErrCount :=
  ⟨struct, place, times⟩ :: l.filter fun c => !(c.struct == struct && c.place == place)

/-- The times that a list of counts has of one. -/
def timesOf (l : List ErrCount) (struct place : Nat) : List Time :=
  ((l.find? fun c => c.struct == struct && c.place == place).map (·.times)).getD []

/-- A row of HBM begins to be copied to a spare row; a stack whose spare rows are all used says so. -/
def State.startRemap (s : State) (stack row : Nat) : State :=
  if s.mg.rowCopies.contains (stack, row) then s
  else
    let used := (s.mg.rowsMapped.filter fun p => p.1 == stack).length + (s.mg.rowCopies.filter fun p => p.1 == stack).length
    if 1024 ≤ used then s.reason 1
    else
      let s := { s with mg := { s.mg with rowCopies := s.mg.rowCopies ++ [(stack, row)] } }
      if used = 1023 then s.reason 1 else s

/-- HBM_ROW_REMAP (R424): A failing HBM row starts copying to a spare row: at an uncorrectable error (`corrected` 0), or when
16 corrected errors, of which `corrected` are new, fall within 2^32 ticks. -/
def execHbmRowRemap (stack row : Nat) (corrected : Nat) (s : State) : Host.Outcome State Fault Refusal :=
  if 12 ≤ stack then .next s
  else if corrected = 0 then .next (s.startRemap stack row)
  else
    let times := recent s.ftime (timesOf s.mg.rowErr stack row) corrected
    if times.length < 16 then .next { s with mg := { s.mg with rowErr := putCount s.mg.rowErr stack row times } }
    else .next ({ s with mg := { s.mg with rowErr := putCount s.mg.rowErr stack row [] } }.startRemap stack row)

/-- ROW_REMAP_COMPLETE (R424): A row copy finishes and the spare row replaces the old row; what memory reads is unchanged. -/
def execRowRemapComplete (stack row : Nat) (s : State) : Host.Outcome State Fault Refusal :=
  if !(s.mg.rowCopies.contains (stack, row)) then .next s
  else
    .next { s with mg := { s.mg with rowCopies := s.mg.rowCopies.filter (fun p => p != (stack, row)),
                                     rowsMapped := s.mg.rowsMapped ++ [(stack, row)] } }

/-- CORRECTED_ERROR (R422): A corrected ECC error raises its structure's count; 4,096 of a core's structure within 2^32 ticks
set REASON and mark the core. There is none of a structure or die without a number, nor of a core in another die's structure. -/
def execCorrectedError (struct die : Nat) (core : Option Nat) (s : State) : Host.Outcome State Fault Refusal :=
  if struct = 0 ∨ 10 < struct ∨ 22 < die ∨ core.any (fun c => !(decide (c < 256) && dieOfCore c == die && isCoreStruct struct)) then
    .next s
  else
    let k := 64 * struct + die
    let n := Nat.min (lookupD 0 s.mg.soft k + 1) (2 ^ 32 - 1)
    let s := { s with mg := { s.mg with soft := putNat s.mg.soft k n } }
    match core with
    | none => .next s
    | some c =>
      let times := recent s.ftime (timesOf s.mg.softCore struct c) 1
      if times.length < 4096 then .next { s with mg := { s.mg with softCore := putCount s.mg.softCore struct c times } }
      else .next (({ s with mg := { s.mg with softCore := putCount s.mg.softCore struct c [] } }.reason 5).markCore c)

/-- The offset in the spill area of a worklist at which a local physical address lies. -/
def State.inSpill (s : State) (w : Worklist) (pa : Nat) : Option Nat :=
  w.bound.bind fun l => (upFrom (w.spill / 65536) w.spillSize).findSome? fun page =>
    match s.walk (s.fnOfLaunch l) (page * 65536) with
    | .ok (leaf, _) =>
      if leaf.base = .dram (pa / 65536 * 65536) then some (page * 65536 + pa % 65536 - w.spill) else none
    | .error _ => none

/-- A list cut into parts of 255, the tasks of a spill chunk (R369). -/
def chunksOf255 : Nat → List Nat → List (List Nat)
  | 0, _ => []
  | n + 1, l => if l.isEmpty then [] else l.take 255 :: chunksOf255 n (l.drop 255)

/-- The spill chunks in use in a die's quarter, each with its core and its tasks: those of one bucket, 255 to a chunk (R373). -/
def Worklist.chunkLists (w : Worklist) (die : Nat) : List (Nat × List Nat) :=
  (w.spillCores.filter fun c => dieOfCore c == die).flatMap fun c =>
    let mine := w.tasks.filter fun t => t.spilledBy c
    (dedup (mine.map fun t => w.bucket t.prio)).flatMap fun b =>
      let ts := (mine.filter fun t => w.bucket t.prio == b).map (·.uid)
      (chunksOf255 ts.length ts).map fun x => (c, x)

/-- The tasks of the spill chunk that holds an address lost: a chunk of the die in whose quarter it lies (R369, R389). Which one is at
the address, if any, the spec leaves open (log 6). -/
def State.loseSpilled (s : State) (wl off pa : Nat) : State :=
  let w := s.wl wl
  let die := off / (w.spillSize * 16384)
  let chunks := w.chunkLists die
  match chunks.drop (Config.freeNat s.fresh % (chunks.length + 1)) with
  | (core, ts) :: _ => s.takeFresh.loseTasks wl ts die core pa
  | [] => s.takeFresh

/-- UNCORRECTABLE_MEMORY_ERROR (R423): Uncorrectable L2 or HBM data is written back poisoned, and stays poisoned until it is
overwritten in full; AER reports the error (R416), and tasks in a spill chunk that holds it are lost (R389). -/
def execUncorrectableMemoryError (pa : Nat) (s : State) : Host.Outcome State Fault Refusal :=
  if !(paOk pa) then .next s
  else
    let s := (s.onMem fun m => { m with poison := pa / 32 :: m.poison.filter fun x => x != pa / 32 }).reportAer
    let hit := (upFrom 0 8).filterMap fun w => (s.inSpill (s.wl w) pa).map fun off => (w, off)
    .next (hit.foldl (fun s x => s.loseSpilled x.1 x.2 pa) s)

/-! ### Fatal errors (R426) -/

/-- The bytes of an error record (R421). -/
def recordOf (now sev unit struct core addr detail : Nat) : List Byte :=
  bytesLE 8 now ++ bytesLE 1 sev ++ bytesLE 1 unit ++ bytesLE 2 struct ++ bytesLE 4 core ++ bytesLE 8 addr ++ bytesLE 8 detail

/-- Where the fatal dump begins: the top GiB of stack 0. -/
def dumpBase : Nat := 2 ^ 36 - 2 ^ 30

/-- The fields of the dump's header before its sections: magic, version, time, cause, COMPLETE. -/
def dumpHead (at_ : Time) (cause : List Byte) (complete : Nat) : List Byte :=
  [0x56, 0x47, 0x44, 0x4D] ++ bytesLE 4 1 ++ bytesLE 8 at_ ++ cause ++ bytesLE 8 complete

/-- Bytes of the dump written at their homes. -/
def State.dumpPut (s : State) (off : Nat) (bs : List Byte) : State :=
  s.bar2Put (dumpBase + off) bs (cutLines (dumpBase + off) bs.length)

/-- A fatal error: its record, AER's report, MSTAT.FATAL, the beginning of the dump; a QUIESCE without an answer is answered with 3
(R430). -/
def State.fail (s : State) (unit struct addr detail : Nat) : State :=
  if s.mg.fatal then s
  else
    let cause := recordOf s.ftime 2 unit struct noCore addr detail
    let s := (s.errorRecord 2 unit struct noCore addr detail).reportAer
    let s := if s.mg.quiescing then s.respondMctp 2 3 [] else s
    let s := (s.mg.erasing.elim s fun _ => s.respondMctp 7 3 []).serveWaiting
    let s := { s with mg := { s.mg with fatal := true, quiescing := false, erasing := none, dump := some ⟨s.ftime, cause, false, []⟩ } }
    s.dumpPut 0 (dumpHead s.ftime cause 0)

/-- FATAL_ERROR (R426): A fatal error stops all engines and cores and begins the dump; a structure without a code is not identified
(R431). -/
def execFatalError (unit struct : Nat) (addr detail : Nat) (s : State) : Host.Outcome State Fault Refusal :=
  .next (s.fail unit (if struct ≤ 10 then struct else 0) addr detail)

/-- An entry of a region buffer in the dump: its address and what it holds. -/
def RegionEnt.dumpWords : RegionEnt → List Nat
  | .store va _ bs _ _ => [va, natLE bs]
  | .spad team off bs => [team * 2 ^ 20 + off, natLE bs]
  | .clwb va _ _ => [va, 0]
  | .push _ prio entry payload => [prio.toNat + entry.toNat * 2 ^ 32, payload.toNat]

/-- A fibre's state in the dump (R426): what it is and where it runs, then its state in the order of R132, 8 bytes to each word, every
register of its window, an unwritten latch as 0. -/
def Fibre.dumpBytes (f : Fibre) : List Byte :=
  let words := fun (l : List Word) => l.map (·.toNat)
  let lat := [f.lat.b0, f.lat.b1, f.lat.b2, f.lat.b3].map fun b => (b.getD 0).toNat
  let stack := words f.rstack ++ List.replicate (8 - f.rstack.length) 0
  let region := f.region.flatMap (·.dumpWords)
  ([f.key.launch, f.key.team, f.key.fid, f.core, f.pc.toNat, f.pw.toNat] ++ words f.g ++ lat ++ [f.fst.toNat, f.ft, f.gwmax] ++
    stack ++ [f.depth, f.spc.toNat] ++ region ++ List.replicate (32 - region.length) 0 ++ words [f.tpc, f.tcause, f.tval]).flatMap
    (bytesLE 8)

/-- The lines of the error ring; none while recording is off (R420). -/
def State.ringLines (s : State) : List (Nat × Nat) :=
  let base := s.mg.errbase.toNat / 4096 * 4096
  let lg := s.mg.errcfg.toNat % 32
  if base = 0 ∨ lg < 6 ∨ 20 < lg then [] else cutLines base (32 * 2 ^ lg)

/-- Whether the error ring holds data that cannot be read. -/
def State.ringPoisoned (s : State) : Bool := s.ringLines.any fun p => s.m.poisoned .home (.dram p.1) p.2

/-- The error ring, data that cannot be read as 0xFF (R426). -/
def State.ringBytes (s : State) : List Byte :=
  s.ringLines.flatMap fun p =>
    let bs := s.m.homeNewest .home (Place.dram p.1).line 0 (p.1 % 128) p.2
    (bs.zip (upFrom p.1 p.2)).map fun x => if s.m.poisoned .home (.dram x.2) 1 then 0xFF else x.1

/-- What a section of the dump holds (R426), by its number from 0: the error ring, every fibre's state, port and link state; of the teams, the
engine queues and calendars, and Cairn the spec gives no layout (log 72). -/
def State.dumpData (s : State) : Nat → Option (List Byte)
  | 0 => some s.ringBytes
  | 1 => some (s.fibres.flatMap (·.dumpBytes))
  | 5 => some ((upFrom 0 48).flatMap fun p => bytesLE 8 (s.port p).stat)
  | _ => none

/-- A section of the dump: its size, its bytes where they are fixed, its status. -/
structure DumpSec where
  size : Nat
  bytes : Option (List Byte)
  status : Nat
  deriving DecidableEq, Repr

/-- A section of the dump as it is written (R426): `partial_` names those of which some data is unreadable, and by 6 more those that
are unreadable as a whole. Which data of a partial section is unreadable is free. -/
def State.dumpSec (s : State) (partial_ : List Nat) (i : Nat) : DumpSec :=
  let data := s.dumpData i
  let size := data.elim (Config.freeNat (s.fresh + i) % 2 ^ 27) (·.length)
  if partial_.contains (6 + i) then ⟨size, some (List.replicate size 0xFF), 2⟩
  else if partial_.contains i then ⟨size, none, 1⟩
  else ⟨size, data, if i = 0 && s.ringPoisoned then 1 else 0⟩

/-- A section of the dump written at its offset, and the offset of the next one, both multiples of 4 KiB. -/
def State.putSec (s : State) (x : DumpSec) (off : Nat) : State × Nat :=
  let len := (x.size + 4095) / 4096 * 4096
  let s := match x.bytes with
    | some bs => s.dumpPut off bs
    | none => { s.onMem fun m => m.scramble (dumpBase + off) len s.undefId with
                mg := { s.mg with deadKeys := s.mg.deadKeys + 1 } }
  (s, off + len)

/-- The sections of the dump written from an offset on, and their entries in the header: offset, size, status (log 72). -/
def State.putSecs (s : State) : List DumpSec → Nat → State × List Byte
  | [], _ => (s, [])
  | x :: r, off =>
    let y := s.putSec x off
    let z := y.1.putSecs r y.2
    (z.1, bytesLE 4 off ++ bytesLE 4 x.size ++ bytesLE 8 x.status ++ z.2)

/-- FATAL_DUMP_COMPLETE (R426): The fatal dump is fully written, COMPLETE is set, MSI-X vector 1 is raised and the MCTP notice
is sent. -/
def execFatalDumpComplete (partial_ : List Nat) (s : State) : Host.Outcome State Fault Refusal :=
  match s.mg.dump with
  | none => .next s
  | some d =>
    if d.written then .next s
    else
      let x := s.putSecs ((upFrom 0 6).map (s.dumpSec partial_)) 4096
      let s' := (x.1.dumpPut 64 x.2).dumpPut 0 (dumpHead d.at_ d.cause 1)
      let s' := { s' with fresh := s.fresh + 6, mg := { s'.mg with dump := some { d with written := true, partial_ := partial_ } } }
      .next ({ s' with outbox := s'.outbox ++ [Out.msix 0 1] }.respondMctp 0 0 [])

/-! ### Power and cooling (R429) -/

/-- The clock of cores and matrix engines lowered by a step of 100 MHz, down to 1.0 GHz. -/
def State.slowDown (s : State) : State := { s with mg := { s.mg with clock := Nat.max 1000 (s.mg.clock - 100) } }

/-- PACKAGE_POWER_LIMIT (R429): Package power over its limit lowers core and matrix clocks; back within it they rise again by
a step, up to the nominal 2.5 GHz. -/
def execPackagePowerLimit (exceeded : Bool) (s : State) : Host.Outcome State Fault Refusal :=
  .next (if exceeded then s.slowDown else { s with mg := { s.mg with clock := Nat.min 2500 (s.mg.clock + 100) } })

/-- DIE_TEMPERATURE_LIMIT (R429): A die at 105 °C lowers clocks. -/
def execDieTemperatureLimit (_die : Nat) (s : State) : Host.Outcome State Fault Refusal := .next s.slowDown

/-- POWER_TRIP (R429): Module power above 5.6 kW for 10 ms causes a fatal error. -/
def execPowerTrip (s : State) : Host.Outcome State Fault Refusal := .next (s.fail 22 0 0 0)

/-- THERMAL_TRIP (R429): A die at 115 °C causes a fatal error. -/
def execThermalTrip (die : Nat) (s : State) : Host.Outcome State Fault Refusal := .next (s.fail die 0 0 0)

/-- COOLANT_OUT_OF_RANGE (R429): Coolant outside its range sets REASON bit 22. -/
def execCoolantOutOfRange (s : State) : Host.Outcome State Fault Refusal := .next (s.reason 6)

/-! ### Module reset (R429) -/

/-- Spare cores left and cores missing, by die, after the cores that fail their test have been replaced. -/
def assignSpares (failed : List Nat) : List Nat × List Nat :=
  let of := fun (d : Nat) => dedup (failed.filter fun c => dieOfCore c == d)
  ((upFrom 0 4).map fun d => 2 - (of d).length, (upFrom 0 4).flatMap fun d => (of d).drop 2)

/-- The module after a reset and bring-up: firmware verified, FTIME at 0, recorded row spares applied, cores tested (`cores`
fail), the fabric ports training, the host link up, READY set. Firmware, signatures and recorded row spares stay. -/
def State.bringUp (s : State) (cores : List Nat) : State :=
  let r := State.reset
  let x := assignSpares (cores.filter fun c => decide (c < 256))
  let mg := { r.mg with ready := true, spares := x.1, absent := x.2, firmware := s.mg.staged.getD s.mg.firmware,
                        signatures := s.mg.signatures, rowsMapped := s.mg.rowsMapped }
  let fab := { r.fab with hostUp := true, ports := r.fab.ports.map fun (p : Port) => { p with state := 1 } }
  { r with fresh := s.fresh + 1, uid := s.uid, agenda := s.agenda, outbox := s.outbox, mg := mg, fab := fab }

/-- MODULE_RESET (R429): Module reset runs bring-up and sets READY. -/
def execModuleReset (cores : List Nat) (s : State) : Host.Outcome State Fault Refusal := .next (s.bringUp cores)

end Sys2Proof.Machine
end

