-- ==== Sys2Proof/Machine/MatUnit.lean ====
section
/-! DEFINITION. The matrix engine: what the entries of a core's queue do, and the grants of banks (R339 to R345, R353 to
R362). -/

namespace Sys2Proof.Machine

/-! ### Tiles (R339, R340, R344) -/

/-- An element that is all zero. -/
def AccElem.zero : AccElem := ⟨0, 0, false⟩

/-- The slots of accumulator memory under an entry's tile: (16 × core + bank) × 16 + slot. -/
def MatEntry.slots (e : MatEntry) : List Nat :=
  (upFrom e.slot (e.width / 16)).map fun t => (e.core * 16 + nth 0 e.banks (t / 16)) * 16 + t % 16

/-- The number of an element of an entry's tile. -/
def MatEntry.elem (e : MatEntry) (row col : Nat) : Nat := nth 0 e.slots (col / 16) * 256 + row * 16 + col % 16

/-- Whether two entries' tiles share a slot. -/
def MatEntry.meets (e x : MatEntry) : Bool := e.slots.any x.slots.contains

/-- Whether an entry is the first of those that share a slot with it. -/
def MatState.first (m : MatState) (e : MatEntry) : Bool :=
  !((m.queue.takeWhile fun x => x.uid != e.uid).any fun x => x.meets e)

/-- An element of accumulator memory. -/
def MatState.at_ (m : MatState) (k : Nat) : AccElem := lookupD AccElem.zero m.acc k

/-- Elements replaced; those that are all zero are not listed. -/
def MatState.put (m : MatState) (new : List (Nat × AccElem)) : MatState :=
  { m with acc := (new.filter fun p => decide (p.2 ≠ AccElem.zero)) ++ m.acc.filter fun p => !(new.any fun q => q.1 == p.1) }

/-- Every row and column of a tile of a width. -/
def tileCells (width : Nat) : List (Nat × Nat) :=
  (upFrom 0 16).flatMap fun r => (upFrom 0 width).map fun c => (r, c)

/-- A tile with every element all zero. -/
def MatState.clearTile (m : MatState) (e : MatEntry) : MatState :=
  { m with acc := m.acc.filter fun p => !(e.slots.contains (p.1 / 256)) }

/-- A state without an entry of a matrix queue, with the banks nobody uses any more returned (R342), and with the generations
issued that waited for a place in the queue (R344). -/
def State.dropEntry (s : State) (e : MatEntry) : State :=
  { s with mat := { s.mat with queue := s.mat.queue.filter fun x => x.uid != e.uid } }.reclaim.queueMoves e.core

/-! ### Operands of an MMA (R345, R348, R349) -/

/-- Element `k` of an A fragment: registers as bytes, elements of `size` bytes in order. -/
def aElem (size : Nat) (row : List Word) (k : Nat) : Nat :=
  natLE (((row.flatMap fun w => bytesLE 8 w.toNat).drop (size * k)).take size)

/-- The aligned 8-byte units that an operation has not read yet; the rows of a B slice and its block scale begin at one. -/
def unitsLeft (got : List (Option Byte)) : List Nat :=
  (upFrom 0 ((got.length + 7) / 8)).filter fun u => ((got.drop (8 * u)).take 8).any (·.isNone)

/-- Some of the units left read from the bytes of now, by a free choice (R345). -/
def readUnits (free : Nat) (got : List (Option Byte)) (now : List Byte) : List (Option Byte) :=
  let take := chosen free (unitsLeft got)
  ((got.zip now).zip (upFrom 0 now.length)).map fun x => if x.1.1.isNone && take.contains (x.2 / 8) then some x.1.2 else x.1.1

/-- Whether an entry has still to read some of its B slice or block scale. -/
def MatEntry.reading (e : MatEntry) : Bool :=
  match e.op with
  | .mma _ _ _ _ _ got => got.any (·.isNone)
  | _ => false

/-- Element (k, n) of a B slice whose rows have `width` elements. -/
def bElem (size width : Nat) (b : List Byte) (k n : Nat) : Nat := natLE ((b.drop ((k * width + n) * size)).take size)

/-! ### Arithmetic (R353 to R355) -/

/-- The exact product of two E4M3 codes as a multiple of 2^-18, and whether one is a NaN. -/
def e4m3Product (a b : Nat) : Int × Bool :=
  match fpE4m3.value a, fpE4m3.value b with
  | .fin na ma ea, .fin nb mb eb => (signedAt (na != nb) (ma * mb) (ea + eb) (-18), false)
  | _, _ => (0, true)

/-- The products of an E4M3 operation added to an element's exact partial. -/
def accE4m3 (pairs : List (Nat × Nat)) (x : AccElem) : AccElem :=
  pairs.foldl (fun x p =>
    let (v, nan) := e4m3Product p.1 p.2
    { x with p := x.p + BitVec.ofInt 64 v, mark := x.mark || nan }) x

/-- The promotion of MMAP: P × sa × sb into V. -/
def promote (sa sb : Nat) (x : AccElem) : AccElem :=
  if x.mark then ⟨0x7FC00000, 0, false⟩
  else
    let sc := (fp32.mulR .rne sa sb).1
    let t := (fp32.deliver .rne ((Fp.fin (decide (x.p.toInt < 0)) x.p.toInt.natAbs (-18)).times (fp32.value sc))).1
    ⟨BitVec.ofNat 32 (fp32.addR .rne x.v.toNat t).1, 0, false⟩

/-- The value of a 16-bit operand of MMA.h (fn 2) or MMA.bh. -/
def halfValue (fn x : Nat) : Fp := if fn = 2 then fp16.value x else bf16.value x

/-- Sixteen steps of MMA.h or MMA.bh: one rounding each. -/
def accHalf (fn : Nat) (pairs : List (Nat × Nat)) (x : AccElem) : AccElem :=
  let step := fun (v : Nat) (p : Nat × Nat) =>
    (fp32.deliver .rne (Fp.fma false (fp32.value v) (halfValue fn p.1) (halfValue fn p.2))).1
  { x with v := BitVec.ofNat 32 (pairs.foldl step x.v.toNat) }

/-- The products of MMA.i8 added modulo 2^32. -/
def accI8 (pairs : List (Nat × Nat)) (x : AccElem) : AccElem :=
  let sg := fun (v : Nat) => (BitVec.ofNat 8 v).toInt
  { x with v := pairs.foldl (fun v p => v + BitVec.ofInt 32 (sg p.1 * sg p.2)) x.v }

/-- One element of a row that takes part, after an operation with its pairs of operands and its scales. -/
def mmaElem (fn sa sb : Nat) (pairs : List (Nat × Nat)) (x : AccElem) : AccElem :=
  if fn = 0 then accE4m3 pairs x
  else if fn = 1 then promote sa sb (accE4m3 pairs x)
  else if fn = 4 then accI8 pairs x
  else accHalf fn pairs x

/-- An MMA on its tile, with the bytes of its B slice and block scale. -/
def MatState.mma (m : MatState) (e : MatEntry) (fn : Nat) (rows : List (Nat × List Word)) (sa : List (Nat × W32))
    (b : List Byte) : MatState :=
  let size := mmaSize fn
  let slice := mmaK fn * e.width * size
  let sb := if fn = 1 ∧ descField e.desc 40 1 % 2 = 1 then natLE ((b.drop slice).take 4) else 0x3F800000
  let cell := fun (r : Nat × List Word) (n : Nat) =>
    let pairs := (upFrom 0 (mmaK fn)).map fun k => (aElem size r.2 k, bElem size e.width b k n)
    (e.elem r.1 n, mmaElem fn (lookupD 0 sa r.1).toNat sb pairs (m.at_ (e.elem r.1 n)))
  m.put (rows.flatMap fun r => (upFrom 0 e.width).map (cell r))

/-- An ACCLD with its data: V takes the bits, P and the mark are cleared (R360). -/
def MatState.load (m : MatState) (e : MatEntry) (bs : List Byte) : MatState :=
  m.put ((tileCells e.width).map fun x =>
    (e.elem x.1 x.2, ⟨BitVec.ofNat 32 (natLE ((bs.drop (4 * (x.1 * e.width + x.2))).take 4)), 0, false⟩))

/-! ### DRAIN (R361, R362) -/

/-- Whether a destination format reads V as INT32. -/
def drainsInt (fm : Nat) : Bool := fm == 4 || fm == 6

/-- absbits of R361. -/
def absBits (fm : Nat) (x : W32) : Nat :=
  if drainsInt fm then x.toInt.natAbs
  else if (fp32.value x.toNat).isNan then 0x7FC00000 else x.toNat % 2 ^ 31

/-- An element converted to a destination format, and whether it counts as saturated (R362). -/
def drainElem (fm : Nat) (x : W32) : Nat × Bool :=
  match fm with
  | 1 =>
    let r := fpE4m3.round .rne false (fp32.value x.toNat)
    (r.1, r.2 &&& fstSAT != 0)
  | 2 => ((fp32.convert fp16 .rne false x.toNat).1, false)
  | 3 => ((fp32.convert bf16 .rne false x.toNat).1, false)
  | 4 =>
    let i := x.toInt
    if 127 < i then (0x7F, true) else if i < -128 then (0x80, true) else (x.toNat % 256, false)
  | _ => (x.toNat, false)

/-- What a DRAIN reads of a tile: the bytes of its rows, the count of saturated elements, and the maximum. -/
def MatState.drain (m : MatState) (e : MatEntry) (fm : Nat) : List (List Byte) × Nat × Nat :=
  let v := fun (r c : Nat) => (m.at_ (e.elem r c)).v
  (((upFrom 0 16).map fun r => (upFrom 0 e.width).flatMap fun c => bytesLE (fmtSize fm) (drainElem fm (v r c)).1),
   ((tileCells e.width).filter fun x => (drainElem fm (v x.1 x.2)).2).length,
   maxList ((tileCells e.width).map fun x => absBits fm (v x.1 x.2)))

/-- A DEVICE-scope atomic of a DRAIN's fibre on 4 bytes, without a register to return to. -/
def State.drainAtom (s : State) (k : FKey) (core : Nat) (leaves : List (Nat × Leaf)) (va : Nat) (op : AtomOp) (v : Nat) : State :=
  match heldPieces leaves va 4 with
  | p :: _ =>
    let a : AtomReq := ⟨s.uid, k, core, .level (atomLevel 3 p.place core) p.place, 4, op, BitVec.ofNat 64 v, 0, false, none, 3,
      p.leaf.key, va, false, 0⟩
    { s with uid := s.uid + 1 }.sendAtom a
  | [] => s

/-- A DRAIN whose turn has come: its rows are written out, its atomics leave, its tile is cleared with Z; the fibre waits
for the last of them, unless it has been ended. -/
def State.runDrain (s : State) (e : MatEntry) (k : FKey) (d : Nat) (maxAddr : Word) (m0 n0 : Nat) (z : Bool)
    (leaves : List (Nat × Leaf)) : State :=
  let (rows, c, mx) := s.mat.drain e (descField e.desc 9 1)
  let uid0 := s.uid
  let spans := (tileSpans e.desc m0 n0).zip rows
  let s :=
    if descField e.desc 8 1 = 0 then
      spans.foldl (fun s x => s.onTeam e.launch e.team fun t => t.spadWrite x.1.1 x.2) s
    else
      let s := spans.foldl (fun s x => s.issueStore k e.core 3 0 x.1.1 (heldPieces leaves x.1.1 x.1.2) x.2) s
      s.onMem fun m => { m with outs := m.outs.map fun o =>
        if uid0 ≤ o.uid && decide (o.fibres = [k]) then { o with cmds := e.uid :: o.cmds } else o }
  let s := if descField e.desc 40 1 / 2 % 2 = 1 && c != 0 then s.drainAtom k e.core leaves (descField e.desc 32 8) .add c else s
  let s := if maxAddr ≠ 0 then s.drainAtom k e.core leaves maxAddr.toNat .maxu mx else s
  let s := if z then { s with mat := s.mat.clearTile e } else s
  s.onFibre k fun f => if f.status = .ended then f else { f with status := .blocked (.drained d c) }

/-- A DRAIN all of whose writes and atomics have been performed: D receives the count and the fibre goes on. -/
def State.endDrain (s : State) (e : MatEntry) (k : FKey) : State :=
  match s.fibre? k with
  | some f =>
    match f.status with
    | .blocked (.drained d c) =>
      if s.writesOut k then s
      else (s.setFibre ((f.writeG d (BitVec.ofNat 64 c)).wake s.ftime)).dropEntry e
    | _ => s
  | none => s.dropEntry e

/-! ### The events -/

/-- An MMA reads some of what it has not read yet, at free times between its issue and its completion (R345): a mapped chunk
without data is filled first, as for any engine (R224, R225). -/
def State.readMma (s : State) (e : MatEntry) (t : Team) (fn : Nat) (rows : List (Nat × List Word)) (sa : List (Nat × W32))
    (k0 n0 : Nat) (got : List (Option Byte)) : State :=
  let spans := sliceSpans e.desc fn k0 n0
  match spans.findSome? fun p => t.boundChunk p.1 p.2 with
  | some c =>
    if c.fill.isSome then s
    else
      let fn := (s.launch? e.launch).elim 0 (·.fn)
      match s.translate (.core e.core) fn c.va false with
      | .ok leaf =>
        let s := s.cache (.core e.core) fn c.va leaf
        s.onTeam e.launch e.team fun t => t.setChunk { c with fill := some ⟨e.launch, e.team, 65536⟩, leaf := some leaf }
      | .page cls => s.raiseFault fn (c.va / 65536) cls 3 e.launch
      | .walk peer frame w => s.askWalk peer frame w
      | .violation _ _ => s
  | none =>
    let e' := { e with op := .mma fn rows sa k0 n0 (readUnits (Config.freeNat s.fresh) got (t.spanBytes spans)) }
    { s.takeFresh with mat := { s.mat with queue := s.mat.queue.map fun x => if x.uid = e.uid then e' else x } }

/-- MATRIX_QUEUE_ENTRY_COMPLETE (R344): A matrix queue entry takes effect on its tile, or a DRAIN's writes are performed. An MMA
first reads its B slice and block scale, whatever stands before it on the tile. -/
def execMatrixQueueEntryComplete (entry : Nat) (s : State) : Host.Outcome State Fault Refusal :=
  match s.mat.queue.find? fun e => e.uid == entry with
  | none => .next s
  | some e =>
    if !(e.reading) && !(s.mat.first e) then .next s
    else
      match e.op with
      | .accz => .next ({ s with mat := s.mat.clearTile e }.dropEntry e)
      | .accld none => .next s
      | .accld (some bs) => .next ({ s with mat := s.mat.load e bs }.dropEntry e)
      | .mma fn rows sa k0 n0 got =>
        match s.team? e.launch e.team with
        | some t =>
          if e.reading then .next (s.readMma e t fn rows sa k0 n0 got)
          else .next ({ s with mat := s.mat.mma e fn rows sa (got.filterMap id) }.dropEntry e)
        | none => .next (s.dropEntry e)
      | .drain k d maxAddr m0 n0 z leaves =>
        if (s.fibre? k).elim false fun f => decide (f.status = .blocked (.drain e.uid d)) then
          .next (s.runDrain e k d maxAddr m0 n0 z leaves)
        else if (s.fibre? k).elim false fun f => decide (f.status = .ended) then
          .next ((s.runDrain e k d maxAddr m0 n0 z leaves).dropEntry e)
        else .next (s.endDrain e k)

/-- The banks of a core that nobody holds, ascending. -/
def MatState.freeBanks (m : MatState) (core : Nat) : List Nat :=
  (upFrom 0 16).filter fun b => !(m.holds.any fun h => h.core == core && h.banks.contains b)

/-- Banks granted to a team, every element all zero (R341). -/
def MatState.grant (m : MatState) (core launch team : Nat) (banks : List Nat) : MatState :=
  { m with holds := m.holds ++ [⟨core, launch, team, banks, false⟩],
           acc := m.acc.filter fun p => !(p.1 / 65536 == core && banks.contains (p.1 / 4096 % 16)) }

/-- ABALLOC_GRANT (R341): The head of a core's request FIFO is granted its banks. -/
def execAballocGrant (core : Nat) (s : State) : Host.Outcome State Fault Refusal :=
  match s.mat.abFifo.find? fun r => r.core == core with
  | none => .next s
  | some r =>
    let free := s.mat.freeBanks core
    if free.length < r.n then .next s
    else
      let banks := free.take r.n
      let m := s.mat.grant core r.fibre.launch r.fibre.team banks
      let s := { s with mat := { m with abFifo := m.abFifo.filter fun x => decide (x ≠ r) } }
      .next (s.onFibre r.fibre fun f => (f.writeG r.d (BitVec.ofNat 64 (bankMask banks))).wake s.ftime)

end Sys2Proof.Machine
end

