-- ==== Sys2Proof/Machine/Pred.lean ====
section
/-! DEFINITION. CMP, CMPI, PRED, LI, SEL and MOVX (R168 to R172). -/

namespace Sys2Proof.Machine

/-- A word that compares SA with SB and combines the condition into a predicate (R38, R168). -/
def cmpWord (h : Hdr) (p c : BitVec 3) (a b : BitVec 6) (cond : Word → Word → Bool) :
    State → Host.Outcome State Fault Refusal :=
  runWord h.e h.pg h.pn false fun s f =>
    withOpds (f.srcsAB a b) f.ksrcBad (fun s f =>
      .next s (f.setPred p (combine c (f.pred p) (cond (s.srcA f a) (s.srcB f b))))) s f

/-- A word that compares SA with the widened imm6. -/
def cmpiWord (h : Hdr) (p c : BitVec 3) (a i : BitVec 6) (cond : Word → Word → Bool) :
    State → Host.Outcome State Fault Refusal :=
  runWord h.e h.pg h.pn false fun s f =>
    withOpds [⟨2, a, .src⟩] [] (fun s f =>
      .next s (f.setPred p (combine c (f.pred p) (cond (f.src a) (f.widen 6 i.toNat))))) s f

/-- A word on predicates (R169). -/
def predWord (h : Hdr) (d : BitVec 3) (val : Fibre → Bool) : State → Host.Outcome State Fault Refusal :=
  runWord h.e h.pg h.pn false fun s f => .next s (f.setPred d (val f))

/-! ### The conditions of R168 -/

/-- EQ. -/
def condEq (x y : Word) : Bool := x == y
/-- NE. -/
def condNe (x y : Word) : Bool := x != y
/-- LT, signed. -/
def condLt (x y : Word) : Bool := decide (x.toInt < y.toInt)
/-- LE, signed. -/
def condLe (x y : Word) : Bool := decide (x.toInt ≤ y.toInt)
/-- LTU, unsigned. -/
def condLtu (x y : Word) : Bool := decide (x.toNat < y.toNat)
/-- LEU, unsigned. -/
def condLeu (x y : Word) : Bool := decide (x.toNat ≤ y.toNat)
/-- TST. -/
def condTst (x y : Word) : Bool := x &&& y != 0
/-- NTST. -/
def condNtst (x y : Word) : Bool := x &&& y == 0

/-- CMP_EQ (R168): Compares for equality into a predicate. -/
def execCmpEq (h : Hdr) (p : BitVec 3) (c : BitVec 3) (a : BitVec 6) (b : BitVec 6) (s : State) :
    Host.Outcome State Fault Refusal :=
  cmpWord h p c a b condEq s

/-- CMPI_EQ (R168): Equality with an immediate into a predicate. -/
def execCmpiEq (h : Hdr) (p : BitVec 3) (c : BitVec 3) (a : BitVec 6) (i : BitVec 6) (s : State) :
    Host.Outcome State Fault Refusal :=
  cmpiWord h p c a i condEq s

/-- CMP_NE (R168): Compares for inequality into a predicate. -/
def execCmpNe (h : Hdr) (p : BitVec 3) (c : BitVec 3) (a : BitVec 6) (b : BitVec 6) (s : State) :
    Host.Outcome State Fault Refusal :=
  cmpWord h p c a b condNe s

/-- CMPI_NE (R168): Inequality with an immediate. -/
def execCmpiNe (h : Hdr) (p : BitVec 3) (c : BitVec 3) (a : BitVec 6) (i : BitVec 6) (s : State) :
    Host.Outcome State Fault Refusal :=
  cmpiWord h p c a i condNe s

/-- CMP_LT (R168): Signed less-than into a predicate. -/
def execCmpLt (h : Hdr) (p : BitVec 3) (c : BitVec 3) (a : BitVec 6) (b : BitVec 6) (s : State) :
    Host.Outcome State Fault Refusal :=
  cmpWord h p c a b condLt s

/-- CMPI_LT (R168): Signed less-than an immediate. -/
def execCmpiLt (h : Hdr) (p : BitVec 3) (c : BitVec 3) (a : BitVec 6) (i : BitVec 6) (s : State) :
    Host.Outcome State Fault Refusal :=
  cmpiWord h p c a i condLt s

/-- CMP_LE (R168): Signed less-or-equal into a predicate. -/
def execCmpLe (h : Hdr) (p : BitVec 3) (c : BitVec 3) (a : BitVec 6) (b : BitVec 6) (s : State) :
    Host.Outcome State Fault Refusal :=
  cmpWord h p c a b condLe s

/-- CMPI_LE (R168): Signed less-or-equal an immediate. -/
def execCmpiLe (h : Hdr) (p : BitVec 3) (c : BitVec 3) (a : BitVec 6) (i : BitVec 6) (s : State) :
    Host.Outcome State Fault Refusal :=
  cmpiWord h p c a i condLe s

/-- CMP_LTU (R168): Unsigned less-than into a predicate. -/
def execCmpLtu (h : Hdr) (p : BitVec 3) (c : BitVec 3) (a : BitVec 6) (b : BitVec 6) (s : State) :
    Host.Outcome State Fault Refusal :=
  cmpWord h p c a b condLtu s

/-- CMPI_LTU (R168): Unsigned less-than an immediate. -/
def execCmpiLtu (h : Hdr) (p : BitVec 3) (c : BitVec 3) (a : BitVec 6) (i : BitVec 6) (s : State) :
    Host.Outcome State Fault Refusal :=
  cmpiWord h p c a i condLtu s

/-- CMP_LEU (R168): Unsigned less-or-equal into a predicate. -/
def execCmpLeu (h : Hdr) (p : BitVec 3) (c : BitVec 3) (a : BitVec 6) (b : BitVec 6) (s : State) :
    Host.Outcome State Fault Refusal :=
  cmpWord h p c a b condLeu s

/-- CMPI_LEU (R168): Unsigned less-or-equal an immediate. -/
def execCmpiLeu (h : Hdr) (p : BitVec 3) (c : BitVec 3) (a : BitVec 6) (i : BitVec 6) (s : State) :
    Host.Outcome State Fault Refusal :=
  cmpiWord h p c a i condLeu s

/-- CMP_TST (R168): Tests whether a AND b is non-zero. -/
def execCmpTst (h : Hdr) (p : BitVec 3) (c : BitVec 3) (a : BitVec 6) (b : BitVec 6) (s : State) :
    Host.Outcome State Fault Refusal :=
  cmpWord h p c a b condTst s

/-- CMPI_TST (R168): Tests a AND immediate non-zero. -/
def execCmpiTst (h : Hdr) (p : BitVec 3) (c : BitVec 3) (a : BitVec 6) (i : BitVec 6) (s : State) :
    Host.Outcome State Fault Refusal :=
  cmpiWord h p c a i condTst s

/-- CMP_NTST (R168): Tests whether a AND b is zero. -/
def execCmpNtst (h : Hdr) (p : BitVec 3) (c : BitVec 3) (a : BitVec 6) (b : BitVec 6) (s : State) :
    Host.Outcome State Fault Refusal :=
  cmpWord h p c a b condNtst s

/-- CMPI_NTST (R168): Tests a AND immediate zero. -/
def execCmpiNtst (h : Hdr) (p : BitVec 3) (c : BitVec 3) (a : BitVec 6) (i : BitVec 6) (s : State) :
    Host.Outcome State Fault Refusal :=
  cmpiWord h p c a i condNtst s

/-- PAND (R169): AND of two predicates. -/
def execPand (h : Hdr) (d : BitVec 3) (a : BitVec 3) (b : BitVec 3) (s : State) :
    Host.Outcome State Fault Refusal :=
  predWord h d (fun f => f.pred a && f.pred b) s

/-- POR (R169): OR of two predicates. -/
def execPor (h : Hdr) (d : BitVec 3) (a : BitVec 3) (b : BitVec 3) (s : State) :
    Host.Outcome State Fault Refusal :=
  predWord h d (fun f => f.pred a || f.pred b) s

/-- PXOR (R169): XOR of two predicates. -/
def execPxor (h : Hdr) (d : BitVec 3) (a : BitVec 3) (b : BitVec 3) (s : State) :
    Host.Outcome State Fault Refusal :=
  predWord h d (fun f => f.pred a != f.pred b) s

/-- PNOT (R169): Negates a predicate. -/
def execPnot (h : Hdr) (d : BitVec 3) (a : BitVec 3) (s : State) :
    Host.Outcome State Fault Refusal :=
  predWord h d (fun f => !f.pred a) s

/-- PWGET (R169): Reads the predicate word into a register. -/
def execPwget (h : Hdr) (d : BitVec 6) (s : State) :
    Host.Outcome State Fault Refusal :=
  fixedWord h d (fun _ => []) (fun _ f => f.pwRead) s

/-- PWSET (R169): Writes predicates p1-p7 from a register. -/
def execPwset (h : Hdr) (a : BitVec 6) (s : State) :
    Host.Outcome State Fault Refusal :=
  runWord h.e h.pg h.pn false (fun s f =>
    withOpds [⟨2, a, .src⟩] [] (fun s f => .next s (f.pwWrite (f.src a))) s f) s

/-- LI (R170): Loads a sign-extended immediate. -/
def execLi (h : Hdr) (d : BitVec 6) (i : BitVec 15) (s : State) :
    Host.Outcome State Fault Refusal :=
  fixedWord h d (fun _ => []) (fun _ f => f.widen 15 i.toNat) s

/-- SEL (R171): Selects SA or SB by a predicate. -/
def execSel (h : Hdr) (p : BitVec 3) (d : BitVec 6) (a : BitVec 6) (b : BitVec 6) (s : State) :
    Host.Outcome State Fault Refusal :=
  fixedWord h d (fun f => f.srcsAB a b) (fun s f => if f.pred p then s.srcA f a else s.srcB f b) s

/-! ### Special registers (R60, R133, R134, R172) -/

/-- Whether a word of the fibre may still merge flags into FST (R133): a load or atomic on its way, an atomic in its release hold, a
result not yet written. -/
def State.flagsOut (s : State) (k : FKey) : Bool :=
  s.accessesOut k || s.m.results.any (fun r => decide (r.fibre = k)) ||
    (s.fibre? k).any fun f => match f.relHold with | some (_, .atomic _) => true | _ => false

/-- The value of a special register as of the word's issue. -/
def State.special (s : State) (f : Fibre) (code : Nat) : Word :=
  match code with
  | 0 => BitVec.ofNat 64 f.key.fid
  | 1 => BitVec.ofNat 64 f.key.team
  | 2 => BitVec.ofNat 64 ((s.launchOf f).elim 0 fun l => f.key.team / l.rope)
  | 3 => BitVec.ofNat 64 f.role
  | 4 => BitVec.ofNat 64 ((s.launchOf f).elim 0 (·.nfib))
  | 5 => BitVec.ofNat 64 s.ftime
  | 6 => BitVec.ofNat 64 f.ft
  | 7 => f.fst
  | 8 => BitVec.ofNat 64 f.gwmax
  | 9 => f.tpc
  | 10 => f.tcause
  | 11 => f.tval
  | 12 => s.tvec f
  | 13 => BitVec.ofNat 64 ((s.launchOf f).elim 0 (·.stepn))
  | 14 => BitVec.ofNat 64 f.key.launch
  | _ => f.spc

/-- Whether a read of a special register waits: FST for every earlier flag (R133), GWMAX for every GWCT on its way. -/
def State.specialWaits (s : State) (k : FKey) (code : Nat) : Bool :=
  (code == 7 && s.flagsOut k) || (code == 8 && s.writesOut k)

/-- A special register written (R6, R60, R133, R134): FST, TPC, or the team's TVEC. -/
def writeSpecial (s : State) (f : Fibre) (code : Nat) (v : Word) : State × Fibre :=
  if code = 7 then (s, { f with fst := fstWrite f.fst v })
  else if code = 9 then (s, { f with tpc := v &&& ~~~3#64 })
  else (s.onTeam f.key.launch f.key.team (fun t => { t with tvec := v &&& ~~~3#64 }), f)

/-- GETSR (R172): Reads a special register. -/
def execGetsr (h : Hdr) (d : BitVec 6) (a : BitVec 6) (s : State) :
    Host.Outcome State Fault Refusal :=
  runWord h.e h.pg h.pn true (fun s f =>
    withOpds [⟨1, d, .dst⟩] (if 16 ≤ a.toNat then [7] else []) (fun s f =>
      if s.specialWaits f.key a.toNat then .stall else .next s (f.writeFixed d (s.special f a.toNat))) s f) s

/-- SETSR (R172): Writes the RW fields of FST, TPC or TVEC. -/
def execSetsr (h : Hdr) (a : BitVec 6) (b : BitVec 6) (s : State) :
    Host.Outcome State Fault Refusal :=
  runWord h.e h.pg h.pn false (fun s f =>
    withOpds [⟨3, b, .src⟩] (if a.toNat = 7 ∨ a.toNat = 9 ∨ a.toNat = 12 then [] else [7]) (fun s f =>
      if a.toNat = 7 && s.flagsOut f.key then .stall
      else
        let r := writeSpecial s f a.toNat (f.src b)
        .next r.1 r.2) s f) s

/-- GETK (R172): Reads a team register. -/
def execGetk (h : Hdr) (d : BitVec 6) (k : BitVec 12) (s : State) :
    Host.Outcome State Fault Refusal :=
  runWord h.e h.pg h.pn false (fun s f =>
    withOpds [⟨1, d, .long⟩] (if 384 ≤ k.toNat then [7] else []) (fun s f =>
      .next (s.addResult f d.toNat (s.kreg f k.toNat) 0) (f.await d.toNat s.uid)) s f) s

/-- PUTK (R172): Writes a team register. -/
def execPutk (h : Hdr) (d : BitVec 6) (k : BitVec 12) (s : State) :
    Host.Outcome State Fault Refusal :=
  runWord h.e h.pg h.pn false (fun s f =>
    withOpds [⟨1, d, .src⟩] (if 384 ≤ k.toNat then [7] else []) (fun s f =>
      .next (s.onTeam f.key.launch f.key.team (fun t => { t with k := setNth 0 t.k k.toNat (f.src d) })) f) s f) s

end Sys2Proof.Machine
end

