-- ==== Sys2Proof/Machine/Sfu.lean ====
section
/-! DEFINITION. Special functions and expression entries: SFU and EXPR (R211 to R215). -/

namespace Sys2Proof.Machine

/-- A word of SFU (R211): long-latency, one function per FP32 lane; result and flags wait in the memory of results
(R133, R144). -/
def sfuWord (fn : SfuFn) (h : Hdr) (d a : BitVec 6) : State → Host.Outcome State Fault Refusal :=
  runWord h.e h.pg h.pn false fun s f =>
    withOpds (⟨1, d, .long⟩ :: f.oldD false d ++ [⟨2, a, .src⟩]) [] (fun s f =>
      let x := f.src a
      let r := f.lanes 32 (f.src d) (fun i => sfu fn (laneU 32 x i))
      .next (s.addResult f d.toNat r.1 r.2) (f.await d.toNat s.uid)) s f

/-- RCP_S2 (R212): FP32 reciprocal, long latency. -/
def execRcpS2 (h : Hdr) (d : BitVec 6) (a : BitVec 6) (s : State) :
    Host.Outcome State Fault Refusal :=
  sfuWord .rcp h d a s

/-- RSQ_S2 (R212): FP32 reciprocal square root. -/
def execRsqS2 (h : Hdr) (d : BitVec 6) (a : BitVec 6) (s : State) :
    Host.Outcome State Fault Refusal :=
  sfuWord .rsq h d a s

/-- SQRT_S2 (R212): FP32 square root. -/
def execSqrtS2 (h : Hdr) (d : BitVec 6) (a : BitVec 6) (s : State) :
    Host.Outcome State Fault Refusal :=
  sfuWord .sqrt h d a s

/-- EXP2_S2 (R212): FP32 base-2 exponential. -/
def execExp2S2 (h : Hdr) (d : BitVec 6) (a : BitVec 6) (s : State) :
    Host.Outcome State Fault Refusal :=
  sfuWord .exp2 h d a s

/-- LOG2_S2 (R212): FP32 base-2 logarithm. -/
def execLog2S2 (h : Hdr) (d : BitVec 6) (a : BitVec 6) (s : State) :
    Host.Outcome State Fault Refusal :=
  sfuWord .log2 h d a s

/-- SIN_S2 (R212): FP32 sine of an argument in turns. -/
def execSinS2 (h : Hdr) (d : BitVec 6) (a : BitVec 6) (s : State) :
    Host.Outcome State Fault Refusal :=
  sfuWord .sin h d a s

/-- COS_S2 (R212): FP32 cosine of an argument in turns. -/
def execCosS2 (h : Hdr) (d : BitVec 6) (a : BitVec 6) (s : State) :
    Host.Outcome State Fault Refusal :=
  sfuWord .cos h d a s

/-- TANH_S2 (R212): FP32 hyperbolic tangent. -/
def execTanhS2 (h : Hdr) (d : BitVec 6) (a : BitVec 6) (s : State) :
    Host.Outcome State Fault Refusal :=
  sfuWord .tanh h d a s

/-- The fourth operand of EXPR, when its code is not zero. -/
def Fibre.op4 (f : Fibre) : Option (BitVec 6) :=
  match f.hints.vec with
  | some v => if v.op4 = 0 then none else some v.op4
  | none => none

/-- EXPR.xN (R215): Evaluates expression entry xN on each FP32 lane. -/
def execExpr (h : Hdr) (x : BitVec 3) (d : BitVec 6) (a : BitVec 6) (b : BitVec 6) (s : State) :
    Host.Outcome State Fault Refusal :=
  runWord h.e h.pg h.pn true (fun s f =>
    let op4 := (f.op4.map fun c => (⟨4, c, .src⟩ : Opd)).toList
    withOpds (⟨1, d, .dst⟩ :: ⟨1, d, .src⟩ :: f.srcsAB a b ++ op4) f.ksrcBad (fun s f =>
      match (s.teamOf f).elim none (fun t => nth none t.exprs x.toNat) with
      | none => trapOwn s f 0x0B (BitVec.ofNat 64 x.toNat)
      | some entry =>
        let va := s.srcA f a
        let vb := s.srcB f b
        let vd := f.src d
        let ins := fun (i k : Nat) =>
          match k with
          | 0 => laneU 32 va i
          | 1 => laneU 32 vb i
          | 2 => laneU 32 vd i
          | _ => f.op4.elim 0 fun c => laneU 32 (f.src c) i
        let r := f.lanes 32 vd (fun i => exprEval f.rounding entry (ins i))
        .next s ((f.setFlags r.2).writeFixed d r.1)) s f) s

end Sys2Proof.Machine
end

