-- ==== Sys2Proof/Machine/VFloat.lean ====
section
/-! DEFINITION. Floating-point words: FADD, FMUL, FMINMAX and FCMP (R206 to R208). -/

namespace Sys2Proof.Machine

/-- ADD_S2 (R206): FP32 lane addition. -/
def execAddS2 (h : Hdr) (d : BitVec 6) (a : BitVec 6) (b : BitVec 6) (s : State) :
    Host.Outcome State Fault Refusal :=
  vecAB h 32 false d a b (fun f x y _ i => fp32.addR f.rounding (laneU 32 x i) (laneU 32 y i)) s

/-- ADD_H4 (R206): FP16 lane addition. -/
def execAddH4 (h : Hdr) (d : BitVec 6) (a : BitVec 6) (b : BitVec 6) (s : State) :
    Host.Outcome State Fault Refusal :=
  vecAB h 16 false d a b (fun f x y _ i => fp16.addR f.rounding (laneU 16 x i) (laneU 16 y i)) s

/-- ADD_BH4 (R206): BF16 lane addition. -/
def execAddBh4 (h : Hdr) (d : BitVec 6) (a : BitVec 6) (b : BitVec 6) (s : State) :
    Host.Outcome State Fault Refusal :=
  vecAB h 16 false d a b (fun f x y _ i => bf16.addR f.rounding (laneU 16 x i) (laneU 16 y i)) s

/-- SUB_S2 (R206): FP32 lane subtraction. -/
def execSubS2 (h : Hdr) (d : BitVec 6) (a : BitVec 6) (b : BitVec 6) (s : State) :
    Host.Outcome State Fault Refusal :=
  vecAB h 32 false d a b (fun f x y _ i => fp32.subR f.rounding (laneU 32 x i) (laneU 32 y i)) s

/-- SUB_H4 (R206): FP16 lane subtraction. -/
def execSubH4 (h : Hdr) (d : BitVec 6) (a : BitVec 6) (b : BitVec 6) (s : State) :
    Host.Outcome State Fault Refusal :=
  vecAB h 16 false d a b (fun f x y _ i => fp16.subR f.rounding (laneU 16 x i) (laneU 16 y i)) s

/-- SUB_BH4 (R206): BF16 lane subtraction. -/
def execSubBh4 (h : Hdr) (d : BitVec 6) (a : BitVec 6) (b : BitVec 6) (s : State) :
    Host.Outcome State Fault Refusal :=
  vecAB h 16 false d a b (fun f x y _ i => bf16.subR f.rounding (laneU 16 x i) (laneU 16 y i)) s

/-- MUL_S2 (R206): FP32 lane multiplication. -/
def execMulS2 (h : Hdr) (d : BitVec 6) (a : BitVec 6) (b : BitVec 6) (s : State) :
    Host.Outcome State Fault Refusal :=
  vecAB h 32 false d a b (fun f x y _ i => fp32.mulR f.rounding (laneU 32 x i) (laneU 32 y i)) s

/-- MUL_H4 (R206): FP16 lane multiplication. -/
def execMulH4 (h : Hdr) (d : BitVec 6) (a : BitVec 6) (b : BitVec 6) (s : State) :
    Host.Outcome State Fault Refusal :=
  vecAB h 16 false d a b (fun f x y _ i => fp16.mulR f.rounding (laneU 16 x i) (laneU 16 y i)) s

/-- MUL_BH4 (R206): BF16 lane multiplication. -/
def execMulBh4 (h : Hdr) (d : BitVec 6) (a : BitVec 6) (b : BitVec 6) (s : State) :
    Host.Outcome State Fault Refusal :=
  vecAB h 16 false d a b (fun f x y _ i => bf16.mulR f.rounding (laneU 16 x i) (laneU 16 y i)) s

/-- FMA_S2 (R206): FP32 fused multiply-add into D. -/
def execFmaS2 (h : Hdr) (d : BitVec 6) (a : BitVec 6) (b : BitVec 6) (s : State) :
    Host.Outcome State Fault Refusal :=
  vecAB h 32 true d a b (fun f x y o i => fp32.fmaR f.rounding (laneU 32 o i) (laneU 32 x i) (laneU 32 y i)) s

/-- FMA_H4 (R206): FP16 fused multiply-add into D. -/
def execFmaH4 (h : Hdr) (d : BitVec 6) (a : BitVec 6) (b : BitVec 6) (s : State) :
    Host.Outcome State Fault Refusal :=
  vecAB h 16 true d a b (fun f x y o i => fp16.fmaR f.rounding (laneU 16 o i) (laneU 16 x i) (laneU 16 y i)) s

/-- FMA_BH4 (R206): BF16 fused multiply-add into D. -/
def execFmaBh4 (h : Hdr) (d : BitVec 6) (a : BitVec 6) (b : BitVec 6) (s : State) :
    Host.Outcome State Fault Refusal :=
  vecAB h 16 true d a b (fun f x y o i => bf16.fmaR f.rounding (laneU 16 o i) (laneU 16 x i) (laneU 16 y i)) s

/-- FMS_S2 (R206): FP32 fused d minus a times b. -/
def execFmsS2 (h : Hdr) (d : BitVec 6) (a : BitVec 6) (b : BitVec 6) (s : State) :
    Host.Outcome State Fault Refusal :=
  vecAB h 32 true d a b (fun f x y o i => fp32.fmsR f.rounding (laneU 32 o i) (laneU 32 x i) (laneU 32 y i)) s

/-- FNMA_S2 (R206): FP32 negated fused multiply-add. -/
def execFnmaS2 (h : Hdr) (d : BitVec 6) (a : BitVec 6) (b : BitVec 6) (s : State) :
    Host.Outcome State Fault Refusal :=
  vecAB h 32 true d a b (fun f x y o i => fp32.fnmaR f.rounding (laneU 32 o i) (laneU 32 x i) (laneU 32 y i)) s

/-- MIN_S2 (R207): FP32 minimumNumber. -/
def execMinS2 (h : Hdr) (d : BitVec 6) (a : BitVec 6) (b : BitVec 6) (s : State) :
    Host.Outcome State Fault Refusal :=
  vecAB h 32 false d a b (fun _ x y _ i => fp32.minMax false (laneU 32 x i) (laneU 32 y i)) s

/-- MIN_H4 (R207): FP16 minimumNumber. -/
def execMinH4 (h : Hdr) (d : BitVec 6) (a : BitVec 6) (b : BitVec 6) (s : State) :
    Host.Outcome State Fault Refusal :=
  vecAB h 16 false d a b (fun _ x y _ i => fp16.minMax false (laneU 16 x i) (laneU 16 y i)) s

/-- MIN_BH4 (R207): BF16 minimumNumber. -/
def execMinBh4 (h : Hdr) (d : BitVec 6) (a : BitVec 6) (b : BitVec 6) (s : State) :
    Host.Outcome State Fault Refusal :=
  vecAB h 16 false d a b (fun _ x y _ i => bf16.minMax false (laneU 16 x i) (laneU 16 y i)) s

/-- MAX_S2 (R207): FP32 maximumNumber. -/
def execMaxS2 (h : Hdr) (d : BitVec 6) (a : BitVec 6) (b : BitVec 6) (s : State) :
    Host.Outcome State Fault Refusal :=
  vecAB h 32 false d a b (fun _ x y _ i => fp32.minMax true (laneU 32 x i) (laneU 32 y i)) s

/-- MAX_H4 (R207): FP16 maximumNumber. -/
def execMaxH4 (h : Hdr) (d : BitVec 6) (a : BitVec 6) (b : BitVec 6) (s : State) :
    Host.Outcome State Fault Refusal :=
  vecAB h 16 false d a b (fun _ x y _ i => fp16.minMax true (laneU 16 x i) (laneU 16 y i)) s

/-- MAX_BH4 (R207): BF16 maximumNumber. -/
def execMaxBh4 (h : Hdr) (d : BitVec 6) (a : BitVec 6) (b : BitVec 6) (s : State) :
    Host.Outcome State Fault Refusal :=
  vecAB h 16 false d a b (fun _ x y _ i => bf16.minMax true (laneU 16 x i) (laneU 16 y i)) s

/-- ABS_S2 (R207): FP32 absolute value. -/
def execAbsS2 (h : Hdr) (d : BitVec 6) (a : BitVec 6) (s : State) :
    Host.Outcome State Fault Refusal :=
  vecA h 32 false [] d a (fun _ x _ i => (fp32.absR (laneU 32 x i), 0)) s

/-- NEG_S2 (R207): FP32 negation. -/
def execNegS2 (h : Hdr) (d : BitVec 6) (a : BitVec 6) (s : State) :
    Host.Outcome State Fault Refusal :=
  vecA h 32 false [] d a (fun _ x _ i => (fp32.negR (laneU 32 x i), 0)) s

/-- A lane of FCMP: all ones or zero, with IV (R208). -/
def fcmpLane (F : FpFmt) (w : Nat) (c : FpCond) (x y : Word) (i : Nat) : Nat × Word :=
  let r := F.compare c (laneU w x i) (laneU w y i)
  ((boolLane w r.1).1, r.2)

/-- EQ_S2 (R208): FP32 equality mask. -/
def execEqS2 (h : Hdr) (d : BitVec 6) (a : BitVec 6) (b : BitVec 6) (s : State) :
    Host.Outcome State Fault Refusal :=
  vecAB h 32 false d a b (fun _ x y _ i => fcmpLane fp32 32 .eq x y i) s

/-- EQ_H4 (R208): FP16 equality mask. -/
def execEqH4 (h : Hdr) (d : BitVec 6) (a : BitVec 6) (b : BitVec 6) (s : State) :
    Host.Outcome State Fault Refusal :=
  vecAB h 16 false d a b (fun _ x y _ i => fcmpLane fp16 16 .eq x y i) s

/-- LT_S2 (R208): FP32 less-than mask. -/
def execLtS2 (h : Hdr) (d : BitVec 6) (a : BitVec 6) (b : BitVec 6) (s : State) :
    Host.Outcome State Fault Refusal :=
  vecAB h 32 false d a b (fun _ x y _ i => fcmpLane fp32 32 .lt x y i) s

/-- LT_H4 (R208): FP16 less-than mask. -/
def execLtH4 (h : Hdr) (d : BitVec 6) (a : BitVec 6) (b : BitVec 6) (s : State) :
    Host.Outcome State Fault Refusal :=
  vecAB h 16 false d a b (fun _ x y _ i => fcmpLane fp16 16 .lt x y i) s

/-- LE_S2 (R208): FP32 less-or-equal mask. -/
def execLeS2 (h : Hdr) (d : BitVec 6) (a : BitVec 6) (b : BitVec 6) (s : State) :
    Host.Outcome State Fault Refusal :=
  vecAB h 32 false d a b (fun _ x y _ i => fcmpLane fp32 32 .le x y i) s

/-- LE_H4 (R208): FP16 less-or-equal mask. -/
def execLeH4 (h : Hdr) (d : BitVec 6) (a : BitVec 6) (b : BitVec 6) (s : State) :
    Host.Outcome State Fault Refusal :=
  vecAB h 16 false d a b (fun _ x y _ i => fcmpLane fp16 16 .le x y i) s

/-- UN_S2 (R208): FP32 unordered mask. -/
def execUnS2 (h : Hdr) (d : BitVec 6) (a : BitVec 6) (b : BitVec 6) (s : State) :
    Host.Outcome State Fault Refusal :=
  vecAB h 32 false d a b (fun _ x y _ i => fcmpLane fp32 32 .un x y i) s

/-- UN_H4 (R208): FP16 unordered mask. -/
def execUnH4 (h : Hdr) (d : BitVec 6) (a : BitVec 6) (b : BitVec 6) (s : State) :
    Host.Outcome State Fault Refusal :=
  vecAB h 16 false d a b (fun _ x y _ i => fcmpLane fp16 16 .un x y i) s

end Sys2Proof.Machine
end

