-- ==== Sys2Proof/Machine/VInt.lean ====
section
/-! DEFINITION. Packed integer words: VADD, VSUB, VMUL, VSHIFT, VSHIFTI, VMINMAX, VCMP and VPERM (R201 to R205). -/

namespace Sys2Proof.Machine

/-- ADD_B (R201): Packed 8-bit wrapping add. -/
def execAddB (h : Hdr) (d : BitVec 6) (a : BitVec 6) (b : BitVec 6) (s : State) :
    Host.Outcome State Fault Refusal :=
  vecAB h 8 false d a b (fun _ x y _ i => wrapLane 8 ((laneU 8 x i : Int) + (laneU 8 y i : Int))) s

/-- ADD_H (R201): Packed 16-bit wrapping add. -/
def execAddH (h : Hdr) (d : BitVec 6) (a : BitVec 6) (b : BitVec 6) (s : State) :
    Host.Outcome State Fault Refusal :=
  vecAB h 16 false d a b (fun _ x y _ i => wrapLane 16 ((laneU 16 x i : Int) + (laneU 16 y i : Int))) s

/-- ADD_W (R201): Packed 32-bit wrapping add. -/
def execAddW (h : Hdr) (d : BitVec 6) (a : BitVec 6) (b : BitVec 6) (s : State) :
    Host.Outcome State Fault Refusal :=
  vecAB h 32 false d a b (fun _ x y _ i => wrapLane 32 ((laneU 32 x i : Int) + (laneU 32 y i : Int))) s

/-- ADDS_B (R201): Packed signed saturating 8-bit add. -/
def execAddsB (h : Hdr) (d : BitVec 6) (a : BitVec 6) (b : BitVec 6) (s : State) :
    Host.Outcome State Fault Refusal :=
  vecAB h 8 false d a b (fun _ x y _ i => satLane 8 (laneS 8 x i + laneS 8 y i)) s

/-- ADDS_H (R201): Packed signed saturating 16-bit add. -/
def execAddsH (h : Hdr) (d : BitVec 6) (a : BitVec 6) (b : BitVec 6) (s : State) :
    Host.Outcome State Fault Refusal :=
  vecAB h 16 false d a b (fun _ x y _ i => satLane 16 (laneS 16 x i + laneS 16 y i)) s

/-- ADDSU_B (R201): Packed unsigned saturating 8-bit add. -/
def execAddsuB (h : Hdr) (d : BitVec 6) (a : BitVec 6) (b : BitVec 6) (s : State) :
    Host.Outcome State Fault Refusal :=
  vecAB h 8 false d a b (fun _ x y _ i => satuLane 8 ((laneU 8 x i : Int) + (laneU 8 y i : Int))) s

/-- ADDSU_H (R201): Packed unsigned saturating 16-bit add. -/
def execAddsuH (h : Hdr) (d : BitVec 6) (a : BitVec 6) (b : BitVec 6) (s : State) :
    Host.Outcome State Fault Refusal :=
  vecAB h 16 false d a b (fun _ x y _ i => satuLane 16 ((laneU 16 x i : Int) + (laneU 16 y i : Int))) s

/-- AVGR_H (R201): Packed rounding average of signed halves. -/
def execAvgrH (h : Hdr) (d : BitVec 6) (a : BitVec 6) (b : BitVec 6) (s : State) :
    Host.Outcome State Fault Refusal :=
  vecAB h 16 false d a b (fun _ x y _ i => wrapLane 16 ((laneS 16 x i + laneS 16 y i + 1) / 2)) s

/-- SUB_B (R201): Packed 8-bit wrapping subtract. -/
def execSubB (h : Hdr) (d : BitVec 6) (a : BitVec 6) (b : BitVec 6) (s : State) :
    Host.Outcome State Fault Refusal :=
  vecAB h 8 false d a b (fun _ x y _ i => wrapLane 8 ((laneU 8 x i : Int) - (laneU 8 y i : Int))) s

/-- SUB_H (R201): Packed 16-bit wrapping subtract. -/
def execSubH (h : Hdr) (d : BitVec 6) (a : BitVec 6) (b : BitVec 6) (s : State) :
    Host.Outcome State Fault Refusal :=
  vecAB h 16 false d a b (fun _ x y _ i => wrapLane 16 ((laneU 16 x i : Int) - (laneU 16 y i : Int))) s

/-- SUB_W (R201): Packed 32-bit wrapping subtract. -/
def execSubW (h : Hdr) (d : BitVec 6) (a : BitVec 6) (b : BitVec 6) (s : State) :
    Host.Outcome State Fault Refusal :=
  vecAB h 32 false d a b (fun _ x y _ i => wrapLane 32 ((laneU 32 x i : Int) - (laneU 32 y i : Int))) s

/-- SUBS_B (R201): Packed signed saturating 8-bit subtract. -/
def execSubsB (h : Hdr) (d : BitVec 6) (a : BitVec 6) (b : BitVec 6) (s : State) :
    Host.Outcome State Fault Refusal :=
  vecAB h 8 false d a b (fun _ x y _ i => satLane 8 (laneS 8 x i - laneS 8 y i)) s

/-- SUBS_H (R201): Packed signed saturating 16-bit subtract. -/
def execSubsH (h : Hdr) (d : BitVec 6) (a : BitVec 6) (b : BitVec 6) (s : State) :
    Host.Outcome State Fault Refusal :=
  vecAB h 16 false d a b (fun _ x y _ i => satLane 16 (laneS 16 x i - laneS 16 y i)) s

/-- SUBSU_B (R201): Packed unsigned saturating 8-bit subtract. -/
def execSubsuB (h : Hdr) (d : BitVec 6) (a : BitVec 6) (b : BitVec 6) (s : State) :
    Host.Outcome State Fault Refusal :=
  vecAB h 8 false d a b (fun _ x y _ i => satuLane 8 ((laneU 8 x i : Int) - (laneU 8 y i : Int))) s

/-- SUBSU_H (R201): Packed unsigned saturating 16-bit subtract. -/
def execSubsuH (h : Hdr) (d : BitVec 6) (a : BitVec 6) (b : BitVec 6) (s : State) :
    Host.Outcome State Fault Refusal :=
  vecAB h 16 false d a b (fun _ x y _ i => satuLane 16 ((laneU 16 x i : Int) - (laneU 16 y i : Int))) s

/-- ABSDF_H (R201): Packed absolute difference of signed halves. -/
def execAbsdfH (h : Hdr) (d : BitVec 6) (a : BitVec 6) (b : BitVec 6) (s : State) :
    Host.Outcome State Fault Refusal :=
  vecAB h 16 false d a b (fun _ x y _ i => ((laneS 16 x i - laneS 16 y i).natAbs, 0)) s

/-- MULL_H (R202): Packed low 16 bits of half products. -/
def execMullH (h : Hdr) (d : BitVec 6) (a : BitVec 6) (b : BitVec 6) (s : State) :
    Host.Outcome State Fault Refusal :=
  vecAB h 16 false d a b (fun _ x y _ i => wrapLane 16 (laneS 16 x i * laneS 16 y i)) s

/-- MULH_H (R202): Packed high 16 bits of signed half products. -/
def execMulhH (h : Hdr) (d : BitVec 6) (a : BitVec 6) (b : BitVec 6) (s : State) :
    Host.Outcome State Fault Refusal :=
  vecAB h 16 false d a b (fun _ x y _ i => wrapLane 16 (laneS 16 x i * laneS 16 y i / 2 ^ 16)) s

/-- MULHR_H (R202): Packed rounded high half products. -/
def execMulhrH (h : Hdr) (d : BitVec 6) (a : BitVec 6) (b : BitVec 6) (s : State) :
    Host.Outcome State Fault Refusal :=
  vecAB h 16 false d a b (fun _ x y _ i => wrapLane 16 ((laneS 16 x i * laneS 16 y i + 2 ^ 15) / 2 ^ 16)) s

/-- MULL_W (R202): Packed low 32 bits of word products. -/
def execMullW (h : Hdr) (d : BitVec 6) (a : BitVec 6) (b : BitVec 6) (s : State) :
    Host.Outcome State Fault Refusal :=
  vecAB h 32 false d a b (fun _ x y _ i => wrapLane 32 (laneS 32 x i * laneS 32 y i)) s

/-- A sum of products of `n` consecutive signed lanes of width `w` from lane `k` on. -/
def dotS (w : Nat) (x y : Word) (k n : Nat) : Int :=
  (upFrom k n).foldl (fun acc j => acc + laneS w x j * laneS w y j) 0

/-- DOT2_H (R202): Accumulates signed half-pair dot products with saturation. -/
def execDot2H (h : Hdr) (d : BitVec 6) (a : BitVec 6) (b : BitVec 6) (s : State) :
    Host.Outcome State Fault Refusal :=
  vecAB h 32 true d a b (fun _ x y o i => satLane 32 (laneS 32 o i + dotS 16 x y (2 * i) 2)) s

/-- DOT4_B (R202): Accumulates signed byte-quad dot products with saturation. -/
def execDot4B (h : Hdr) (d : BitVec 6) (a : BitVec 6) (b : BitVec 6) (s : State) :
    Host.Outcome State Fault Refusal :=
  vecAB h 32 true d a b (fun _ x y o i => satLane 32 (laneS 32 o i + dotS 8 x y (4 * i) 4)) s

/-- DOT2U_B (R202): Accumulates unsigned byte-pair dot products. -/
def execDot2uB (h : Hdr) (d : BitVec 6) (a : BitVec 6) (b : BitVec 6) (s : State) :
    Host.Outcome State Fault Refusal :=
  vecAB h 16 true d a b (fun _ x y o i => satuLane 16
    ((laneU 16 o i + laneU 8 x (2 * i) * laneU 8 y (2 * i) + laneU 8 x (2 * i + 1) * laneU 8 y (2 * i + 1) : Nat) : Int)) s

/-- MADL_H (R202): Packed half multiply-add, low 16 bits. -/
def execMadlH (h : Hdr) (d : BitVec 6) (a : BitVec 6) (b : BitVec 6) (s : State) :
    Host.Outcome State Fault Refusal :=
  vecAB h 16 true d a b (fun _ x y o i => wrapLane 16 (laneS 16 o i + laneS 16 x i * laneS 16 y i)) s

/-- SHL_H (R203): Per-lane half left shift. -/
def execShlH (h : Hdr) (d : BitVec 6) (a : BitVec 6) (b : BitVec 6) (s : State) :
    Host.Outcome State Fault Refusal :=
  vecAB h 16 false d a b (fun _ x y _ i => wrapLane 16 ((laneU 16 x i : Int) * 2 ^ (laneU 16 y i % 16))) s

/-- SHR_H (R203): Per-lane half logical right shift. -/
def execShrH (h : Hdr) (d : BitVec 6) (a : BitVec 6) (b : BitVec 6) (s : State) :
    Host.Outcome State Fault Refusal :=
  vecAB h 16 false d a b (fun _ x y _ i => (laneU 16 x i / 2 ^ (laneU 16 y i % 16), 0)) s

/-- SAR_H (R203): Per-lane half arithmetic right shift. -/
def execSarH (h : Hdr) (d : BitVec 6) (a : BitVec 6) (b : BitVec 6) (s : State) :
    Host.Outcome State Fault Refusal :=
  vecAB h 16 false d a b (fun _ x y _ i => wrapLane 16 (laneS 16 x i / 2 ^ (laneU 16 y i % 16))) s

/-- SARR_H (R203): Per-lane half rounding arithmetic right shift. -/
def execSarrH (h : Hdr) (d : BitVec 6) (a : BitVec 6) (b : BitVec 6) (s : State) :
    Host.Outcome State Fault Refusal :=
  vecAB h 16 false d a b (fun _ x y _ i => wrapLane 16 (sarRound (laneS 16 x i) (laneU 16 y i % 16))) s

/-- SHL_W (R203): Per-lane word left shift. -/
def execShlW (h : Hdr) (d : BitVec 6) (a : BitVec 6) (b : BitVec 6) (s : State) :
    Host.Outcome State Fault Refusal :=
  vecAB h 32 false d a b (fun _ x y _ i => wrapLane 32 ((laneU 32 x i : Int) * 2 ^ (laneU 32 y i % 32))) s

/-- SAR_W (R203): Per-lane word arithmetic right shift. -/
def execSarW (h : Hdr) (d : BitVec 6) (a : BitVec 6) (b : BitVec 6) (s : State) :
    Host.Outcome State Fault Refusal :=
  vecAB h 32 false d a b (fun _ x y _ i => wrapLane 32 (laneS 32 x i / 2 ^ (laneU 32 y i % 32))) s

/-- SARR_W (R203): Per-lane word rounding arithmetic right shift. -/
def execSarrW (h : Hdr) (d : BitVec 6) (a : BitVec 6) (b : BitVec 6) (s : State) :
    Host.Outcome State Fault Refusal :=
  vecAB h 32 false d a b (fun _ x y _ i => wrapLane 32 (sarRound (laneS 32 x i) (laneU 32 y i % 32))) s

/-- NARROWS_WH (R203): Narrows four words of SA and SB to saturated halves. -/
def execNarrowsWh (h : Hdr) (d : BitVec 6) (a : BitVec 6) (b : BitVec 6) (s : State) :
    Host.Outcome State Fault Refusal :=
  vecAB h 16 false d a b (fun _ x y _ i => satLane 16 (if i < 2 then laneS 32 x i else laneS 32 y (i - 2))) s

/-- FIELD 3 when an immediate amount reaches the lane width (R203). -/
def shiftBad (i : BitVec 6) (w : Nat) : List Nat := if w ≤ i.toNat then [3] else []

/-- VSHIFTI_SHL_H (R203): Half left shift by an immediate. -/
def execVshiftiShlH (h : Hdr) (d : BitVec 6) (a : BitVec 6) (i : BitVec 6) (s : State) :
    Host.Outcome State Fault Refusal :=
  vecA h 16 false (shiftBad i 16) d a (fun _ x _ j => wrapLane 16 ((laneU 16 x j : Int) * 2 ^ i.toNat)) s

/-- VSHIFTI_SHR_H (R203): Half logical right shift by an immediate. -/
def execVshiftiShrH (h : Hdr) (d : BitVec 6) (a : BitVec 6) (i : BitVec 6) (s : State) :
    Host.Outcome State Fault Refusal :=
  vecA h 16 false (shiftBad i 16) d a (fun _ x _ j => (laneU 16 x j / 2 ^ i.toNat, 0)) s

/-- VSHIFTI_SAR_H (R203): Half arithmetic right shift by an immediate. -/
def execVshiftiSarH (h : Hdr) (d : BitVec 6) (a : BitVec 6) (i : BitVec 6) (s : State) :
    Host.Outcome State Fault Refusal :=
  vecA h 16 false (shiftBad i 16) d a (fun _ x _ j => wrapLane 16 (laneS 16 x j / 2 ^ i.toNat)) s

/-- VSHIFTI_SARR_H (R203): Half rounding arithmetic right shift by an immediate. -/
def execVshiftiSarrH (h : Hdr) (d : BitVec 6) (a : BitVec 6) (i : BitVec 6) (s : State) :
    Host.Outcome State Fault Refusal :=
  vecA h 16 false (shiftBad i 16) d a (fun _ x _ j => wrapLane 16 (sarRound (laneS 16 x j) i.toNat)) s

/-- VSHIFTI_SHL_W (R203): Word left shift by an immediate. -/
def execVshiftiShlW (h : Hdr) (d : BitVec 6) (a : BitVec 6) (i : BitVec 6) (s : State) :
    Host.Outcome State Fault Refusal :=
  vecA h 32 false (shiftBad i 32) d a (fun _ x _ j => wrapLane 32 ((laneU 32 x j : Int) * 2 ^ i.toNat)) s

/-- VSHIFTI_SAR_W (R203): Word arithmetic right shift by an immediate. -/
def execVshiftiSarW (h : Hdr) (d : BitVec 6) (a : BitVec 6) (i : BitVec 6) (s : State) :
    Host.Outcome State Fault Refusal :=
  vecA h 32 false (shiftBad i 32) d a (fun _ x _ j => wrapLane 32 (laneS 32 x j / 2 ^ i.toNat)) s

/-- VSHIFTI_SARR_W (R203): Word rounding arithmetic right shift by an immediate. -/
def execVshiftiSarrW (h : Hdr) (d : BitVec 6) (a : BitVec 6) (i : BitVec 6) (s : State) :
    Host.Outcome State Fault Refusal :=
  vecA h 32 false (shiftBad i 32) d a (fun _ x _ j => wrapLane 32 (sarRound (laneS 32 x j) i.toNat)) s

/-- VSHIFTI_NARROWS_WH (R203): Shift-in narrowing of two rounded-shifted words into halves. -/
def execVshiftiNarrowsWh (h : Hdr) (d : BitVec 6) (a : BitVec 6) (i : BitVec 6) (s : State) :
    Host.Outcome State Fault Refusal :=
  vecA h 16 true (shiftBad i 32) d a (fun _ x o j => 
    if j < 2 then satLane 16 (sarRound (laneS 32 x j) i.toNat) else (laneU 16 o (j - 2), 0)) s

/-- MIN_H (R204): Packed signed half minimum. -/
def execMinH (h : Hdr) (d : BitVec 6) (a : BitVec 6) (b : BitVec 6) (s : State) :
    Host.Outcome State Fault Refusal :=
  vecAB h 16 false d a b (fun _ x y _ i => wrapLane 16 (min (laneS 16 x i) (laneS 16 y i))) s

/-- MIN_B (R204): Packed signed byte minimum. -/
def execMinB (h : Hdr) (d : BitVec 6) (a : BitVec 6) (b : BitVec 6) (s : State) :
    Host.Outcome State Fault Refusal :=
  vecAB h 8 false d a b (fun _ x y _ i => wrapLane 8 (min (laneS 8 x i) (laneS 8 y i))) s

/-- MIN_W (R204): Packed signed word minimum. -/
def execMinW (h : Hdr) (d : BitVec 6) (a : BitVec 6) (b : BitVec 6) (s : State) :
    Host.Outcome State Fault Refusal :=
  vecAB h 32 false d a b (fun _ x y _ i => wrapLane 32 (min (laneS 32 x i) (laneS 32 y i))) s

/-- MINU_B (R204): Packed unsigned byte minimum. -/
def execMinuB (h : Hdr) (d : BitVec 6) (a : BitVec 6) (b : BitVec 6) (s : State) :
    Host.Outcome State Fault Refusal :=
  vecAB h 8 false d a b (fun _ x y _ i => (min (laneU 8 x i) (laneU 8 y i), 0)) s

/-- MAX_H (R204): Packed signed half maximum. -/
def execMaxH (h : Hdr) (d : BitVec 6) (a : BitVec 6) (b : BitVec 6) (s : State) :
    Host.Outcome State Fault Refusal :=
  vecAB h 16 false d a b (fun _ x y _ i => wrapLane 16 (max (laneS 16 x i) (laneS 16 y i))) s

/-- MAX_B (R204): Packed signed byte maximum. -/
def execMaxB (h : Hdr) (d : BitVec 6) (a : BitVec 6) (b : BitVec 6) (s : State) :
    Host.Outcome State Fault Refusal :=
  vecAB h 8 false d a b (fun _ x y _ i => wrapLane 8 (max (laneS 8 x i) (laneS 8 y i))) s

/-- MAX_W (R204): Packed signed word maximum. -/
def execMaxW (h : Hdr) (d : BitVec 6) (a : BitVec 6) (b : BitVec 6) (s : State) :
    Host.Outcome State Fault Refusal :=
  vecAB h 32 false d a b (fun _ x y _ i => wrapLane 32 (max (laneS 32 x i) (laneS 32 y i))) s

/-- MAXU_B (R204): Packed unsigned byte maximum. -/
def execMaxuB (h : Hdr) (d : BitVec 6) (a : BitVec 6) (b : BitVec 6) (s : State) :
    Host.Outcome State Fault Refusal :=
  vecAB h 8 false d a b (fun _ x y _ i => (max (laneU 8 x i) (laneU 8 y i), 0)) s

/-- EQ_B (R204): Packed byte equality mask. -/
def execEqB (h : Hdr) (d : BitVec 6) (a : BitVec 6) (b : BitVec 6) (s : State) :
    Host.Outcome State Fault Refusal :=
  vecAB h 8 false d a b (fun _ x y _ i => boolLane 8 (laneU 8 x i == laneU 8 y i)) s

/-- EQ_H (R204): Packed half equality mask. -/
def execEqH (h : Hdr) (d : BitVec 6) (a : BitVec 6) (b : BitVec 6) (s : State) :
    Host.Outcome State Fault Refusal :=
  vecAB h 16 false d a b (fun _ x y _ i => boolLane 16 (laneU 16 x i == laneU 16 y i)) s

/-- EQ_W (R204): Packed word equality mask. -/
def execEqW (h : Hdr) (d : BitVec 6) (a : BitVec 6) (b : BitVec 6) (s : State) :
    Host.Outcome State Fault Refusal :=
  vecAB h 32 false d a b (fun _ x y _ i => boolLane 32 (laneU 32 x i == laneU 32 y i)) s

/-- GT_B (R204): Packed signed byte greater-than mask. -/
def execGtB (h : Hdr) (d : BitVec 6) (a : BitVec 6) (b : BitVec 6) (s : State) :
    Host.Outcome State Fault Refusal :=
  vecAB h 8 false d a b (fun _ x y _ i => boolLane 8 (decide (laneS 8 y i < laneS 8 x i))) s

/-- GT_H (R204): Packed signed half greater-than mask. -/
def execGtH (h : Hdr) (d : BitVec 6) (a : BitVec 6) (b : BitVec 6) (s : State) :
    Host.Outcome State Fault Refusal :=
  vecAB h 16 false d a b (fun _ x y _ i => boolLane 16 (decide (laneS 16 y i < laneS 16 x i))) s

/-- GT_W (R204): Packed signed word greater-than mask. -/
def execGtW (h : Hdr) (d : BitVec 6) (a : BitVec 6) (b : BitVec 6) (s : State) :
    Host.Outcome State Fault Refusal :=
  vecAB h 32 false d a b (fun _ x y _ i => boolLane 32 (decide (laneS 32 y i < laneS 32 x i))) s

/-- GTU_B (R204): Packed unsigned byte greater-than mask. -/
def execGtuB (h : Hdr) (d : BitVec 6) (a : BitVec 6) (b : BitVec 6) (s : State) :
    Host.Outcome State Fault Refusal :=
  vecAB h 8 false d a b (fun _ x y _ i => boolLane 8 (decide (laneU 8 y i < laneU 8 x i))) s

/-- GTU_H (R204): Packed unsigned half greater-than mask. -/
def execGtuH (h : Hdr) (d : BitVec 6) (a : BitVec 6) (b : BitVec 6) (s : State) :
    Host.Outcome State Fault Refusal :=
  vecAB h 16 false d a b (fun _ x y _ i => boolLane 16 (decide (laneU 16 y i < laneU 16 x i))) s

/-- SHUF_H (R205): Shuffles halves by per-lane selectors. -/
def execShufH (h : Hdr) (d : BitVec 6) (a : BitVec 6) (b : BitVec 6) (s : State) :
    Host.Outcome State Fault Refusal :=
  vecAB h 16 false d a b (fun _ x y _ i => 
    (if bitOf y (4 * i + 3) then 0 else laneU 16 x (laneU 4 y i % 4), 0)) s

/-- ZIPLO_H (R205): Interleaves the low halves of two registers. -/
def execZiploH (h : Hdr) (d : BitVec 6) (a : BitVec 6) (b : BitVec 6) (s : State) :
    Host.Outcome State Fault Refusal :=
  vecAB h 16 false d a b (fun _ x y _ i => (laneU 16 (if i % 2 = 0 then x else y) (i / 2), 0)) s

/-- ZIPHI_H (R205): Interleaves the high halves of two registers. -/
def execZiphiH (h : Hdr) (d : BitVec 6) (a : BitVec 6) (b : BitVec 6) (s : State) :
    Host.Outcome State Fault Refusal :=
  vecAB h 16 false d a b (fun _ x y _ i => (laneU 16 (if i % 2 = 0 then x else y) (2 + i / 2), 0)) s

/-- UNZIP_H (R205): De-interleaves even halves. -/
def execUnzipH (h : Hdr) (d : BitVec 6) (a : BitVec 6) (b : BitVec 6) (s : State) :
    Host.Outcome State Fault Refusal :=
  vecAB h 16 false d a b (fun _ x y _ i => (laneU 16 (if i < 2 then x else y) (2 * (i % 2)), 0)) s

/-- EXTZ_B (R205): Zero-extends four bytes to halves. -/
def execExtzB (h : Hdr) (d : BitVec 6) (a : BitVec 6) (b : BitVec 6) (s : State) :
    Host.Outcome State Fault Refusal :=
  vecAB h 16 false d a b (fun _ x y _ i => (laneU 8 x (4 * (laneU 1 y 0) + i), 0)) s

/-- EXTS_B (R205): Sign-extends four bytes to halves. -/
def execExtsB (h : Hdr) (d : BitVec 6) (a : BitVec 6) (b : BitVec 6) (s : State) :
    Host.Outcome State Fault Refusal :=
  vecAB h 16 false d a b (fun _ x y _ i => wrapLane 16 (laneS 8 x (4 * (laneU 1 y 0) + i))) s

/-- BCAST_H (R205): Broadcasts one half to every lane. -/
def execBcastH (h : Hdr) (d : BitVec 6) (a : BitVec 6) (b : BitVec 6) (s : State) :
    Host.Outcome State Fault Refusal :=
  vecAB h 16 false d a b (fun _ x y _ _ => (laneU 16 x (laneU 2 y 0), 0)) s

/-- INS_H (R205): Inserts a half into the old D. -/
def execInsH (h : Hdr) (d : BitVec 6) (a : BitVec 6) (b : BitVec 6) (s : State) :
    Host.Outcome State Fault Refusal :=
  vecAB h 16 true d a b (fun _ x y o i => (if i = laneU 2 y 0 then laneU 16 x 0 else laneU 16 o i, 0)) s

end Sys2Proof.Machine
end

