-- ==== Sys2Proof/Machine/Work.lean ====
section
/-! DEFINITION. WORK words (R390 to R397). -/

namespace Sys2Proof.Machine

/-- FIELD 0 for a worklist that is not the launch's (R370). -/
def State.wlBad (s : State) (f : Fibre) (w : BitVec 3) : List Nat :=
  match s.launchOf f with
  | some l => if l.field 39 1 / 2 % 2 = 1 ∧ l.field 126 1 = w.toNat then [] else [0]
  | none => [0]

/-- WPUSH and WPUSHS (R392): ENTRY inside the handler table; inside a task one entry of the buffer, else presented. A push
has no address, so the TVAL of its REGION_OVERFLOW is a free value (log 54). -/
def pushWord (promise : Bool) (h : Gd) (w : BitVec 3) (a b : BitVec 6) : State → Host.Outcome State Fault Refusal :=
  runWord true h.pg h.pn false fun s f =>
    withOpds [⟨2, a, .src⟩, ⟨3, b, .src⟩] (s.wlBad f w) (fun s f =>
      let x := f.src a
      let prio : W32 := x.setWidth 32
      let entry : W32 := (x >>> 32).setWidth 32
      if promise && f.inTask then taskFault s f 2
      else if (s.wl w.toNat).handlers.length ≤ entry.toNat then trapField s f 0x02 2
      else if f.inTask then
        if 16 ≤ f.region.length then .out (s.takeFresh.endFatal (f.overflow (Config.freeWord s.fresh)) 0x08 f.groupPc)
        else .next s { f with region := f.region ++ [.push w.toNat prio entry (f.src b)] }
      else
        commitPoint (fun s f =>
          if f.relHold.isSome then .stall
          else
            let uid := s.uid
            let s := s.presentPush f w.toNat prio entry (f.src b) (if promise then some (f.nextTicket 3) else none)
            match s.block { f with seq := f.seq + 1 } (.push uid) with
            | .out s => .out (s.tryPushes f.key)
            | o => o) s f) s f

/-- WPUSH (R392): Pushes a task, buffered inside a task. -/
def execWpush (h : Gd) (w : BitVec 3) (a : BitVec 6) (b : BitVec 6) (s : State) : Host.Outcome State Fault Refusal :=
  pushWord false h w a b s

/-- WPUSHS (R392): Pushes a task with a promise of its announcement. -/
def execWpushs (h : Gd) (w : BitVec 3) (a : BitVec 6) (b : BitVec 6) (s : State) : Host.Outcome State Fault Refusal :=
  pushWord true h w a b s

/-- The results of a pop written as a long-latency result (R144). -/
def popResult (d : Nat) (v v' : Word) (s : State) (f : Fibre) : State × Fibre :=
  ({ s with uid := s.uid + 1, m := { s.m with results := s.m.results ++ [⟨s.uid, f.key, [(d, v), (d + 1, v')], 0⟩] } },
   (f.await d s.uid).await (d + 1) s.uid)

/-- A delivered task (R380, R393): the region begins at the popping word; with DISPATCH the handler's run starts. -/
def deliverTask (t : HeldTask) (s : State) (f : Fibre) : WordOut :=
  let (s, f) := popResult t.d (taskWord t) t.payload s (f.beginTask t f.groupPc)
  if t.dispatch then .jump s f (s.handlerOf f t) else .next s f

/-- A pop in trap mode: BELAY_FAULT with REASON 5, which is fatal (R158, R391). It names no belay, so BL and GEN are free
(log 54). -/
def popFatal (s : State) (f : Fibre) : WordOut :=
  let v := (Config.freeWord s.fresh &&& 0xFFFFFFFF0000001F) ||| 0x500
  .out (s.takeFresh.endFatal (f.fatalCause 0x07 v) 0x07 f.groupPc)

/-- WPOP and WPOPW (R391, R393): the task kept for a restored fibre (R385), else one of the slice's, else the empty value
or a wait. -/
def popWord (wait : Bool) (e : Bool) (pg : BitVec 3) (pn : Bool) (w : BitVec 3) (d : BitVec 6) (k : Bool) :
    State → Host.Outcome State Fault Refusal :=
  runWord e pg pn false fun s f =>
    withOpds [⟨1, d, .longGroup 2⟩] (s.wlBad f w) (fun s f =>
      let wl := w.toNat
      if f.trapMode then popFatal s f
      else
        commitPoint (fun s f =>
          if f.relHold.isSome then .stall
          else
            match f.keptTask with
            | some t => deliverTask { t with d := d.toNat, dispatch := k } s f
            | none =>
              match s.eligible wl f.core with
              | t :: r =>
                let t := nth t (t :: r) (Config.freeNat s.fresh % (r.length + 1))
                deliverTask (t.held wl d.toNat k) ((s.moveTask wl t.uid (.running f.key)).takeFresh) f
              | [] =>
                let s := s.idleAt wl f.core
                if !wait || (s.wl wl).terminated then
                  let (s, f) := popResult d.toNat (BitVec.allOnes 64) 0 s f
                  .next s f
                else
                  s.block { f with spc := f.groupPc, rstart := f.rstack, rstartDepth := f.depth } (.wpopw wl d.toNat k)) s f) s f

/-- WPOP (R393): Pops an eligible task or returns the empty value. -/
def execWpop (h : Hdr) (w : BitVec 3) (d : BitVec 6) (k : Bool) (s : State) : Host.Outcome State Fault Refusal :=
  popWord false h.e h.pg h.pn w d k s

/-- WPOPW (R393): Pops an eligible task, waiting for one or for termination. -/
def execWpopw (h : Gd) (w : BitVec 3) (d : BitVec 6) (k : Bool) (s : State) : Host.Outcome State Fault Refusal :=
  popWord true true h.pg h.pn w d k s

/-- WDONE (R394): Ends the held task: its stores and pushes are issued, and the fibre waits for the pushes. -/
def execWdone (h : Gd) (w : BitVec 3) (s : State) : Host.Outcome State Fault Refusal :=
  runWord true h.pg h.pn false (fun s f =>
    withOpds [] (s.wlBad f w) (fun s f =>
      if f.trapMode || f.task.isNone then taskFault s f 4
      else if f.relHold.isSome || !(s.canCommit f) then .stall
      else
        let (s, f) := s.commit f
        match s.block f (.wdone w.toNat) with
        | .out s => .out (s.tryDone f.key)
        | o => o) s f) s

/-- WBOUND (R395): Sets Δ. -/
def execWbound (h : Hdr) (w : BitVec 3) (a : BitVec 6) (s : State) : Host.Outcome State Fault Refusal :=
  runWord h.e h.pg h.pn false (fun s f =>
    withOpds [⟨2, a, .src⟩] (s.wlBad f w) (fun s f =>
      let x := f.src a
      if f.inTask then taskFault s f 2
      else if bitsOf x 63 6 ≠ 0 then trapField s f 0x02 2
      else
        commitPoint (fun s f =>
          if f.relHold.isSome then .stall
          else .next (s.onWl w.toNat fun l => { l with delta := bitsOf x 5 0, oldDeltas := l.delta :: l.oldDeltas }) f) s f) s f) s

/-- WTERM (R396): Blocks until the worklist is TERMINATED. -/
def execWterm (h : Gd) (w : BitVec 3) (d : BitVec 6) (s : State) : Host.Outcome State Fault Refusal :=
  runWord true h.pg h.pn false (fun s f =>
    withOpds [⟨1, d, .long⟩] (s.wlBad f w) (fun s f =>
      commitPoint (fun s f =>
        if f.relHold.isSome then .stall
        else if (s.wl w.toNat).terminated then
          let uid := s.uid
          .next (s.addResult f d.toNat (s.wl w.toNat).terms 0) (f.await d.toNat uid)
        else s.block f (.wterm w.toNat d.toNat)) s f) s f) s

/-- What WSTAT reads (R397). -/
def State.wstat (s : State) (wl sel : Nat) : Word :=
  let w := s.wl wl
  let n := fun (p : TaskAt → Bool) => BitVec.ofNat 64 (w.tasks.filter fun t => p t.at_).length
  let opt := fun (o : Option Nat) => o.elim (BitVec.allOnes 64) (BitVec.ofNat 64)
  match sel with
  | 0 => n fun a => match a with | .queued _ => true | _ => false
  | 1 => n fun a => match a with | .spilled _ => true | _ => false
  | 2 => n fun a => match a with | .parked _ _ _ => true | _ => false
  | 3 => n fun a => match a with | .running _ => true | _ => false
  | 4 => opt (s.floor wl)
  | 5 => opt (s.horizonNow wl)
  | 6 => BitVec.ofNat 64 w.delta
  | 7 => BitVec.ofNat 64 w.accepted
  | 8 => BitVec.ofNat 64 w.completed
  | 9 => BitVec.ofNat 64 (w.terminations % 2 ^ 63)
  | 10 => BitVec.ofNat 64 w.lost
  | _ => BitVec.ofNat 64 ((upFrom 0 4).foldl (fun n d => n + w.dieChunks d) 0)

/-- WSTAT (R397): Reads a worklist statistic; commits outside a task only (R391). -/
def execWstat (h : Hdr) (w : BitVec 3) (d : BitVec 6) (b : BitVec 6) (s : State) : Host.Outcome State Fault Refusal :=
  runWord h.e h.pg h.pn false (fun s f =>
    withOpds [⟨1, d, .long⟩, ⟨3, b, .src⟩] (s.wlBad f w) (fun s f =>
      let sel := (f.src b).toNat
      let act := fun (s : State) (f : Fibre) =>
        let uid := s.uid
        WordOut.next (s.addResult f d.toNat (s.wstat w.toNat sel) 0) (f.await d.toNat uid)
      if 12 ≤ sel then trapField s f 0x02 3
      else if f.inTask then act s f
      else commitPoint (fun s f => if f.relHold.isSome then .stall else act s f) s f) s f) s

end Sys2Proof.Machine
end

