-- ==== Sys2Proof/Machine/Dispatch.lean ====
section
/-! DEFINITION. The meaning of each instruction: one arm per constructor of Instr. -/

namespace Sys2Proof.Machine

def exec (i : Instr) (s : State) : Host.Outcome State Fault Refusal :=
  match i with
  | .add h d a b => Sys2Proof.Machine.execAdd h d a b s
  | .sub h d a b => Sys2Proof.Machine.execSub h d a b s
  | .and h d a b => Sys2Proof.Machine.execAnd h d a b s
  | .or h d a b => Sys2Proof.Machine.execOr h d a b s
  | .xor h d a b => Sys2Proof.Machine.execXor h d a b s
  | .andn h d a b => Sys2Proof.Machine.execAndn h d a b s
  | .min h d a b => Sys2Proof.Machine.execMin h d a b s
  | .max h d a b => Sys2Proof.Machine.execMax h d a b s
  | .intiAdd h d a im => Sys2Proof.Machine.execIntiAdd h d a im s
  | .intiSub h d a im => Sys2Proof.Machine.execIntiSub h d a im s
  | .intiAnd h d a im => Sys2Proof.Machine.execIntiAnd h d a im s
  | .intiOr h d a im => Sys2Proof.Machine.execIntiOr h d a im s
  | .intiXor h d a im => Sys2Proof.Machine.execIntiXor h d a im s
  | .intiAndn h d a im => Sys2Proof.Machine.execIntiAndn h d a im s
  | .intiMin h d a im => Sys2Proof.Machine.execIntiMin h d a im s
  | .intiMax h d a im => Sys2Proof.Machine.execIntiMax h d a im s
  | .minu h d a b => Sys2Proof.Machine.execMinu h d a b s
  | .maxu h d a b => Sys2Proof.Machine.execMaxu h d a b s
  | .addw h d a b => Sys2Proof.Machine.execAddw h d a b s
  | .subw h d a b => Sys2Proof.Machine.execSubw h d a b s
  | .absd h d a b => Sys2Proof.Machine.execAbsd h d a b s
  | .clz h d a => Sys2Proof.Machine.execClz h d a s
  | .ctz h d a => Sys2Proof.Machine.execCtz h d a s
  | .popc h d a => Sys2Proof.Machine.execPopc h d a s
  | .shl h d a b => Sys2Proof.Machine.execShl h d a b s
  | .shr h d a b => Sys2Proof.Machine.execShr h d a b s
  | .sar h d a b => Sys2Proof.Machine.execSar h d a b s
  | .rol h d a b => Sys2Proof.Machine.execRol h d a b s
  | .shlw h d a b => Sys2Proof.Machine.execShlw h d a b s
  | .shrw h d a b => Sys2Proof.Machine.execShrw h d a b s
  | .sarw h d a b => Sys2Proof.Machine.execSarw h d a b s
  | .brev h d a => Sys2Proof.Machine.execBrev h d a s
  | .shiftiShl h d a im => Sys2Proof.Machine.execShiftiShl h d a im s
  | .shiftiShr h d a im => Sys2Proof.Machine.execShiftiShr h d a im s
  | .shiftiSar h d a im => Sys2Proof.Machine.execShiftiSar h d a im s
  | .shiftiRol h d a im => Sys2Proof.Machine.execShiftiRol h d a im s
  | .shiftiShlw h d a im => Sys2Proof.Machine.execShiftiShlw h d a im s
  | .shiftiShrw h d a im => Sys2Proof.Machine.execShiftiShrw h d a im s
  | .shiftiSarw h d a im => Sys2Proof.Machine.execShiftiSarw h d a im s
  | .mul h d a b => Sys2Proof.Machine.execMul h d a b s
  | .mulh h d a b => Sys2Proof.Machine.execMulh h d a b s
  | .mulhu h d a b => Sys2Proof.Machine.execMulhu h d a b s
  | .mulw h d a b => Sys2Proof.Machine.execMulw h d a b s
  | .div h d a b => Sys2Proof.Machine.execDiv h d a b s
  | .divu h d a b => Sys2Proof.Machine.execDivu h d a b s
  | .rem h d a b => Sys2Proof.Machine.execRem h d a b s
  | .remu h d a b => Sys2Proof.Machine.execRemu h d a b s
  | .lea0 h d a b => Sys2Proof.Machine.execLea0 h d a b s
  | .lea1 h d a b => Sys2Proof.Machine.execLea1 h d a b s
  | .lea2 h d a b => Sys2Proof.Machine.execLea2 h d a b s
  | .lea3 h d a b => Sys2Proof.Machine.execLea3 h d a b s
  | .cmpEq h p c a b => Sys2Proof.Machine.execCmpEq h p c a b s
  | .cmpNe h p c a b => Sys2Proof.Machine.execCmpNe h p c a b s
  | .cmpLt h p c a b => Sys2Proof.Machine.execCmpLt h p c a b s
  | .cmpLe h p c a b => Sys2Proof.Machine.execCmpLe h p c a b s
  | .cmpLtu h p c a b => Sys2Proof.Machine.execCmpLtu h p c a b s
  | .cmpLeu h p c a b => Sys2Proof.Machine.execCmpLeu h p c a b s
  | .cmpTst h p c a b => Sys2Proof.Machine.execCmpTst h p c a b s
  | .cmpNtst h p c a b => Sys2Proof.Machine.execCmpNtst h p c a b s
  | .cmpiEq h p c a im => Sys2Proof.Machine.execCmpiEq h p c a im s
  | .cmpiNe h p c a im => Sys2Proof.Machine.execCmpiNe h p c a im s
  | .cmpiLt h p c a im => Sys2Proof.Machine.execCmpiLt h p c a im s
  | .cmpiLe h p c a im => Sys2Proof.Machine.execCmpiLe h p c a im s
  | .cmpiLtu h p c a im => Sys2Proof.Machine.execCmpiLtu h p c a im s
  | .cmpiLeu h p c a im => Sys2Proof.Machine.execCmpiLeu h p c a im s
  | .cmpiTst h p c a im => Sys2Proof.Machine.execCmpiTst h p c a im s
  | .cmpiNtst h p c a im => Sys2Proof.Machine.execCmpiNtst h p c a im s
  | .pand h d a b => Sys2Proof.Machine.execPand h d a b s
  | .por h d a b => Sys2Proof.Machine.execPor h d a b s
  | .pxor h d a b => Sys2Proof.Machine.execPxor h d a b s
  | .pnot h d a => Sys2Proof.Machine.execPnot h d a s
  | .pwget h d => Sys2Proof.Machine.execPwget h d s
  | .pwset h a => Sys2Proof.Machine.execPwset h a s
  | .li h d im => Sys2Proof.Machine.execLi h d im s
  | .sel h p d a b => Sys2Proof.Machine.execSel h p d a b s
  | .getsr h d a => Sys2Proof.Machine.execGetsr h d a s
  | .setsr h a b => Sys2Proof.Machine.execSetsr h a b s
  | .getk h d k => Sys2Proof.Machine.execGetk h d k s
  | .putk h d k => Sys2Proof.Machine.execPutk h d k s
  | .addB h d a b => Sys2Proof.Machine.execAddB h d a b s
  | .addH h d a b => Sys2Proof.Machine.execAddH h d a b s
  | .addW h d a b => Sys2Proof.Machine.execAddW h d a b s
  | .addsB h d a b => Sys2Proof.Machine.execAddsB h d a b s
  | .addsH h d a b => Sys2Proof.Machine.execAddsH h d a b s
  | .addsuB h d a b => Sys2Proof.Machine.execAddsuB h d a b s
  | .addsuH h d a b => Sys2Proof.Machine.execAddsuH h d a b s
  | .avgrH h d a b => Sys2Proof.Machine.execAvgrH h d a b s
  | .subB h d a b => Sys2Proof.Machine.execSubB h d a b s
  | .subH h d a b => Sys2Proof.Machine.execSubH h d a b s
  | .subW h d a b => Sys2Proof.Machine.execSubW h d a b s
  | .subsB h d a b => Sys2Proof.Machine.execSubsB h d a b s
  | .subsH h d a b => Sys2Proof.Machine.execSubsH h d a b s
  | .subsuB h d a b => Sys2Proof.Machine.execSubsuB h d a b s
  | .subsuH h d a b => Sys2Proof.Machine.execSubsuH h d a b s
  | .absdfH h d a b => Sys2Proof.Machine.execAbsdfH h d a b s
  | .mullH h d a b => Sys2Proof.Machine.execMullH h d a b s
  | .mulhH h d a b => Sys2Proof.Machine.execMulhH h d a b s
  | .mulhrH h d a b => Sys2Proof.Machine.execMulhrH h d a b s
  | .mullW h d a b => Sys2Proof.Machine.execMullW h d a b s
  | .dot2H h d a b => Sys2Proof.Machine.execDot2H h d a b s
  | .dot4B h d a b => Sys2Proof.Machine.execDot4B h d a b s
  | .dot2uB h d a b => Sys2Proof.Machine.execDot2uB h d a b s
  | .madlH h d a b => Sys2Proof.Machine.execMadlH h d a b s
  | .shlH h d a b => Sys2Proof.Machine.execShlH h d a b s
  | .shrH h d a b => Sys2Proof.Machine.execShrH h d a b s
  | .sarH h d a b => Sys2Proof.Machine.execSarH h d a b s
  | .sarrH h d a b => Sys2Proof.Machine.execSarrH h d a b s
  | .shlW h d a b => Sys2Proof.Machine.execShlW h d a b s
  | .sarW h d a b => Sys2Proof.Machine.execSarW h d a b s
  | .sarrW h d a b => Sys2Proof.Machine.execSarrW h d a b s
  | .narrowsWh h d a b => Sys2Proof.Machine.execNarrowsWh h d a b s
  | .vshiftiShlH h d a im => Sys2Proof.Machine.execVshiftiShlH h d a im s
  | .vshiftiShrH h d a im => Sys2Proof.Machine.execVshiftiShrH h d a im s
  | .vshiftiSarH h d a im => Sys2Proof.Machine.execVshiftiSarH h d a im s
  | .vshiftiSarrH h d a im => Sys2Proof.Machine.execVshiftiSarrH h d a im s
  | .vshiftiShlW h d a im => Sys2Proof.Machine.execVshiftiShlW h d a im s
  | .vshiftiSarW h d a im => Sys2Proof.Machine.execVshiftiSarW h d a im s
  | .vshiftiSarrW h d a im => Sys2Proof.Machine.execVshiftiSarrW h d a im s
  | .vshiftiNarrowsWh h d a im => Sys2Proof.Machine.execVshiftiNarrowsWh h d a im s
  | .minH h d a b => Sys2Proof.Machine.execMinH h d a b s
  | .maxH h d a b => Sys2Proof.Machine.execMaxH h d a b s
  | .minB h d a b => Sys2Proof.Machine.execMinB h d a b s
  | .maxB h d a b => Sys2Proof.Machine.execMaxB h d a b s
  | .minuB h d a b => Sys2Proof.Machine.execMinuB h d a b s
  | .maxuB h d a b => Sys2Proof.Machine.execMaxuB h d a b s
  | .minW h d a b => Sys2Proof.Machine.execMinW h d a b s
  | .maxW h d a b => Sys2Proof.Machine.execMaxW h d a b s
  | .eqB h d a b => Sys2Proof.Machine.execEqB h d a b s
  | .eqH h d a b => Sys2Proof.Machine.execEqH h d a b s
  | .eqW h d a b => Sys2Proof.Machine.execEqW h d a b s
  | .gtB h d a b => Sys2Proof.Machine.execGtB h d a b s
  | .gtH h d a b => Sys2Proof.Machine.execGtH h d a b s
  | .gtW h d a b => Sys2Proof.Machine.execGtW h d a b s
  | .gtuB h d a b => Sys2Proof.Machine.execGtuB h d a b s
  | .gtuH h d a b => Sys2Proof.Machine.execGtuH h d a b s
  | .shufH h d a b => Sys2Proof.Machine.execShufH h d a b s
  | .ziploH h d a b => Sys2Proof.Machine.execZiploH h d a b s
  | .ziphiH h d a b => Sys2Proof.Machine.execZiphiH h d a b s
  | .unzipH h d a b => Sys2Proof.Machine.execUnzipH h d a b s
  | .extzB h d a b => Sys2Proof.Machine.execExtzB h d a b s
  | .extsB h d a b => Sys2Proof.Machine.execExtsB h d a b s
  | .bcastH h d a b => Sys2Proof.Machine.execBcastH h d a b s
  | .insH h d a b => Sys2Proof.Machine.execInsH h d a b s
  | .addS2 h d a b => Sys2Proof.Machine.execAddS2 h d a b s
  | .addH4 h d a b => Sys2Proof.Machine.execAddH4 h d a b s
  | .addBh4 h d a b => Sys2Proof.Machine.execAddBh4 h d a b s
  | .subS2 h d a b => Sys2Proof.Machine.execSubS2 h d a b s
  | .subH4 h d a b => Sys2Proof.Machine.execSubH4 h d a b s
  | .subBh4 h d a b => Sys2Proof.Machine.execSubBh4 h d a b s
  | .mulS2 h d a b => Sys2Proof.Machine.execMulS2 h d a b s
  | .mulH4 h d a b => Sys2Proof.Machine.execMulH4 h d a b s
  | .mulBh4 h d a b => Sys2Proof.Machine.execMulBh4 h d a b s
  | .fmaS2 h d a b => Sys2Proof.Machine.execFmaS2 h d a b s
  | .fmaH4 h d a b => Sys2Proof.Machine.execFmaH4 h d a b s
  | .fmaBh4 h d a b => Sys2Proof.Machine.execFmaBh4 h d a b s
  | .fmsS2 h d a b => Sys2Proof.Machine.execFmsS2 h d a b s
  | .fnmaS2 h d a b => Sys2Proof.Machine.execFnmaS2 h d a b s
  | .minS2 h d a b => Sys2Proof.Machine.execMinS2 h d a b s
  | .maxS2 h d a b => Sys2Proof.Machine.execMaxS2 h d a b s
  | .minH4 h d a b => Sys2Proof.Machine.execMinH4 h d a b s
  | .maxH4 h d a b => Sys2Proof.Machine.execMaxH4 h d a b s
  | .minBh4 h d a b => Sys2Proof.Machine.execMinBh4 h d a b s
  | .maxBh4 h d a b => Sys2Proof.Machine.execMaxBh4 h d a b s
  | .absS2 h d a => Sys2Proof.Machine.execAbsS2 h d a s
  | .negS2 h d a => Sys2Proof.Machine.execNegS2 h d a s
  | .eqS2 h d a b => Sys2Proof.Machine.execEqS2 h d a b s
  | .ltS2 h d a b => Sys2Proof.Machine.execLtS2 h d a b s
  | .leS2 h d a b => Sys2Proof.Machine.execLeS2 h d a b s
  | .unS2 h d a b => Sys2Proof.Machine.execUnS2 h d a b s
  | .eqH4 h d a b => Sys2Proof.Machine.execEqH4 h d a b s
  | .ltH4 h d a b => Sys2Proof.Machine.execLtH4 h d a b s
  | .leH4 h d a b => Sys2Proof.Machine.execLeH4 h d a b s
  | .unH4 h d a b => Sys2Proof.Machine.execUnH4 h d a b s
  | .cvtS2H4lo h d a => Sys2Proof.Machine.execCvtS2H4lo h d a s
  | .cvtS2H4hi h d a => Sys2Proof.Machine.execCvtS2H4hi h d a s
  | .cvtH4S2 h d a b => Sys2Proof.Machine.execCvtH4S2 h d a b s
  | .cvtBh4S2 h d a b => Sys2Proof.Machine.execCvtBh4S2 h d a b s
  | .cvtE4m3S2 h d a b => Sys2Proof.Machine.execCvtE4m3S2 h d a b s
  | .cvtS2E4m3 h d a b => Sys2Proof.Machine.execCvtS2E4m3 h d a b s
  | .cvtS2W h d a => Sys2Proof.Machine.execCvtS2W h d a s
  | .cvtWS2 h d a => Sys2Proof.Machine.execCvtWS2 h d a s
  | .cvtE5m2S2 h d a b => Sys2Proof.Machine.execCvtE5m2S2 h d a b s
  | .cvtS2E5m2 h d a b => Sys2Proof.Machine.execCvtS2E5m2 h d a b s
  | .cvtS2Bh4lo h d a => Sys2Proof.Machine.execCvtS2Bh4lo h d a s
  | .cvtS2Bh4hi h d a => Sys2Proof.Machine.execCvtS2Bh4hi h d a s
  | .cvtH4E4m3 h d a b => Sys2Proof.Machine.execCvtH4E4m3 h d a b s
  | .cvtE4m3H4 h d a => Sys2Proof.Machine.execCvtE4m3H4 h d a s
  | .truncWS2 h d a => Sys2Proof.Machine.execTruncWS2 h d a s
  | .cvtS2Wz h d a => Sys2Proof.Machine.execCvtS2Wz h d a s
  | .rcpS2 h d a => Sys2Proof.Machine.execRcpS2 h d a s
  | .rsqS2 h d a => Sys2Proof.Machine.execRsqS2 h d a s
  | .sqrtS2 h d a => Sys2Proof.Machine.execSqrtS2 h d a s
  | .exp2S2 h d a => Sys2Proof.Machine.execExp2S2 h d a s
  | .log2S2 h d a => Sys2Proof.Machine.execLog2S2 h d a s
  | .sinS2 h d a => Sys2Proof.Machine.execSinS2 h d a s
  | .cosS2 h d a => Sys2Proof.Machine.execCosS2 h d a s
  | .tanhS2 h d a => Sys2Proof.Machine.execTanhS2 h d a s
  | .expr h x d a b => Sys2Proof.Machine.execExpr h x d a b s
  | .br h im => Sys2Proof.Machine.execBr h im s
  | .call h im => Sys2Proof.Machine.execCall h im s
  | .jr h a => Sys2Proof.Machine.execJr h a s
  | .jrl h a => Sys2Proof.Machine.execJrl h a s
  | .ret h => Sys2Proof.Machine.execRet h s
  | .trap h t => Sys2Proof.Machine.execTrap h t s
  | .rtt h => Sys2Proof.Machine.execRtt h s
  | .brk h => Sys2Proof.Machine.execBrk h s
  | .spawn h d a b => Sys2Proof.Machine.execSpawn h d a b s
  | .spawnt h d a b => Sys2Proof.Machine.execSpawnt h d a b s
  | .endFibre h a sc => Sys2Proof.Machine.execEndFibre h a sc s
  | .yield h => Sys2Proof.Machine.execYield h s
  | .sleept h a => Sys2Proof.Machine.execSleept h a s
  | .step h => Sys2Proof.Machine.execStep h s
  | .ropebar h => Sys2Proof.Machine.execRopebar h s
  | .nop h => Sys2Proof.Machine.execNop h s
  | .fenceRel h sc => Sys2Proof.Machine.execFenceRel h sc s
  | .fenceAcq h sc => Sys2Proof.Machine.execFenceAcq h sc s
  | .fenceAr h sc => Sys2Proof.Machine.execFenceAr h sc s
  | .ldaq h d a b => Sys2Proof.Machine.execLdaq h d a b s
  | .strel h d a b => Sys2Proof.Machine.execStrel h d a b s
  | .waitg h d => Sys2Proof.Machine.execWaitg h d s
  | .pref h a b => Sys2Proof.Machine.execPref h a b s
  | .clwb h a b => Sys2Proof.Machine.execClwb h a b s
  | .ldb h d a o => Sys2Proof.Machine.execLdb h d a o s
  | .ldbz h d a o => Sys2Proof.Machine.execLdbz h d a o s
  | .ldh h d a o => Sys2Proof.Machine.execLdh h d a o s
  | .ldhz h d a o => Sys2Proof.Machine.execLdhz h d a o s
  | .ldw h d a o => Sys2Proof.Machine.execLdw h d a o s
  | .ldwz h d a o => Sys2Proof.Machine.execLdwz h d a o s
  | .ldd h d a o => Sys2Proof.Machine.execLdd h d a o s
  | .ldq h d a o => Sys2Proof.Machine.execLdq h d a o s
  | .stb h d a o => Sys2Proof.Machine.execStb h d a o s
  | .sth h d a o => Sys2Proof.Machine.execSth h d a o s
  | .stw h d a o => Sys2Proof.Machine.execStw h d a o s
  | .std h d a o => Sys2Proof.Machine.execStd h d a o s
  | .stq h d a o => Sys2Proof.Machine.execStq h d a o s
  | .ldbL h d a o => Sys2Proof.Machine.execLdbL h d a o s
  | .ldbzL h d a o => Sys2Proof.Machine.execLdbzL h d a o s
  | .ldhL h d a o => Sys2Proof.Machine.execLdhL h d a o s
  | .ldhzL h d a o => Sys2Proof.Machine.execLdhzL h d a o s
  | .ldwL h d a o => Sys2Proof.Machine.execLdwL h d a o s
  | .ldwzL h d a o => Sys2Proof.Machine.execLdwzL h d a o s
  | .lddL h d a o => Sys2Proof.Machine.execLddL h d a o s
  | .ldqL h d a o => Sys2Proof.Machine.execLdqL h d a o s
  | .stbL h d a o => Sys2Proof.Machine.execStbL h d a o s
  | .sthL h d a o => Sys2Proof.Machine.execSthL h d a o s
  | .stwL h d a o => Sys2Proof.Machine.execStwL h d a o s
  | .stdL h d a o => Sys2Proof.Machine.execStdL h d a o s
  | .stqL h d a o => Sys2Proof.Machine.execStqL h d a o s
  | .amin h d a b => Sys2Proof.Machine.execAmin h d a b s
  | .amax h d a b => Sys2Proof.Machine.execAmax h d a b s
  | .aminu h d a b => Sys2Proof.Machine.execAminu h d a b s
  | .amaxu h d a b => Sys2Proof.Machine.execAmaxu h d a b s
  | .aor h d a b => Sys2Proof.Machine.execAor h d a b s
  | .aand h d a b => Sys2Proof.Machine.execAand h d a b s
  | .aadd h d a b => Sys2Proof.Machine.execAadd h d a b s
  | .aswap h d a b => Sys2Proof.Machine.execAswap h d a b s
  | .aminW h d a b => Sys2Proof.Machine.execAminW h d a b s
  | .amaxW h d a b => Sys2Proof.Machine.execAmaxW h d a b s
  | .aminuW h d a b => Sys2Proof.Machine.execAminuW h d a b s
  | .amaxuW h d a b => Sys2Proof.Machine.execAmaxuW h d a b s
  | .aorW h d a b => Sys2Proof.Machine.execAorW h d a b s
  | .aandW h d a b => Sys2Proof.Machine.execAandW h d a b s
  | .aaddW h d a b => Sys2Proof.Machine.execAaddW h d a b s
  | .aswapW h d a b => Sys2Proof.Machine.execAswapW h d a b s
  | .cas h d a b => Sys2Proof.Machine.execCas h d a b s
  | .casw h d a b => Sys2Proof.Machine.execCasw h d a b s
  | .faddS h d a b => Sys2Proof.Machine.execFaddS h d a b s
  | .fmaxS h d a b => Sys2Proof.Machine.execFmaxS h d a b s
  | .aminL h d a b => Sys2Proof.Machine.execAminL h d a b s
  | .amaxL h d a b => Sys2Proof.Machine.execAmaxL h d a b s
  | .aminuL h d a b => Sys2Proof.Machine.execAminuL h d a b s
  | .amaxuL h d a b => Sys2Proof.Machine.execAmaxuL h d a b s
  | .aorL h d a b => Sys2Proof.Machine.execAorL h d a b s
  | .aandL h d a b => Sys2Proof.Machine.execAandL h d a b s
  | .aaddL h d a b => Sys2Proof.Machine.execAaddL h d a b s
  | .aswapL h d a b => Sys2Proof.Machine.execAswapL h d a b s
  | .arm h l a => Sys2Proof.Machine.execArm h l a s
  | .sign h l w a d => Sys2Proof.Machine.execSign h l w a d s
  | .vote h l w a d => Sys2Proof.Machine.execVote h l w a d s
  | .scan h l w a d => Sys2Proof.Machine.execScan h l w a d s
  | .xchg h l w a d => Sys2Proof.Machine.execXchg h l w a d s
  | .bar h l w d => Sys2Proof.Machine.execBar h l w d s
  | .redmax h l w a d => Sys2Proof.Machine.execRedmax h l w a d s
  | .redadd h l w a d => Sys2Proof.Machine.execRedadd h l w a d s
  | .mmaE4m3 h l r a b => Sys2Proof.Machine.execMmaE4m3 h l r a b s
  | .mmapE4m3 h l r a b => Sys2Proof.Machine.execMmapE4m3 h l r a b s
  | .mmaH h l r a b => Sys2Proof.Machine.execMmaH h l r a b s
  | .mmaBh h l r a b => Sys2Proof.Machine.execMmaBh h l r a b s
  | .mmaI8 h l r a b => Sys2Proof.Machine.execMmaI8 h l r a b s
  | .aballoc h d a => Sys2Proof.Machine.execAballoc h d a s
  | .abfree h => Sys2Proof.Machine.execAbfree h s
  | .drain h d a b => Sys2Proof.Machine.execDrain h d a b s
  | .accz h a => Sys2Proof.Machine.execAccz h a s
  | .accld h a => Sys2Proof.Machine.execAccld h a s
  | .tdset h t a => Sys2Proof.Machine.execTdset h t a s
  | .tdinv h t => Sys2Proof.Machine.execTdinv h t s
  | .tbld h t a => Sys2Proof.Machine.execTbld h t a s
  | .cpy h sc o a b => Sys2Proof.Machine.execCpy h sc o a b s
  | .cpy2d h sc o a b => Sys2Proof.Machine.execCpy2d h sc o a b s
  | .fill h sc o a b => Sys2Proof.Machine.execFill h sc o a b s
  | .cpyfp h sc o a b => Sys2Proof.Machine.execCpyfp h sc o a b s
  | .cmpb h sc o a b => Sys2Proof.Machine.execCmpb h sc o a b s
  | .spmap h sc o a b => Sys2Proof.Machine.execSpmap h sc o a b s
  | .spfill h sc o a b => Sys2Proof.Machine.execSpfill h sc o a b s
  | .spwb h sc o a b => Sys2Proof.Machine.execSpwb h sc o a b s
  | .spunmap h sc o a b => Sys2Proof.Machine.execSpunmap h sc o a b s
  | .gather h sc o a b => Sys2Proof.Machine.execGather h sc o a b s
  | .gsum h sc o a b => Sys2Proof.Machine.execGsum h sc o a b s
  | .gmax h sc o a b => Sys2Proof.Machine.execGmax h sc o a b s
  | .scatter h sc o a b => Sys2Proof.Machine.execScatter h sc o a b s
  | .scadd h sc o a b => Sys2Proof.Machine.execScadd h sc o a b s
  | .hamd h sc o a b => Sys2Proof.Machine.execHamd h sc o a b s
  | .wpush h w a b => Sys2Proof.Machine.execWpush h w a b s
  | .wpushs h w a b => Sys2Proof.Machine.execWpushs h w a b s
  | .wpop h w d k => Sys2Proof.Machine.execWpop h w d k s
  | .wpopw h w d k => Sys2Proof.Machine.execWpopw h w d k s
  | .wdone h w => Sys2Proof.Machine.execWdone h w s
  | .wbound h w a => Sys2Proof.Machine.execWbound h w a s
  | .wterm h w d => Sys2Proof.Machine.execWterm h w d s
  | .wstat h w d b => Sys2Proof.Machine.execWstat h w d b s
  | .launch h sc o a => Sys2Proof.Machine.execLaunch h sc o a s
  | .evsig h sc o a b => Sys2Proof.Machine.execEvsig h sc o a b s
  | .evwait h sc o a b => Sys2Proof.Machine.execEvwait h sc o a b s
  | .gset h d q => Sys2Proof.Machine.execGset h d q s
  | .gclr h d q => Sys2Proof.Machine.execGclr h d q s
  | .grst h q => Sys2Proof.Machine.execGrst h q s
  | .hintLit im => Sys2Proof.Machine.execHintLit im s
  | .hintLith im => Sys2Proof.Machine.execHintLith im s
  | .hintVec m v r z sc o => Sys2Proof.Machine.execHintVec m v r z sc o s
  | .hintMemo sc a r c => Sys2Proof.Machine.execHintMemo sc a r c s
  | .hintGuard q p => Sys2Proof.Machine.execHintGuard q p s
  | .hintSched y b => Sys2Proof.Machine.execHintSched y b s
  | .hintKsrc k x => Sys2Proof.Machine.execHintKsrc k x s
  | .runSelection core part slot tie => Sys2Proof.Machine.execRunSelection core part slot tie s
  | .commandAcceptance cmd => Sys2Proof.Machine.execCommandAcceptance cmd s
  | .copyCommandComplete cmd => Sys2Proof.Machine.execCopyCommandComplete cmd s
  | .lnchCommandComplete cmd => Sys2Proof.Machine.execLnchCommandComplete cmd s
  | .promiseMissed cmd why => Sys2Proof.Machine.execPromiseMissed cmd why s
  | .sleepWake f => Sys2Proof.Machine.execSleepWake f s
  | .fenceWaitEnd f => Sys2Proof.Machine.execFenceWaitEnd f s
  | .releaseHoldIssue f => Sys2Proof.Machine.execReleaseHoldIssue f s
  | .l1Fill entry lease => Sys2Proof.Machine.execL1Fill entry lease s
  | .longLatencyResult res => Sys2Proof.Machine.execLongLatencyResult res s
  | .writeArrival wr latency => Sys2Proof.Machine.execWriteArrival wr latency s
  | .gwctPassed pend => Sys2Proof.Machine.execGwctPassed pend s
  | .atomicExecution atom latency => Sys2Proof.Machine.execAtomicExecution atom latency s
  | .replicatedWriteSequence wr latency => Sys2Proof.Machine.execReplicatedWriteSequence wr latency s
  | .writeMergeWindow core => Sys2Proof.Machine.execWriteMergeWindow core s
  | .remoteScratchpadAccess acc => Sys2Proof.Machine.execRemoteScratchpadAccess acc s
  | .chunkFillComplete launch team chunk => Sys2Proof.Machine.execChunkFillComplete launch team chunk s
  | .faultRequest fault => Sys2Proof.Machine.execFaultRequest fault s
  | .frespRetry fn v => Sys2Proof.Machine.execFrespRetry fn v s
  | .frespDeny fn v => Sys2Proof.Machine.execFrespDeny fn v s
  | .tinvcmd fn v => Sys2Proof.Machine.execTinvcmd fn v s
  | .invalidationComplete fn => Sys2Proof.Machine.execInvalidationComplete fn s
  | .fqcfgWrite fn v => Sys2Proof.Machine.execFqcfgWrite fn v s
  | .peerTranslationRecall head frame => Sys2Proof.Machine.execPeerTranslationRecall head frame s
  | .peerLeaseExpiry peer frame => Sys2Proof.Machine.execPeerLeaseExpiry peer frame s
  | .matrixQueueEntryComplete entry => Sys2Proof.Machine.execMatrixQueueEntryComplete entry s
  | .aballocGrant core => Sys2Proof.Machine.execAballocGrant core s
  | .evwaitSatisfied f => Sys2Proof.Machine.execEvwaitSatisfied f s
  | .hostQueueSlotRead q => Sys2Proof.Machine.execHostQueueSlotRead q s
  | .deviceQueueHeadTake p => Sys2Proof.Machine.execDeviceQueueHeadTake p s
  | .launchCheck launch => Sys2Proof.Machine.execLaunchCheck launch s
  | .launchStart launch place => Sys2Proof.Machine.execLaunchStart launch place s
  | .preemption launch => Sys2Proof.Machine.execPreemption launch s
  | .launchRestore launch => Sys2Proof.Machine.execLaunchRestore launch s
  | .dieSetChange launch moves => Sys2Proof.Machine.execDieSetChange launch moves s
  | .launchCompletion launch => Sys2Proof.Machine.execLaunchCompletion launch s
  | .coreUncorrectableError core struct addr => Sys2Proof.Machine.execCoreUncorrectableError core struct addr s
  | .ropeLossTimeout launch rope => Sys2Proof.Machine.execRopeLossTimeout launch rope s
  | .ropeRestart launch rope place => Sys2Proof.Machine.execRopeRestart launch rope place s
  | .gatherSplit cmd => Sys2Proof.Machine.execGatherSplit cmd s
  | .msePartService cmd home => Sys2Proof.Machine.execMsePartService cmd home s
  | .scaddContributionApply contrib latency => Sys2Proof.Machine.execScaddContributionApply contrib latency s
  | .gatherMerge cmd => Sys2Proof.Machine.execGatherMerge cmd s
  | .gatherGrantRequest head bytes => Sys2Proof.Machine.execGatherGrantRequest head bytes s
  | .gatherGrant cmd head granules => Sys2Proof.Machine.execGatherGrant cmd head granules s
  | .pushAcceptance push => Sys2Proof.Machine.execPushAcceptance push s
  | .inversionPushAnnounced push => Sys2Proof.Machine.execInversionPushAnnounced push s
  | .horizonBroadcast wl => Sys2Proof.Machine.execHorizonBroadcast wl s
  | .wpopwDelivery f pick => Sys2Proof.Machine.execWpopwDelivery f pick s
  | .idleRequest wl core => Sys2Proof.Machine.execIdleRequest wl core s
  | .taskTransferArrival wl core => Sys2Proof.Machine.execTaskTransferArrival wl core s
  | .terminationSweep wl => Sys2Proof.Machine.execTerminationSweep wl s
  | .packetDataFlit port flit => Sys2Proof.Machine.execPacketDataFlit port flit s
  | .timeSyncFlit port flit fabricTime => Sys2Proof.Machine.execTimeSyncFlit port flit fabricTime s
  | .controlFlit port flit => Sys2Proof.Machine.execControlFlit port flit s
  | .idleFlit port flit => Sys2Proof.Machine.execIdleFlit port flit s
  | .flitReplay port => Sys2Proof.Machine.execFlitReplay port s
  | .flitIdleTimer port => Sys2Proof.Machine.execFlitIdleTimer port s
  | .timeSyncTimer port => Sys2Proof.Machine.execTimeSyncTimer port s
  | .portRetrain port laneErrors => Sys2Proof.Machine.execPortRetrain port laneErrors s
  | .retrainComplete port failed => Sys2Proof.Machine.execRetrainComplete port failed s
  | .lossOfSignal port => Sys2Proof.Machine.execLossOfSignal port s
  | .flowletGapExpiry sw peer port => Sys2Proof.Machine.execFlowletGapExpiry sw peer port s
  | .d2dLinkFailure a b => Sys2Proof.Machine.execD2dLinkFailure a b s
  | .fabricJoin id lastInc first fabricTime => Sys2Proof.Machine.execFabricJoin id lastInc first fabricTime s
  | .joinNotice peer inc => Sys2Proof.Machine.execJoinNotice peer inc s
  | .departureNotice peer => Sys2Proof.Machine.execDepartureNotice peer s
  | .remoteRequest req => Sys2Proof.Machine.execRemoteRequest req s
  | .remoteReply rep => Sys2Proof.Machine.execRemoteReply rep s
  | .hostSurpriseDown => Sys2Proof.Machine.execHostSurpriseDown s
  | .atsInvalidationRequest iova bytes => Sys2Proof.Machine.execAtsInvalidationRequest iova bytes s
  | .bar2Write pa data => Sys2Proof.Machine.execBar2Write pa data s
  | .bar2Read pa n => Sys2Proof.Machine.execBar2Read pa n s
  | .qtailDoorbell fn q v => Sys2Proof.Machine.execQtailDoorbell fn q v s
  | .qcfgWrite fn q v => Sys2Proof.Machine.execQcfgWrite fn q v s
  | .fabcfgWrite v => Sys2Proof.Machine.execFabcfgWrite v s
  | .mcdataWrite v => Sys2Proof.Machine.execMcdataWrite v s
  | .errcfgWrite v => Sys2Proof.Machine.execErrcfgWrite v s
  | .errlostClear v => Sys2Proof.Machine.execErrlostClear v s
  | .mstatReasonClear v => Sys2Proof.Machine.execMstatReasonClear v s
  | .registerWrite fn off v => Sys2Proof.Machine.execRegisterWrite fn off v s
  | .getstat => Sys2Proof.Machine.execGetstat s
  | .quiesce => Sys2Proof.Machine.execQuiesce s
  | .resume => Sys2Proof.Machine.execResume s
  | .retire core => Sys2Proof.Machine.execRetire core s
  | .porten port => Sys2Proof.Machine.execPorten port s
  | .keyset slot key => Sys2Proof.Machine.execKeyset slot key s
  | .keyerase slot => Sys2Proof.Machine.execKeyerase slot s
  | .attest nonce => Sys2Proof.Machine.execAttest nonce s
  | .fwload version digest verifies => Sys2Proof.Machine.execFwload version digest verifies s
  | .counters => Sys2Proof.Machine.execCounters s
  | .coreRetirement core => Sys2Proof.Machine.execCoreRetirement core s
  | .hbmRowRemap stack row corrected => Sys2Proof.Machine.execHbmRowRemap stack row corrected s
  | .rowRemapComplete stack row => Sys2Proof.Machine.execRowRemapComplete stack row s
  | .correctedError struct die core => Sys2Proof.Machine.execCorrectedError struct die core s
  | .uncorrectableMemoryError pa => Sys2Proof.Machine.execUncorrectableMemoryError pa s
  | .fatalError unit struct addr detail => Sys2Proof.Machine.execFatalError unit struct addr detail s
  | .packagePowerLimit exceeded => Sys2Proof.Machine.execPackagePowerLimit exceeded s
  | .dieTemperatureLimit die => Sys2Proof.Machine.execDieTemperatureLimit die s
  | .powerTrip => Sys2Proof.Machine.execPowerTrip s
  | .thermalTrip die => Sys2Proof.Machine.execThermalTrip die s
  | .coolantOutOfRange => Sys2Proof.Machine.execCoolantOutOfRange s
  | .moduleReset cores => Sys2Proof.Machine.execModuleReset cores s
  | .fqheadWrite fn v => Sys2Proof.Machine.execFqheadWrite fn v s
  | .hostLinkTrained => Sys2Proof.Machine.execHostLinkTrained s
  | .portTrainingComplete port failed => Sys2Proof.Machine.execPortTrainingComplete port failed s
  | .quiesceComplete => Sys2Proof.Machine.execQuiesceComplete s
  | .fatalDumpComplete partial_ => Sys2Proof.Machine.execFatalDumpComplete partial_ s

end Sys2Proof.Machine
end

