-- ==== Sys2Proof/Machine/Auto.lean ====
section
/-! DEFINITION. How time passes, and what moves when the agenda names nothing: the first thing the hardware would do of itself
(log 3, log 4). -/

noncomputable section

namespace Sys2Proof.Machine

/-! ### Time (R16, R17, R22) -/

/-- How far time can go before a command does its next thing: its work is done before its deadline, and so is the answer to each
of its requests before its PCT; work that takes effect at the PCT itself is done as time reaches it (R22, R104). Missed promises
hold nothing back. -/
def State.limitOf (s : State) (c : Cmd) : Option Time :=
  if c.missed then none
  else
    match c.state with
    | .accepted => some (if c.atPct && c.asked && !(s.copyWaits c) then c.pct else c.deadline - 1)
    | .done => some (if s.cmdRemote c.uid then c.pct - 1 else c.pct)
    | _ => none

/-- The times that time cannot pass yet: those of the commands, and of the announcements of inversion pushes (R22, R378). After a
fatal error no promise is kept, and nothing holds time back (R22, R426). -/
def State.limits (s : State) : List Time :=
  if s.mg.fatal then []
  else s.cmds.filterMap s.limitOf ++
    (s.cairn.pushes.filter fun p => p.accepted && !p.missed).map fun p => p.acceptedAt + 1999

/-- FTIME moved on to a time. A package that is ahead of fabric time is slowed: as its count passes a multiple of 1,024, fabric
time counts a tick that it does not, until it lies within 16 ticks (R17). -/
def State.elapseTo (s : State) (t : Time) : State :=
  let lost := Nat.min (s.fab.ahead - 16) (t / 1024 - s.ftime / 1024)
  { s with ftime := t, fab := if s.fab.ahead ≤ 16 then s.fab else { s.fab with ahead := s.fab.ahead - lost } }

/-- Work of the copy engine that takes effect at a PCT that time has reached (R104, R275); none after a fatal error (R426). -/
def State.atTheirPct (s : State) : State :=
  if s.mg.fatal then s
  else (s.cmds.filter fun c => c.atPct && decide (c.state = .accepted) && decide (c.pct ≤ s.ftime) && !c.missed).foldl
    (fun s c => s.runCopy c.uid 7) s

/-- Time passes with a step: a free number of ticks, at least one, but never past a time by which something is still to be
done (log 4). The dies share one count: the model gives the skew of up to 2 ticks that R16 allows them no value but 0 (log 51). -/
def State.pass (s : State) : State :=
  let t := s.limits.foldl (fun t l => Nat.min t (Nat.max l s.ftime)) (s.ftime + 1 + Config.elapse s.fresh)
  { s with fresh := s.fresh + 1 }.elapseTo t |>.atTheirPct

/-! ### The hardware's own moves -/

/-- A free latency or lease for a move chosen here (log 4, log 8). -/
def State.someNat (s : State) : Nat := Config.freeNat s.fresh

/-- A fibre for which a free slot could start a run; one that has to wait first where there is no other. -/
def State.idleFibre (s : State) : Option Fibre :=
  let free := s.fibres.filter fun f => s.stands f.core f.part f
  (free.find? s.firstReady).or free.head?

/-- The run selection that the default makes: a free slot of the partition of the first idle fibre. -/
def State.autoSelect (s : State) : Option Instr :=
  match s.idleFibre with
  | none => none
  | some f =>
    let busy := fun (n : Nat) => s.batches.any fun b => b.core == f.core && b.part == f.part && b.slot == n
    if !(busy 0) then some (.runSelection f.core f.part 0 0)
    else if !(busy 1) then some (.runSelection f.core f.part 1 0)
    else none

/-- The moves of the memory pipe. -/
def State.pipeEvents (s : State) : List Instr :=
  (s.m.results.map fun r => .longLatencyResult r.uid) ++
  (s.m.spads.map fun a => .remoteScratchpadAccess a.uid) ++
  (s.m.atoms.flatMap fun a => [.atomicExecution a.uid s.someNat, .remoteScratchpadAccess a.uid]) ++
  (s.m.mshrs.map fun e => .l1Fill e.uid s.someNat) ++
  ((dedup (s.m.outs.map (·.core))).map fun c => .writeMergeWindow c) ++
  (s.m.outs.flatMap fun o => [.writeArrival o.uid s.someNat, .replicatedWriteSequence o.uid s.someNat]) ++
  (s.m.pend.map fun p => .gwctPassed p.uid) ++
  (s.teams.flatMap fun t => (t.chunks.filter (·.fill.isSome)).map fun c => .chunkFillComplete t.launch t.idx c.idx) ++
  (s.mat.queue.map fun e => .matrixQueueEntryComplete e.uid) ++
  ((dedup (s.mat.abFifo.map (·.core))).map fun c => .aballocGrant c)

/-- The moves of the engines: commands accepted, served and completed. -/
def State.engineEvents (s : State) : List Instr :=
  (s.cmds.flatMap fun c => [.commandAcceptance c.uid, .copyCommandComplete c.uid, .lnchCommandComplete c.uid,
    .gatherSplit c.uid, .gatherMerge c.uid]) ++
  (s.gat.jobs.flatMap fun j => j.parts.map fun p => .msePartService j.cmd p.home) ++
  (s.gat.contribs.map fun x => .scaddContributionApply x.uid s.someNat)

/-- What blocked fibres wait for. -/
def State.wakeEvents (s : State) : List Instr :=
  (s.m.held.map fun h => .releaseHoldIssue h.fibre) ++ s.fibres.flatMap fun f =>
    match f.status with
    | .eligible => if f.relHold.isSome then [.releaseHoldIssue f.key] else []
    | .ended => []
    | _ => [.sleepWake f.key, .fenceWaitEnd f.key, .releaseHoldIssue f.key, .evwaitSatisfied f.key, .wpopwDelivery f.key s.someNat]

/-- The header of a recall of a peer that is still under way here: it was taken when it arrived. -/
def State.headOf (s : State) (peer : Nat) : PktHead :=
  ⟨peer, ((s.fab.peers.find? fun p => p.id == peer).map (·.inc)).getD 0, bitsOf s.fab.cfg 15 0, 0⟩

/-- The moves of the fault service. -/
def State.xlatEvents (s : State) : List Instr :=
  ((upFrom 0 64).flatMap fun fn => ((s.fn fn).faults.filter fun r => !r.posted).map fun r => .faultRequest r.id) ++
  ((upFrom 0 64).filterMap fun fn => if (s.fn fn).invals.isEmpty then none else some (.invalidationComplete fn)) ++
  (s.fab.ats.map fun x => .atsInvalidationRequest x.1 x.2) ++
  (s.x.peers.map fun p =>
    if p.recalled then .peerTranslationRecall (s.headOf p.peer) p.frame else .peerLeaseExpiry p.peer p.frame) ++
  (s.x.leases.map fun l => .peerLeaseExpiry l.peer l.frame)

/-- The moves of the launch engine. -/
def State.launchEvents (s : State) : List Instr :=
  (s.launches.flatMap fun l =>
    [.launchCompletion l.id, .preemption l.id, .launchRestore l.id, .launchCheck l.id,
     .launchStart l.id (s.somePlace [] l (upFrom 0 l.teams)), .dieSetChange l.id []] ++
    l.lost.flatMap fun x => [.ropeLossTimeout l.id x.rope,
      .ropeRestart l.id x.rope (s.placeOn [] l l.dies (l.ropeTeams x.rope)),
      .ropeRestart l.id x.rope (s.somePlace [] l (l.ropeTeams x.rope))]) ++
  ((upFrom 0 8).map fun p => .deviceQueueHeadTake p) ++ ((upFrom 0 64).map fun q => .hostQueueSlotRead q)

/-- The moves of Cairn. -/
def State.cairnEvents (s : State) : List Instr :=
  (s.cairn.pushes.flatMap fun p => [.pushAcceptance p.uid, .inversionPushAnnounced p.uid]) ++
  ((upFrom 0 8).filter fun w => (s.wl w).bound.isSome).flatMap fun w =>
    [.horizonBroadcast w, .terminationSweep w] ++ ((dedup ((s.wl w).idle ++ s.fibres.map (·.core))).map fun c => .idleRequest w c) ++
      (dedup ((s.wl w).tasks.filterMap fun t => match t.at_ with | .transit c => some c | _ => none)).map fun c => .taskTransferArrival w c

/-- The moves of ports and of management. -/
def State.plantEvents (s : State) : List Instr :=
  ((upFrom 0 48).filter fun p => (s.port p).state == 2).flatMap (fun p => [.portRetrain p false, .flitIdleTimer p, .timeSyncTimer p]) ++
  (s.mg.marked.map fun c => .coreRetirement c) ++
  (s.mg.rowCopies.map fun r => .rowRemapComplete r.1 r.2) ++ [.quiesceComplete]

/-- Whether the controller has something to go on with that would change anything now (R420, R428). -/
def State.tends (s : State) : Bool :=
  (s.mg.erasing.isSome || !s.mg.errDue.isEmpty || !s.fab.inboundWaits.isEmpty) && decide ({ s.tend with fresh := s.fresh, uid := s.uid } ≠ s)

/-- Whether an event would do something: change more than the model's own numbers. -/
def State.acts (s : State) (i : Instr) : Bool :=
  match exec i s with
  | .next s' => decide ({ s' with fresh := s.fresh, uid := s.uid } ≠ s)
  | _ => false

/-- The first of the hardware's own events that would do something now. -/
def State.autoEvent (s : State) : Option Instr :=
  (s.pipeEvents ++ s.engineEvents ++ s.wakeEvents ++ s.xlatEvents ++ s.launchEvents ++ s.cairnEvents ++ s.plantEvents).find? s.acts

end Sys2Proof.Machine

end
end

