-- ==== Sys2Proof/Machine/Step.lean ====
section
/-! DEFINITION. One step of the module: what moves next moves, and fabric time passes. -/

noncomputable section

namespace Sys2Proof.Machine

/-- A next state with the time of the step added; faults and refusals as they are. -/
def tick : Host.Outcome State Fault Refusal → Host.Outcome State Fault Refusal
  | .next s => .next s.pass
  | o => o

/-- An event of the opcode table happens. -/
def event (i : Instr) (s : State) : Host.Outcome State Fault Refusal := tick (exec i s)

/-- The head member of the first batch issues its word: the prepared instruction executes, and the slots take turns. -/
def issue (s : State) : Host.Outcome State Fault Refusal :=
  match s.cur with
  | none => .next ({ s with batches := s.batches.drop 1 }).pass
  | some f =>
    match s.prepare f with
    | .run i s' =>
      match exec i s' with
      | .next s'' => .next s''.rotateBatches.pass
      | o => o
    | .left s' => .next s'.pass
    | .hold s' => .next s'.rotateBatches.pass

/-- What moves when the agenda is empty: the controller's and the hardware's own events, else a batch, else a run selection, else time. -/
def auto (s : State) : Host.Outcome State Fault Refusal :=
  if s.tends then .next s.tend.pass
  else
    match s.autoEvent with
    | some i => event i s
    | none =>
      match s.batches with
      | _ :: _ => issue s
      | [] =>
        match s.autoSelect with
        | some i => event i s
        | none => .next s.pass

/-- The event of a request to the controller. -/
def requestEvent : Request → Instr
  | .getstat => .getstat
  | .quiesce => .quiesce
  | .resume => .resume
  | .retire c => .retire c
  | .porten p => .porten p
  | .keyset a k => .keyset a k
  | .keyerase a => .keyerase a
  | .attest n => .attest n
  | .fwload v d b => .fwload v d b
  | .counters => .counters

/-- Whether an event still happens after a fatal error (R426): no engine and no core acts, but the dump, module reset, the
controller's commands and the host's accesses to BAR0 and BAR2 do. -/
def afterFatal : Instr → Bool
  | .moduleReset _ => true
  | .fatalDumpComplete _ => true
  | .getstat => true
  | .quiesce => true
  | .resume => true
  | .retire _ => true
  | .porten _ => true
  | .keyset _ _ => true
  | .keyerase _ => true
  | .attest _ => true
  | .fwload _ _ _ => true
  | .counters => true
  | .bar2Read _ _ => true
  | .bar2Write _ _ => true
  | .errcfgWrite _ => true
  | .errlostClear _ => true
  | .mstatReasonClear _ => true
  | .registerWrite _ _ _ => true
  | _ => false

/-- Whether an instruction is an event of the opcode table: it has no word, and no fibre fetches it (R1). -/
def isEvent (i : Instr) : Bool := (encode i).isNone

/-- An event happens; a word that stands in place of an event is none, and after a fatal error few events do: then only time
passes. -/
def happen (i : Instr) (s : State) : Host.Outcome State Fault Refusal :=
  if !(isEvent i) || (s.mg.fatal && !(afterFatal i)) then .next s.pass else event i s

/-- One step: the first move of the agenda, or, with none left, what the hardware does of itself. -/
def step (s : State) : Host.Outcome State Fault Refusal :=
  match s.agenda with
  | .event i :: r => happen i { s with agenda := r }
  | .request q :: r => happen (requestEvent q) { s with agenda := r }
  | .read fn off :: r => .next (({ s with agenda := r }).answerRead fn off).pass
  | .tend :: r => .next (({ s with agenda := r }).tend).pass
  | .issue c p n :: r =>
    if s.mg.fatal then .next ({ s with agenda := r }).pass else issue (({ s with agenda := r }).frontBatch c p n)
  | [] =>
    if s.mg.fatal then
      match s.mg.dump with
      | some d => if d.written then .next s.tend.pass else event (.fatalDumpComplete []) s
      | none => .next s.pass
    else auto s

/-! ### A word placed where the next step fetches it (log 26) -/

/-- The descriptor of the launch to which a placed word belongs: one team of one fibre with 60 registers, one unit of
scratchpad. -/
def placedDesc : List Byte :=
  List.replicate 24 0 ++ [1, 0, 0, 0, 0, 0, 0, 0, 60, 0, 0, 0, 1, 0, 0, 0] ++ bytesLE 4 1 ++ [1, 1, 4, 0] ++ List.replicate 208 0

/-- That launch: function 0, its text the one word at virtual address 0x10000. -/
def placedLaunch : Launch :=
  { id := 0, fn := 0, queue := .host 0, prio := 0, desc := placedDesc, phase := .running, text := 0x10000, textSize := 4,
    safeAt := 0, safeCount := 0, liveAt := 0, stepn := 0, start := 0, order := 1, dies := [0], status := 0, entries := [],
    ropesLost := 0, lost := [], spadinit := [], passed := none, moving := [] }

/-- The tables that map virtual page 1 to physical page 3 of stack 0, and the word in that page. -/
def placedCells (w : Nat) : List (Nat × Byte) :=
  withAddr 0x8000 (bytesLE 8 0x10001) ++ withAddr 0x10000 (bytesLE 8 0x18001) ++ withAddr 0x18000 (bytesLE 8 0x20001) ++
    withAddr 0x20008 (bytesLE 8 (3 * 2 ^ 26 + 0xF)) ++ withAddr 0x30000 (bytesLE 4 w)

/-- The state with the bits of an instruction stored where the next step fetches: a launch of one fibre, whose text is that
word, with its page tables, and the fibre's batch as the next to issue. What could stand in the way of the fetch is
cleared: a fatal error, other batches, cached translations, writes on their way. -/
def State.withFetchWord (s : State) (_nbits w : Nat) : State :=
  let f := newFibre ⟨0, 0, 0⟩ 0 0 0 60 0x10000 0 s.ftime
  let m := { s.m with mem := memPutAll s.m.mem (placedCells w), keys := [], poison := [], pend := [] }
  let x := { s.x with tlb := [], fns := setNth Fn.initial s.x.fns 0 { s.fn 0 with troot := 0x8001, mcwin := [], denials := [] } }
  { s with agenda := [.issue 0 0 0], batches := [⟨0, 0, 0, [f.key], []⟩],
           fibres := f :: s.fibres.filter (fun g => decide (g.key ≠ f.key)),
           teams := newTeam placedLaunch 0 0 :: s.teams.filter (fun t => !(t.launch == 0 && t.idx == 0)),
           launches := placedLaunch :: s.launches.filter (fun l => l.id != 0),
           m := m, x := x, mg := { s.mg with fatal := false } }

end Sys2Proof.Machine

end
end

