-- ==== Sys2Proof/Safety.lean ====
section
/-! DEFINITION. What counts as a word or an event having done its work: the vocabulary of the statements, and the tables
that pair instructions of one shape with what the manual says they compute. -/

noncomputable section

namespace Sys2Proof.Machine

/-! ### Conditions under which a word executes -/

/-- The word executes for the fibre: it is the current one, and the word's guard holds for it (R36). -/
abbrev Issues (s : State) (f : Fibre) (pg : BitVec 3) (pn : Bool) : Prop := s.cur = some f ∧ f.guardOn pg pn = true

/-- An operand that raises nothing and waits for nothing: a legal code (R42, R43), no unwritten latch (R44), no register
that is not ready (R144). -/
abbrev Opd.fine (o : Opd) (f : Fibre) : Prop :=
  o.illegal f.window = false ∧ o.unwritten f = false ∧ o.notReady f = false

/-- Every operand is fine and no other field of the word is at fault (R54). -/
abbrev Ready (f : Fibre) (opds : List Opd) (bad : List Nat) : Prop := bad = [] ∧ ∀ o ∈ opds, o.fine f

/-! ### What a word leaves behind -/

/-- The byte of global memory at a local physical address, as a reader without a core of its own gets it at the home. -/
def State.byteAt (s : State) (pa : Nat) : Byte :=
  s.m.homeByte s.ftime .home (Place.dram pa).line none 0 (Place.dram pa).off

/-- Every byte of global memory reads as before. -/
def SameBytes (s t : State) : Prop := ∀ pa, t.byteAt pa = s.byteAt pa

/-- The state `t` is `s'` with the fibre of a key become `g` and the batches changed; no other fibre changes. -/
structure FibreOf (s' t : State) (k : FKey) (g : Fibre) : Prop where
  fibre : t.fibre? k = some g
  others : ∀ k', k' ≠ k → t.fibre? k' = s'.fibre? k'
  rest : { t with fibres := s'.fibres, batches := s'.batches } = s'

/-- Fibre `g` is `f'` moved past a word with E bit `e`: the next address, no pending hints, at the end of a run no
latches (R44, R46); the counts and marks of the run may change, nothing else does. -/
structure Moved (f' g : Fibre) (e : Bool) : Prop where
  pc : g.pc = f'.pc + 4
  hints : g.hints = Hints.none
  lat : g.lat = if e then Latches.none else f'.lat
  rest : { g with pc := f'.pc, hints := f'.hints, lat := f'.lat, runCount := f'.runCount, yieldAtEnd := f'.yieldAtEnd,
                  boostAtEnd := f'.boostAtEnd, age := f'.age, boost := f'.boost } = f'

/-- The batches after a word that goes on: the fibre has left the first one with the last word of its run, else the next member goes
on. -/
def turned (s : State) (k : FKey) (e : Bool) : List Batch := if e then (s.leaveBatch k true).batches else s.nextMember.batches

/-- The batches after a word that redirects the fibre or blocks it: it has left the first one. -/
def parted (s : State) (k : FKey) : List Batch := (s.leaveBatch k).batches

/-- An instruction completes for fibre `f`: the answer is a next state in which `s'` holds of the machine and `f'` of the
fibre, moved past the word; every byte of global memory reads as in `b` (the state before the word, or that with the
word's translations cached, which may set an accessed bit in a page table). -/
def Does (i : Instr) (s : State) (f : Fibre) (e : Bool) (s' : State) (f' : Fibre) (b : State := s) : Prop :=
  ∃ t g, exec i s = .next t ∧ FibreOf s' t f.key g ∧ t.batches = turned s' f.key e ∧ Moved f' g e ∧ SameBytes b t

/-- An instruction ends the run and the next starts at `target`. -/
def Goes (i : Instr) (s : State) (f : Fibre) (target : Word) (s' : State) (f' : Fibre) (b : State := s) : Prop :=
  ∃ t g, exec i s = .next t ∧ FibreOf s' t f.key g ∧ t.batches = parted s' f.key ∧ g.pc = target ∧
    Moved f' { g with pc := f'.pc + 4 } true ∧ SameBytes b t

/-- Fibre `f'` blocked at a word: its run has ended past the word, and it waits. -/
def Fibre.blockedAt (f' : Fibre) (now : Time) (why : Wait) : Fibre :=
  { (f'.pastWord true).endRun (f'.pc + 4) now with status := .blocked why }

/-- An instruction blocks the fibre for a reason (R142): it is past the word, its run has ended and it has left its batch. -/
def Blocks (i : Instr) (s : State) (f : Fibre) (why : Wait) (s' : State) (f' : Fibre) (b : State := s) : Prop :=
  ∃ t g, exec i s = .next t ∧ FibreOf s' t f.key g ∧ t.batches = parted s' f.key ∧ g.status = .blocked why ∧
    Moved f' { g with status := f'.status } true ∧ SameBytes b t

/-- An instruction blocks the fibre, which keeps its slot until the wait ends (R141, R263): it is past the word, its run has
ended, and the next member of its batch goes on. -/
def WaitsInSlot (i : Instr) (s : State) (f : Fibre) (why : Wait) (s' : State) (f' : Fibre) (b : State := s) : Prop :=
  ∃ t g, exec i s = .next t ∧ FibreOf s' t f.key g ∧ t.batches = turned s' f.key false ∧ g.status = .blocked why ∧
    Moved f' { g with status := f'.status } true ∧ SameBytes b t

/-- An instruction traps: cause, value and resume address are saved and the handler entered, or the fibre ends in the
system vector (R157), from state `s'`. -/
def Traps (i : Instr) (s s' : State) (f : Fibre) (c : Nat) (v t : Word) : Prop :=
  exec i s = .next ((s'.trapEntry f c v t).leaveBatch f.key)

/-! ### What a word writes -/

/-- The fibre with a fixed-latency result (R41, R44): in the newest latch, the others moved up, and in its register
unless the code is that of g0 or of a latch. -/
def Fibre.holding (f : Fibre) (d : BitVec 6) (v : Word) : Fibre :=
  { f with lat := ⟨some v, f.lat.b0, f.lat.b1, f.lat.b2⟩,
           g := if d.toNat = 0 ∨ 60 ≤ d.toNat then f.g else setNth 0 f.g d.toNat v }

/-- The fibre with flags added to FST (R133). -/
def Fibre.flagged (f : Fibre) (fl : Word) : Fibre := { f with fst := f.fst ||| fl }

/-- The fibre whose register `d` is not ready until access `uid` brings its value (R144). -/
def Fibre.owed (f : Fibre) (d uid : Nat) : Fibre := { f with notReady := (d, uid) :: f.notReady }

/-- The state with a result of fibre `f` waiting to be written (R133, R144). -/
def State.owing (s : State) (f : Fibre) (ws : List (Nat × Word)) (fl : Word) : State :=
  { s with uid := s.uid + 1, m := { s.m with results := s.m.results ++ [⟨s.uid, f.key, ws, fl⟩] } }

/-! ### Commit points (R152) -/

/-- A commit-point word may carry out its action: outside a task or in trap mode, with a buffer that can commit. -/
abbrev MayCommit (s : State) (f : Fibre) : Prop := f.inTask = false ∧ (f.trapMode = true ∨ s.canCommit f = true)

/-- The machine after the commit of a commit point: outside trap mode the buffered entries issued in program order. -/
def committed (s : State) (f : Fibre) : State :=
  if f.trapMode then s else f.region.foldl (fun s e => s.issueEntry f e) s

/-- The fibre after it, which has crossed the next word where that is a marked safe point (R71, R153). -/
def emptied (f : Fibre) : Fibre :=
  if f.trapMode then f else { f with region := [], afterCommit := if f.nextSafe then some (f.pc + 4) else none }

/-- Whether a word has a fixed latency and so shifts the latches (R58): INT to LEA but for the divisions, PWGET, LI, SEL,
GETSR, the vector words but for SFU, EXPR. -/
def fixedLatency (w : W32) : Bool :=
  let maj := w.toNat / 2 ^ 26
  let fn := w.toNat / 2 ^ 18 % 8
  (1 ≤ maj && maj ≤ 5) || (maj == 6 && fn < 4) || maj == 7 || (maj == 0x0A && fn == 4) || maj == 0x0B || maj == 0x0C ||
    (maj == 0x0D && fn == 0) || (0x10 ≤ maj && maj ≤ 0x1D) || maj == 0x1F

/-! ### Integer words (R163 to R167) -/

/-- A word of D, SA and SB. -/
abbrev MkAB := Hdr → BitVec 6 → BitVec 6 → BitVec 6 → Instr

/-- A word of D and SA. -/
abbrev MkA := Hdr → BitVec 6 → BitVec 6 → Instr

/-- The low 32 bits of a value, sign-extended. -/
def sxw (x : Word) : Word := (x.extractLsb' 0 32).signExtend 64

/-- The words of INT, INTX, SHIFT, MUL and LEA with a fixed-latency result of SA and SB, and their results. -/
def abTable : List (MkAB × (Word → Word → Word)) :=
  [(.add, fun a b => a + b), (.sub, fun a b => a - b), (.and, fun a b => a &&& b), (.or, fun a b => a ||| b),
   (.xor, fun a b => a ^^^ b), (.andn, fun a b => a &&& ~~~b), (.min, fun a b => if a.slt b then a else b),
   (.max, fun a b => if a.slt b then b else a), (.minu, fun a b => if a.ult b then a else b),
   (.maxu, fun a b => if a.ult b then b else a), (.addw, fun a b => sxw (a + b)), (.subw, fun a b => sxw (a - b)),
   (.absd, fun a b => if a.slt b then b - a else a - b), (.shl, fun a b => a <<< (b &&& 63#64)),
   (.shr, fun a b => a >>> (b &&& 63#64)), (.sar, fun a b => a.sshiftRight (b &&& 63#64).toNat),
   (.rol, fun a b => (a <<< (b &&& 63#64)) ||| (a >>> (64#64 - (b &&& 63#64)))),
   (.shlw, fun a b => sxw (a <<< (b &&& 31#64))),
   (.shrw, fun a b => (((a.extractLsb' 0 32) >>> (b &&& 31#64).toNat).signExtend 64)),
   (.sarw, fun a b => sxw ((sxw a).sshiftRight (b &&& 31#64).toNat)), (.mul, fun a b => a * b),
   (.mulh, fun a b => (a.signExtend 128 * b.signExtend 128).extractLsb' 64 64),
   (.mulhu, fun a b => (a.zeroExtend 128 * b.zeroExtend 128).extractLsb' 64 64), (.mulw, fun a b => sxw (a * b)),
   (.lea0, fun a b => a + b), (.lea1, fun a b => a + b * 2#64), (.lea2, fun a b => a + b * 4#64),
   (.lea3, fun a b => a + b * 8#64)]

/-- The words of INTI, with the results of SA and the immediate. -/
def aiTable : List (MkAB × (Word → Word → Word)) :=
  [(.intiAdd, fun a b => a + b), (.intiSub, fun a b => a - b), (.intiAnd, fun a b => a &&& b), (.intiOr, fun a b => a ||| b),
   (.intiXor, fun a b => a ^^^ b), (.intiAndn, fun a b => a &&& ~~~b), (.intiMin, fun a b => if a.slt b then a else b),
   (.intiMax, fun a b => if a.slt b then b else a)]

/-- The words of SHIFTI: whether the form is one of 32 bits, and the result by the amount. -/
def shiTable : List (MkAB × Bool × (Word → Nat → Word)) :=
  [(.shiftiShl, false, fun a n => a <<< n), (.shiftiShr, false, fun a n => a >>> n),
   (.shiftiSar, false, fun a n => a.sshiftRight n), (.shiftiRol, false, fun a n => (a <<< n) ||| (a >>> (64 - n))),
   (.shiftiShlw, true, fun a n => sxw (a <<< n)), (.shiftiShrw, true, fun a n => ((a.extractLsb' 0 32) >>> n).signExtend 64),
   (.shiftiSarw, true, fun a n => sxw ((sxw a).sshiftRight n))]

/-- CLZ, CTZ, POPC and BREV. A value has as many leading zero bits as there are k below 64 with the value below 2^k. -/
def unTable : List (MkA × (Word → Word)) :=
  [(.clz, fun a => BitVec.ofNat 64 ((List.range 64).countP fun k => a.toNat < 2 ^ k)),
   (.ctz, fun a => BitVec.ofNat 64 ((List.range 64).countP fun k => a.toNat % 2 ^ (k + 1) = 0)),
   (.popc, fun a => BitVec.ofNat 64 ((List.range 64).countP fun k => a.getLsbD k)), (.brev, fun a => a.reverse)]

/-- DIV, DIVU, REM and REMU of R166, with FST.DZ for a zero divisor. -/
def divTable : List (MkAB × (Word → Word → Word)) :=
  [(.div, fun a b => if b = 0 then BitVec.allOnes 64 else a.sdiv b), (.divu, fun a b => if b = 0 then BitVec.allOnes 64 else a / b),
   (.rem, fun a b => if b = 0 then a else a.srem b), (.remu, fun a b => if b = 0 then a else a % b)]

/-! ### Comparisons and predicates (R168, R169) -/

/-- The words of CMP and CMPI with their conditions. -/
def cmpTable : List ((Hdr → BitVec 3 → BitVec 3 → BitVec 6 → BitVec 6 → Instr) ×
    (Hdr → BitVec 3 → BitVec 3 → BitVec 6 → BitVec 6 → Instr) × (Word → Word → Bool)) :=
  [(.cmpEq, .cmpiEq, fun a b => a == b), (.cmpNe, .cmpiNe, fun a b => a != b), (.cmpLt, .cmpiLt, fun a b => a.slt b),
   (.cmpLe, .cmpiLe, fun a b => a.sle b), (.cmpLtu, .cmpiLtu, fun a b => a.ult b), (.cmpLeu, .cmpiLeu, fun a b => a.ule b),
   (.cmpTst, .cmpiTst, fun a b => a &&& b != 0), (.cmpNtst, .cmpiNtst, fun a b => a &&& b == 0)]

/-- The fibre with a predicate written; p0 discards (R38, R132). -/
def Fibre.predicated (f : Fibre) (n : BitVec 3) (v : Bool) : Fibre :=
  { f with pw := if n = 0 then f.pw else BitVec.ofNat 8 ((List.range 8).foldl (fun x i =>
      x + (if (if i = n.toNat then v else f.pw.getLsbD i) then 2 ^ i else 0)) 0) }

/-- R38: rule 0 writes c, 1 ANDs, 2 ORs, 3 writes NOT c. -/
def combined (cb : BitVec 3) (old c : Bool) : Bool :=
  if cb = 0 then c else if cb = 1 then old && c else if cb = 2 then old || c else !c

/-! ### Vector words (R186 to R210) -/

/-- Lane `i` of width `w`. -/
def laneAt (w : Nat) (x : Word) (i : Nat) : BitVec w := x.extractLsb' (w * i) w

/-- Whether destination lane `i` of width `w` is active (R197): no mask, or p[(N + j) mod 8] XOR P of its group j. -/
def activeLane (f : Fibre) (w i : Nat) : Bool :=
  match f.hints.vec with
  | none => true
  | some v => v.mask == 0 || (f.pred (v.mask + BitVec.ofNat 3 (w * i / 16)) != v.neg)

/-- Whether inactive lanes keep the old D: a mask without zeroing (R198). -/
def keepsOld (f : Fibre) : Bool :=
  match f.hints.vec with
  | none => false
  | some v => v.mask != 0 && !v.zero

/-- What a vector word computes in a lane: width, whether the form reads the old D, the lane and its flags from the fibre
(for its rounding mode), SA, SB and the old D. -/
structure LaneOp where
  w : Nat
  acc : Bool
  val : Fibre → Word → Word → Word → Nat → BitVec w × Word

/-- A result `r` with its flags: active lanes as computed, the others merged or zero. -/
def LaneOp.gives (p : LaneOp) (f : Fibre) (a b old r fl : Word) : Prop :=
  (∀ i < 64 / p.w, laneAt p.w r i =
    if activeLane f p.w i then (p.val f a b old i).1 else if keepsOld f then laneAt p.w old i else 0) ∧
  fl = ((List.range (64 / p.w)).filter (activeLane f p.w)).foldl (fun x i => x ||| (p.val f a b old i).2) 0

/-- A lane that wraps (R196). -/
def wraps (w : Nat) (acc : Bool) (v : Word → Word → Word → Nat → Int) : LaneOp :=
  ⟨w, acc, fun _ a b o i => (BitVec.ofInt w (v a b o i), 0)⟩

/-- A lane that saturates to `lo`..`hi` and then sets SAT (R196). -/
def saturates (w : Nat) (lo hi : Int) (acc : Bool) (v : Word → Word → Word → Nat → Int) : LaneOp :=
  ⟨w, acc, fun _ a b o i =>
    (BitVec.ofInt w (max lo (min hi (v a b o i))), if v a b o i < lo ∨ hi < v a b o i then fstSAT else 0)⟩

/-- Saturation to the signed range. -/
def satS (w : Nat) (acc : Bool) (v : Word → Word → Word → Nat → Int) : LaneOp :=
  saturates w (-(2 ^ (w - 1))) (2 ^ (w - 1) - 1) acc v

/-- Saturation to the unsigned range. -/
def satU (w : Nat) (acc : Bool) (v : Word → Word → Word → Nat → Int) : LaneOp := saturates w 0 (2 ^ w - 1) acc v

/-- A lane of all ones or zero. -/
def mask (w : Nat) (c : Word → Word → Nat → Bool) : LaneOp :=
  ⟨w, false, fun _ a b _ i => (if c a b i then BitVec.allOnes w else 0, 0)⟩

/-- A lane as a signed and as an unsigned integer. -/
def sl (w : Nat) (x : Word) (i : Nat) : Int := (laneAt w x i).toInt
def ul (w : Nat) (x : Word) (i : Nat) : Int := ((laneAt w x i).toNat : Int)

/-- An arithmetic shift to the right that rounds to nearest, halves up (R203). -/
def halfUp (v : Int) (n : Nat) : Int := if n = 0 then v else (v + 2 ^ (n - 1)) / 2 ^ n

/-- VADD, VSUB and VMUL (R201, R202). -/
def vArithTable : List (MkAB × LaneOp) :=
  [(.addB, wraps 8 false fun a b _ i => ul 8 a i + ul 8 b i), (.addH, wraps 16 false fun a b _ i => ul 16 a i + ul 16 b i),
   (.addW, wraps 32 false fun a b _ i => ul 32 a i + ul 32 b i), (.addsB, satS 8 false fun a b _ i => sl 8 a i + sl 8 b i),
   (.addsH, satS 16 false fun a b _ i => sl 16 a i + sl 16 b i), (.addsuB, satU 8 false fun a b _ i => ul 8 a i + ul 8 b i),
   (.addsuH, satU 16 false fun a b _ i => ul 16 a i + ul 16 b i),
   (.avgrH, wraps 16 false fun a b _ i => (sl 16 a i + sl 16 b i + 1) / 2),
   (.subB, wraps 8 false fun a b _ i => ul 8 a i - ul 8 b i), (.subH, wraps 16 false fun a b _ i => ul 16 a i - ul 16 b i),
   (.subW, wraps 32 false fun a b _ i => ul 32 a i - ul 32 b i), (.subsB, satS 8 false fun a b _ i => sl 8 a i - sl 8 b i),
   (.subsH, satS 16 false fun a b _ i => sl 16 a i - sl 16 b i), (.subsuB, satU 8 false fun a b _ i => ul 8 a i - ul 8 b i),
   (.subsuH, satU 16 false fun a b _ i => ul 16 a i - ul 16 b i),
   (.absdfH, wraps 16 false fun a b _ i => ((sl 16 a i - sl 16 b i).natAbs : Int)),
   (.mullH, wraps 16 false fun a b _ i => sl 16 a i * sl 16 b i),
   (.mulhH, wraps 16 false fun a b _ i => sl 16 a i * sl 16 b i / 65536),
   (.mulhrH, wraps 16 false fun a b _ i => (sl 16 a i * sl 16 b i + 32768) / 65536),
   (.mullW, wraps 32 false fun a b _ i => sl 32 a i * sl 32 b i),
   (.dot2H, satS 32 true fun a b o i => sl 32 o i + sl 16 a (2 * i) * sl 16 b (2 * i) + sl 16 a (2 * i + 1) * sl 16 b (2 * i + 1)),
   (.dot4B, satS 32 true fun a b o i => sl 32 o i + sl 8 a (4 * i) * sl 8 b (4 * i) + sl 8 a (4 * i + 1) * sl 8 b (4 * i + 1) +
     sl 8 a (4 * i + 2) * sl 8 b (4 * i + 2) + sl 8 a (4 * i + 3) * sl 8 b (4 * i + 3)),
   (.dot2uB, satU 16 true fun a b o i => ul 16 o i + ul 8 a (2 * i) * ul 8 b (2 * i) + ul 8 a (2 * i + 1) * ul 8 b (2 * i + 1)),
   (.madlH, wraps 16 true fun a b o i => sl 16 o i + sl 16 a i * sl 16 b i)]

/-- VSHIFT, VMINMAX and VCMP (R203, R204). -/
def vShiftTable : List (MkAB × LaneOp) :=
  [(.shlH, wraps 16 false fun a b _ i => ul 16 a i * 2 ^ (ul 16 b i % 16).toNat),
   (.shrH, wraps 16 false fun a b _ i => ul 16 a i / 2 ^ (ul 16 b i % 16).toNat),
   (.sarH, wraps 16 false fun a b _ i => sl 16 a i / 2 ^ (ul 16 b i % 16).toNat),
   (.sarrH, wraps 16 false fun a b _ i => halfUp (sl 16 a i) (ul 16 b i % 16).toNat),
   (.shlW, wraps 32 false fun a b _ i => ul 32 a i * 2 ^ (ul 32 b i % 32).toNat),
   (.sarW, wraps 32 false fun a b _ i => sl 32 a i / 2 ^ (ul 32 b i % 32).toNat),
   (.sarrW, wraps 32 false fun a b _ i => halfUp (sl 32 a i) (ul 32 b i % 32).toNat),
   (.narrowsWh, satS 16 false fun a b _ i => if i < 2 then sl 32 a i else sl 32 b (i - 2)),
   (.minH, wraps 16 false fun a b _ i => min (sl 16 a i) (sl 16 b i)), (.minB, wraps 8 false fun a b _ i => min (sl 8 a i) (sl 8 b i)),
   (.minW, wraps 32 false fun a b _ i => min (sl 32 a i) (sl 32 b i)), (.minuB, wraps 8 false fun a b _ i => min (ul 8 a i) (ul 8 b i)),
   (.maxH, wraps 16 false fun a b _ i => max (sl 16 a i) (sl 16 b i)), (.maxB, wraps 8 false fun a b _ i => max (sl 8 a i) (sl 8 b i)),
   (.maxW, wraps 32 false fun a b _ i => max (sl 32 a i) (sl 32 b i)), (.maxuB, wraps 8 false fun a b _ i => max (ul 8 a i) (ul 8 b i)),
   (.eqB, mask 8 fun a b i => laneAt 8 a i == laneAt 8 b i), (.eqH, mask 16 fun a b i => laneAt 16 a i == laneAt 16 b i),
   (.eqW, mask 32 fun a b i => laneAt 32 a i == laneAt 32 b i), (.gtB, mask 8 fun a b i => (laneAt 8 b i).slt (laneAt 8 a i)),
   (.gtH, mask 16 fun a b i => (laneAt 16 b i).slt (laneAt 16 a i)), (.gtW, mask 32 fun a b i => (laneAt 32 b i).slt (laneAt 32 a i)),
   (.gtuB, mask 8 fun a b i => (laneAt 8 b i).ult (laneAt 8 a i)), (.gtuH, mask 16 fun a b i => (laneAt 16 b i).ult (laneAt 16 a i))]

/-- VPERM (R205). -/
def vPermTable : List (MkAB × LaneOp) :=
  [(.shufH, ⟨16, false, fun _ a b _ i =>
     (if b.getLsbD (4 * i + 3) then 0 else laneAt 16 a ((laneAt 4 b i).toNat % 4), 0)⟩),
   (.ziploH, ⟨16, false, fun _ a b _ i => (laneAt 16 (if i % 2 = 0 then a else b) (i / 2), 0)⟩),
   (.ziphiH, ⟨16, false, fun _ a b _ i => (laneAt 16 (if i % 2 = 0 then a else b) (2 + i / 2), 0)⟩),
   (.unzipH, ⟨16, false, fun _ a b _ i => (laneAt 16 (if i < 2 then a else b) (2 * (i % 2)), 0)⟩),
   (.extzB, ⟨16, false, fun _ a b _ i => ((laneAt 8 a ((if b.getLsbD 0 then 4 else 0) + i)).zeroExtend 16, 0)⟩),
   (.extsB, ⟨16, false, fun _ a b _ i => ((laneAt 8 a ((if b.getLsbD 0 then 4 else 0) + i)).signExtend 16, 0)⟩),
   (.bcastH, ⟨16, false, fun _ a b _ _ => (laneAt 16 a (b.toNat % 4), 0)⟩),
   (.insH, ⟨16, true, fun _ a b o i => (if i = b.toNat % 4 then laneAt 16 a 0 else laneAt 16 o i, 0)⟩)]

/-- VSHIFTI (R203): the amount that is too large, and the lane by the amount. -/
def vShiftITable : List (MkAB × Nat × (Nat → LaneOp)) :=
  [(.vshiftiShlH, 16, fun n => wraps 16 false fun a _ _ i => ul 16 a i * 2 ^ n),
   (.vshiftiShrH, 16, fun n => wraps 16 false fun a _ _ i => ul 16 a i / 2 ^ n),
   (.vshiftiSarH, 16, fun n => wraps 16 false fun a _ _ i => sl 16 a i / 2 ^ n),
   (.vshiftiSarrH, 16, fun n => wraps 16 false fun a _ _ i => halfUp (sl 16 a i) n),
   (.vshiftiShlW, 32, fun n => wraps 32 false fun a _ _ i => ul 32 a i * 2 ^ n),
   (.vshiftiSarW, 32, fun n => wraps 32 false fun a _ _ i => sl 32 a i / 2 ^ n),
   (.vshiftiSarrW, 32, fun n => wraps 32 false fun a _ _ i => halfUp (sl 32 a i) n),
   (.vshiftiNarrowsWh, 32, fun n => ⟨16, true, fun f a b o i =>
     if i < 2 then (satS 16 true fun a _ _ i => halfUp (sl 32 a i) n).val f a b o i else (laneAt 16 o (i - 2), 0)⟩)]

/-! ### Floating-point words (R189 to R195, R206 to R210) -/

/-- A lane from encodings as numbers. -/
def fpLane (w : Nat) (acc : Bool) (v : Fibre → Word → Word → Word → Nat → Nat × Word) : LaneOp :=
  ⟨w, acc, fun f a b o i => (BitVec.ofNat w (v f a b o i).1, (v f a b o i).2)⟩

/-- Lane `i` of width `w` as the number of its encoding. -/
def en (w : Nat) (x : Word) (i : Nat) : Nat := (laneAt w x i).toNat

/-- The rounding mode of the VEC hint: RNE without one (R191). -/
def modeOf (f : Fibre) : Rounding :=
  match f.hints.vec with
  | none => .rne
  | some v => if v.round = 0 then .rne else if v.round = 1 then .rz else if v.round = 2 then .ru else .rd

/-- A lane of one rounded operation of two values of a format (R192). -/
def fp2 (F : FpFmt) (w : Nat) (op : Bool → Fp → Fp → Fp × Bool) : LaneOp :=
  fpLane w false fun f a b _ i => F.deliver (modeOf f) (op (modeOf f).isRd (F.value (en w a i)) (F.value (en w b i)))

/-- A lane of one rounded operation of the old D and two values. -/
def fp3 (F : FpFmt) (w : Nat) (op : Bool → Fp → Fp → Fp → Fp × Bool) : LaneOp :=
  fpLane w true fun f a b o i =>
    F.deliver (modeOf f) (op (modeOf f).isRd (F.value (en w o i)) (F.value (en w a i)) (F.value (en w b i)))

/-- FADD and FMUL (R206). -/
def fArithTable : List (MkAB × LaneOp) :=
  let sub := fun rd (x y : Fp) => x.plus rd y.negate
  let mul := fun (_ : Bool) (x y : Fp) => x.times y
  let fms := fun rd (d x y : Fp) => Fp.fma rd d x.negate y
  let fnma := fun rd (d x y : Fp) => Fp.fma rd d.negate x.negate y
  [(.addS2, fp2 fp32 32 Fp.plus), (.addH4, fp2 fp16 16 Fp.plus), (.addBh4, fp2 bf16 16 Fp.plus),
   (.subS2, fp2 fp32 32 sub), (.subH4, fp2 fp16 16 sub), (.subBh4, fp2 bf16 16 sub),
   (.mulS2, fp2 fp32 32 mul), (.mulH4, fp2 fp16 16 mul), (.mulBh4, fp2 bf16 16 mul),
   (.fmaS2, fp3 fp32 32 Fp.fma), (.fmaH4, fp3 fp16 16 Fp.fma), (.fmaBh4, fp3 bf16 16 Fp.fma),
   (.fmsS2, fp3 fp32 32 fms), (.fnmaS2, fp3 fp32 32 fnma)]

/-- FMINMAX of two operands and FCMP (R207, R208). -/
def fCmpTable : List (MkAB × LaneOp) :=
  let mm := fun (F : FpFmt) (w : Nat) (mx : Bool) => fpLane w false fun _ a b _ i => F.minMax mx (en w a i) (en w b i)
  let cmp := fun (F : FpFmt) (w : Nat) (c : FpCond) => fpLane w false fun _ a b _ i =>
    let r := F.compare c (en w a i) (en w b i)
    (if r.1 then 2 ^ w - 1 else 0, r.2)
  [(.minS2, mm fp32 32 false), (.minH4, mm fp16 16 false), (.minBh4, mm bf16 16 false), (.maxS2, mm fp32 32 true),
   (.maxH4, mm fp16 16 true), (.maxBh4, mm bf16 16 true), (.eqS2, cmp fp32 32 .eq), (.eqH4, cmp fp16 16 .eq),
   (.ltS2, cmp fp32 32 .lt), (.ltH4, cmp fp16 16 .lt), (.leS2, cmp fp32 32 .le), (.leH4, cmp fp16 16 .le),
   (.unS2, cmp fp32 32 .un), (.unH4, cmp fp16 16 .un)]

/-- The saturate-to-finite bit of the VEC hint. -/
def satOf (f : Fibre) : Bool :=
  match f.hints.vec with
  | none => false
  | some v => v.sat

/-- A lane converted between formats with one rounding (R209). -/
def cvtLane (F G : FpFmt) (f : Fibre) (x : Nat) : Nat × Word := F.convert G (modeOf f) (satOf f) x

/-- FP32 lane `i` of the four in SA and SB. -/
def quad (a b : Word) (i : Nat) : Nat := if i < 2 then en 32 a i else en 32 b (i - 2)

/-- The conversions of two operands (R209). -/
def cvtABTable : List (MkAB × LaneOp) :=
  let shiftIn := fun (G : FpFmt) => fpLane 8 true fun f a b o i =>
    if i < 4 then cvtLane fp32 G f (quad a b i) else (en 8 o (i - 4), 0)
  [(.cvtH4S2, fpLane 16 false fun f a b _ i => cvtLane fp32 fp16 f (quad a b i)),
   (.cvtBh4S2, fpLane 16 false fun f a b _ i => cvtLane fp32 bf16 f (quad a b i)),
   (.cvtE4m3S2, shiftIn fpE4m3), (.cvtE5m2S2, shiftIn fpE5m2),
   (.cvtS2E4m3, fpLane 32 false fun f a b _ i => cvtLane fpE4m3 fp32 f (en 8 a (2 * (b.toNat % 4) + i))),
   (.cvtS2E5m2, fpLane 32 false fun f a b _ i => cvtLane fpE5m2 fp32 f (en 8 a (2 * (b.toNat % 4) + i))),
   (.cvtH4E4m3, fpLane 16 false fun f a b _ i => cvtLane fpE4m3 fp16 f (en 8 a (4 * (b.toNat % 2) + i)))]

/-- ABS, NEG and the conversions of one operand (R207, R209, R210). -/
def fUnTable : List (MkA × LaneOp) :=
  [(.absS2, fpLane 32 false fun _ a _ _ i => (fp32.absR (en 32 a i), 0)),
   (.negS2, fpLane 32 false fun _ a _ _ i => (fp32.negR (en 32 a i), 0)),
   (.cvtS2H4lo, fpLane 32 false fun f a _ _ i => cvtLane fp16 fp32 f (en 16 a i)),
   (.cvtS2H4hi, fpLane 32 false fun f a _ _ i => cvtLane fp16 fp32 f (en 16 a (i + 2))),
   (.cvtS2Bh4lo, fpLane 32 false fun f a _ _ i => cvtLane bf16 fp32 f (en 16 a i)),
   (.cvtS2Bh4hi, fpLane 32 false fun f a _ _ i => cvtLane bf16 fp32 f (en 16 a (i + 2))),
   (.cvtE4m3H4, fpLane 8 true fun f a _ o i => if i < 4 then cvtLane fp16 fpE4m3 f (en 16 a i) else (en 8 o (i - 4), 0)),
   (.cvtS2W, fpLane 32 false fun f a _ _ i => fpOfInt (modeOf f) (sl 32 a i)),
   (.cvtS2Wz, fpLane 32 false fun f a _ _ i => fpOfInt (modeOf f) (ul 32 a i)),
   (.cvtWS2, fpLane 32 false fun f a _ _ i => fpToInt (modeOf f) (en 32 a i)),
   (.truncWS2, fpLane 32 false fun _ a _ _ i => fpToInt .rz (en 32 a i))]

/-- The words of SFU (R211, R212). -/
def sfuTable : List (MkA × SfuFn) :=
  [(.rcpS2, .rcp), (.rsqS2, .rsq), (.sqrtS2, .sqrt), (.exp2S2, .exp2), (.log2S2, .log2), (.sinS2, .sin), (.cosS2, .cos),
   (.tanhS2, .tanh)]

/-- The lane of an SFU word. -/
def sfuLane (fn : SfuFn) : LaneOp := fpLane 32 false fun _ a _ _ i => sfu fn (en 32 a i)

/-! ### Memory words (R255 to R264) -/

/-- Loads: the word for global memory and the word for scratchpad, bytes, and whether the value is sign-extended. -/
def loadTable : List (MkAB × MkAB × Nat × Bool) :=
  [(.ldb, .ldbL, 1, true), (.ldbz, .ldbzL, 1, false), (.ldh, .ldhL, 2, true), (.ldhz, .ldhzL, 2, false), (.ldw, .ldwL, 4, true),
   (.ldwz, .ldwzL, 4, false), (.ldd, .lddL, 8, false), (.ldq, .ldqL, 16, false)]

/-- Stores, and how many bytes they store. -/
def storeTable : List (MkAB × MkAB × Nat) :=
  [(.stb, .stbL, 1), (.sth, .sthL, 2), (.stw, .stwL, 4), (.std, .stdL, 8), (.stq, .stqL, 16)]

/-- Atomics on global memory: width in bytes, operation, and whether D is sign-extended. -/
def atomTable : List (MkAB × AtomForm) :=
  [(.amin, ⟨8, .min, false⟩), (.amax, ⟨8, .max, false⟩), (.aminu, ⟨8, .minu, false⟩), (.amaxu, ⟨8, .maxu, false⟩),
   (.aor, ⟨8, .or, false⟩), (.aand, ⟨8, .and, false⟩), (.aadd, ⟨8, .add, false⟩), (.aswap, ⟨8, .swap, false⟩),
   (.aminW, ⟨4, .min, true⟩), (.amaxW, ⟨4, .max, true⟩), (.aminuW, ⟨4, .minu, false⟩), (.amaxuW, ⟨4, .maxu, false⟩),
   (.aorW, ⟨4, .or, false⟩), (.aandW, ⟨4, .and, false⟩), (.aaddW, ⟨4, .add, true⟩), (.aswapW, ⟨4, .swap, false⟩),
   (.cas, ⟨8, .cas, false⟩), (.casw, ⟨4, .cas, true⟩), (.faddS, ⟨4, .fadd, false⟩), (.fmaxS, ⟨4, .fmax, false⟩)]

/-- Atomics on scratchpad. -/
def atomLTable : List (MkAB × AtomOp) :=
  [(.aminL, .min), (.amaxL, .max), (.aminuL, .minu), (.amaxuL, .maxu), (.aorL, .or), (.aandL, .and), (.aaddL, .add), (.aswapL, .swap)]

/-- Loaded bytes as a register value: `n` little-endian bytes, extended by sign or by zeros (R257). -/
def loaded (n : Nat) (signed : Bool) (bs : List Byte) : Word :=
  if signed then BitVec.ofInt 64 ((BitVec.ofNat (8 * n) (natLE bs)).toInt) else BitVec.ofNat 64 (natLE bs)

/-- The byte a fibre reads at an offset of a team's scratchpad: its own newest buffered store, else what is there (R82). -/
def spadByte (s : State) (f : Fibre) (team off : Nat) : Byte :=
  (byteIn (f.bufferedSpad team) off).getD ((s.team? f.key.launch team).elim 0 fun t => memGet t.spad off)

/-- No chunk that a range of scratchpad touches still waits for its fill (R225). -/
abbrev Filled (s : State) (launch team : Nat) (spans : List (Nat × Nat)) : Prop :=
  ∀ p ∈ spans, (s.team? launch team).bind (fun t => t.boundChunk p.1 p.2) = none

/-- The bytes a store stores: the low `n` bytes of D, or D and D+1 (R258). -/
def storedBytes (f : Fibre) (d : BitVec 6) (n : Nat) : List Byte :=
  if n = 16 then bytesLE 8 (f.src d).toNat ++ bytesLE 8 (f.readG (d.toNat + 1)).toNat else bytesLE n (f.src d).toNat

/-- What goes before an atomic (R152, R259): nothing in trap mode; a commit for one that is not idempotent or releases;
a commit that leaves SPC alone for one whose bytes overlap a buffered store. None where the word may not act now. -/
def atomBefore (fm : AtomForm) (rel overlap : Bool) (s : State) (f : Fibre) : Option (State × Fibre) :=
  if f.trapMode then some (s, f)
  else if atomIdempotent fm.op && !rel && !overlap then some (s, f)
  else if f.inTask || !(s.canCommit f) then none
  else if atomIdempotent fm.op && !rel then
    some (f.region.foldl (fun s e => s.issueEntry f e) s, { f with region := [] })
  else some (committed s f, emptied f)

/-- The new value of an atomic in memory, from the old one, the operand and the compare value, all of the width (R259,
R260). -/
def atomResult (fm : AtomForm) (w : Nat) (old opd cmp : BitVec w) : BitVec w :=
  match fm.op with
  | .min => if opd.slt old then opd else old
  | .max => if old.slt opd then opd else old
  | .minu => if opd.ult old then opd else old
  | .maxu => if old.ult opd then opd else old
  | .or => old ||| opd
  | .and => old &&& opd
  | .add => old + opd
  | .swap => opd
  | .cas => if old = cmp then opd else old
  | .fadd => BitVec.ofNat w (fp32.addR .rne old.toNat opd.toNat).1
  | .fmax => BitVec.ofNat w (fp32.minMax true old.toNat opd.toNat).1

/-! ### Engine commands (R19 to R33) -/

/-- The words of COPY, with their form and how many registers the group at SA has (R268). -/
def copyTable : List ((Gd → BitVec 3 → BitVec 2 → BitVec 6 → BitVec 6 → Instr) × Nat × Nat) :=
  [(.cpy, 0, 2), (.cpy2d, 1, 3), (.fill, 2, 2), (.cpyfp, 3, 3), (.cmpb, 4, 3), (.spmap, 5, 2), (.spfill, 6, 1), (.spwb, 7, 1),
   (.spunmap, 8, 1)]

/-- The words of GATH, with their form. -/
def gatherTable : List ((Gd → BitVec 3 → BitVec 2 → BitVec 6 → BitVec 6 → Instr) × Nat) :=
  [(.gather, 0), (.gsum, 1), (.gmax, 2), (.scatter, 3), (.scadd, 4), (.hamd, 5)]

/-- The command that a word presents. -/
def newCmd (q : CmdAsk) (s : State) (f : Fibre) : Cmd :=
  { uid := s.uid, engine := q.engine, unit := unitOf q.engine f.core, issuer := f.key, core := f.core, fn := s.fnOf f,
    ticket := BitVec.ofNat 64 (q.engine * 2 ^ 60 + f.seq % 2 ^ 32), form := q.form, regs := q.regs, scope := q.scope,
    ord := q.ord, guard := q.guard, resolver := none, state := .presented, arrival := 0, acqWait := f.gwmax, tEnd := 0,
    pct := 0, src := q.src, dst := q.dst, leaves := q.leaves, far := q.far, asked := false, missed := false, due := 0,
    buf := [], dq := 0, gather := q.gather, grants := [], stale := [], bad := [], todo := [], got := [],
    gotBad := [], out := [], probing := false, plan := none }

/-- The machine with it in its queue, unguarded from then on unless its guard is undecided (R30). With acquire it waits for
the GWCTs of its issuer's writes so far, and its acquire begins unless its guard is undecided (R33, R103). -/
def presentedIn (q : CmdAsk) (s : State) (f : Fibre) : State :=
  let c := newCmd q s f
  let decided := (s.guardSays c).isSome
  let s' := { s with uid := s.uid + 1, cmds := s.cmds ++ [if decided then { c with guard := none } else c] }
  let s' := if q.ord % 2 = 1 then s'.awaitIssuer s.uid f.key else s'
  if q.ord % 2 = 1 ∧ decided then s'.beginAcquire s.uid f.core q.scope else s'

/-- A word presents a command from state `s1` (R19, R20, R30): after its commit the fibre counts one more command; a
command whose guard has decided against it is discarded and the fibre goes on; every other one joins its queue, the
fibre waits at acceptance, and the engines look at their queues at once. -/
def Presents (i : Instr) (s : State) (f : Fibre) (q : CmdAsk) (s1 : State) : Prop :=
  let s2 := committed s1 f
  let f2 := emptied f
  let f3 := { f2 with seq := f2.seq + 1 }
  (s2.guardSays (newCmd q s2 f2) = some false → Does i s f true s2 f3 s1) ∧
  (s2.guardSays (newCmd q s2 f2) ≠ some false →
    exec i s = .next ((((presentedIn q s2 f2).setFibre (f3.blockedAt s2.ftime (.accept s2.uid))).pump).leaveBatch f.key))

end Sys2Proof.Machine

end
end

