-- ==== Sys2Proof/Certificates/Slice0/Obligations.lean ====
section
/-! DEFINITION. The statements of this model for the provers. -/

noncomputable section

open Sys2Proof Sys2Proof.Machine

/-! ### Encoding, decoding, fetching -/

/-- R35, R37, R45: every well-formed instruction that has a word is what its word decodes to; no operand bit is lost. -/
def Obligations.DecodingAnEncodedWordGivesItBack : Prop :=
  ∀ (i : Instr) (w : W32), i.wf = true → encode i = some w → decodeWord w = .ok i

/-- R40, R55: a word that decodes is the encoding of a well-formed instruction: each legal word has one meaning, and a
reserved bit that is not zero is not accepted. -/
def Obligations.EveryDecodedWordIsAnEncoding : Prop :=
  ∀ (i : Instr) (w : W32), decodeWord w = .ok i → i.wf = true ∧ encode i = some w

/-- The worked encodings of the manual decode to what they are said to be: of ADD, EXPR, MUL.s2, CPYFP, EVSIG and END, of the GATH
words GATHER and SCADD (R309), of the ACC words DRAIN and ABALLOC (R357), and of the WORK words WPUSH and WPOPW (R393). -/
def Obligations.WorkedEncodingsDecode : Prop :=
  decodeWord 0x0400513C = .ok (.add ⟨false, 0, false⟩ 5 4 60) ∧
  decodeWord 0x7E089105 = .ok (.expr ⟨true, 0, false⟩ 2 9 4 5) ∧
  decodeWord 0x64006105 = .ok (.mulS2 ⟨false, 0, false⟩ 6 4 5) ∧
  decodeWord 0xE20F3200 = .ok (.cpyfp ⟨0, false⟩ 3 3 8 0) ∧
  decodeWord 0xEE0E1105 = .ok (.evsig ⟨0, false⟩ 3 2 4 5) ∧
  decodeWord 0x8E080003 = .ok (.endFibre ⟨0, false⟩ 0 3) ∧
  decodeWord 0xE60C0209 = .ok (.gather ⟨0, false⟩ 3 0 8 9) ∧
  decodeWord 0xE60E4A6A = .ok (.scadd ⟨0, false⟩ 3 2 41 42) ∧
  decodeWord 0xCA0B1C00 = .ok (.drain ⟨0, false⟩ 49 48 0) ∧
  decodeWord 0xCA02F640 = .ok (.aballoc ⟨0, false⟩ 47 25) ∧
  decodeWord 0xEAC00658 = .ok (.wpush ⟨3, false⟩ 0 25 24) ∧
  decodeWord 0xEA060181 = .ok (.wpopw ⟨0, false⟩ 0 6 true)

/-- A step whose next move is the issue of a batch's word runs exactly the instruction that the bytes at the program
counter decode to: the fibre's word is taken down, its translation cached, its line's marks are in the i-cache (R71), the
safe point is crossed where the word is one (R150), then `exec`, then the slots take turns and time passes.
The model's choices in it: log 5 (the slots take turns), log 16 (a fetch reads at the home; which i-cache lines stay), log 17 (a far
line is dropped once used), log 26 (a placed word), log 49 (the commit at a safe point goes before the word, even one that then
traps or waits). -/
def Obligations.StepRunsTheDecodedInstruction : Prop :=
  ∀ (s : State) (c p n : Nat) (r : List Move) (f : Fibre) (l : Launch) (leaf : Leaf) (pa : Nat) (b0 b1 b2 b3 : Byte)
    (i : Instr),
    s.agenda = .issue c p n :: r → s.mg.fatal = false →
    let s1 := ({ s with agenda := r }).frontBatch c p n
    s1.cur = some f → f.status = .eligible →
    let s2 := s1.evictCode f.core
    s2.launchOf f = some l → l.inText f.pc = true →
    s2.translate (.core f.core) l.fn f.pc.toNat false = .ok leaf → placeIn leaf f.pc.toNat = .dram pa →
    s2.m.homeBytes s2.ftime .home (Place.dram pa).line none leaf.key (Place.dram pa).off 4 = [b0, b1, b2, b3] →
    decode [b0, b1, b2, b3] = .ok (i, []) →
    isHint (wordOfBytes b0 b1 b2 b3) = false → tooLong f (wordOfBytes b0 b1 b2 b3) = false →
    f.hints.misfit (wordOfBytes b0 b1 b2 b3) = none →
    let g0 := { f with ir := wordOfBytes b0 b1 b2 b3, afterCommit := none, nextSafe := false }
    ∀ s3, (s2.cache (.core f.core) (s2.fnOf f) f.pc.toNat leaf).withMarks g0 = .ok s3 →
    let s4 := s3.dropFar [(Place.dram pa).line]
    let g := { g0 with nextSafe := s4.isSafe g0 (f.pc + 4) }
    let runs := fun (s' : State) =>
      step s = match exec i s' with
        | .next t => .next t.rotateBatches.pass
        | o => o
    (s4.isSafe g f.pc = false → runs (s4.setFibre g)) ∧
    (s4.isSafe g f.pc = true → g.waits rsReg = false → (g.trapMode = true ∨ g.task.isSome = true) → runs (s4.setFibre g)) ∧
    (s4.isSafe g f.pc = true → g.waits rsReg = false → g.trapMode = false → g.task = none → s4.canCommit g = true →
      runs ((g.region.foldl (fun s e => s.issueEntry g e) s4).setFibre
        { g with region := [], spc := g.pc, rstart := g.rstack, rstartDepth := g.depth }))

/-- R36, R44: a word whose guard does not hold only passes its slot, and a fixed-latency one (R58) shifts the latches
with the mark unwritten; nothing else changes. -/
def Obligations.GuardedOffWordsOnlyPass : Prop :=
  ∀ (i : Instr) (w : W32) (s : State) (f : Fibre),
    encode i = some w → w.toNat / 2 ^ 26 ≠ 63 → s.cur = some f →
    f.guardOn (w.extractLsb' 22 3) (w.getLsbD 21) = false →
    Does i s f (w.getLsbD 25) s
      (if fixedLatency w then { f with lat := ⟨none, f.lat.b0, f.lat.b1, f.lat.b2⟩ } else f)

/-! ### Operands, immediates, faults of operands -/

/-- R41, R49, R50, R132: how operands are read: g0 is zero, codes 60 to 63 are the latches, KSRC puts team registers in the
place of SB and SA, LIT and LITH widen an immediate to the sign-extended concatenation. -/
def Obligations.OperandsAndImmediates : Prop :=
  ∀ (s : State) (f : Fibre),
    f.src 0 = 0 ∧ (∀ c : BitVec 6, 0 < c.toNat → c.toNat < 60 → f.src c = nth 0 f.g c.toNat) ∧
    (∀ v, f.lat.b0 = some v → f.src 60 = v) ∧ (∀ v, f.lat.b1 = some v → f.src 61 = v) ∧
    (∀ v, f.lat.b2 = some v → f.src 62 = v) ∧ (∀ v, f.lat.b3 = some v → f.src 63 = v) ∧
    (∀ c : BitVec 6, f.hints.ksrc = none → s.srcA f c = f.src c ∧ s.srcB f c = f.src c) ∧
    (∀ (c : BitVec 6) (k : BitVec 9) (t : Team), f.hints.ksrc = some (k, false) → s.teamOf f = some t →
      s.srcA f c = f.src c ∧ s.srcB f c = nth 0 t.k k.toNat) ∧
    (∀ (c : BitVec 6) (k : BitVec 9) (t : Team), f.hints.ksrc = some (k, true) → s.teamOf f = some t →
      s.srcA f c = nth 0 t.k (k.toNat + 1) ∧ s.srcB f c = nth 0 t.k k.toNat) ∧
    (∀ i : BitVec 6, f.hints.lit = none → f.widen 6 i.toNat = i.signExtend 64) ∧
    (∀ (i : BitVec 6) (l : BitVec 22), f.hints.lit = some l → f.hints.lith = none → f.widen 6 i.toNat = (l ++ i).signExtend 64) ∧
    (∀ (i : BitVec 6) (l h : BitVec 22), f.hints.lit = some l → f.hints.lith = some h →
      f.widen 6 i.toNat = (h ++ (l ++ i)).signExtend 64) ∧
    (∀ i : BitVec 15, f.hints.lit = none → f.widen 15 i.toNat = i.signExtend 64) ∧
    (∀ (i : BitVec 15) (l : BitVec 22), f.hints.lit = some l → f.hints.lith = none → f.widen 15 i.toNat = (l ++ i).signExtend 64) ∧
    (∀ (i : BitVec 15) (l h : BitVec 22), f.hints.lit = some l → f.hints.lith = some h →
      f.widen 15 i.toNat = (h ++ (l ++ i)).signExtend 64) ∧
    (∀ (i : BitVec 21), f.hints.lit = none → f.widen 21 i.toNat = i.signExtend 64) ∧
    (∀ (i : BitVec 21) (l : BitVec 22), f.hints.lit = some l → f.hints.lith = none → f.widen 21 i.toNat = (l ++ i).signExtend 64)

/-- R42, R43, R44, R53, R54, R141: for the fixed-latency words of two sources: a code outside the window traps with
ILLEGAL_OPERAND and the lowest FIELD at fault; else an unwritten latch traps with LATCH_UNWRITTEN; else a register that is
not ready holds the word. TVAL holds the FIELD and the word, TPC its address.
The model's choices in it: log 18 (the order of the checks where the manual leaves it open). -/
def Obligations.OperandFaultsOfTwoSourceWords : Prop :=
  ∀ mk ∈ abTable.map (·.1) ++ (vArithTable ++ vShiftTable ++ vPermTable ++ fArithTable ++ fCmpTable ++ cvtABTable).map (·.1),
    ∀ (h : Hdr) (d a b : BitVec 6) (s : State) (f : Fibre),
      Issues s f h.pg h.pn → f.hints.ksrc = none → f.hints.vec = none →
      let bad := fun (c : BitVec 6) => 0 < c.toNat ∧ c.toNat < 60 ∧ f.window ≤ c.toNat
      let open_ := fun (c : BitVec 6) => 60 ≤ c.toNat ∧ f.latch c = none
      let value := fun (n : Nat) => BitVec.ofNat 64 (n * 2 ^ 32 + f.ir.toNat)
      (bad d → Traps (mk h d a b) s s f 0x02 (value 1) f.pc) ∧
      (¬ bad d → bad a → Traps (mk h d a b) s s f 0x02 (value 2) f.pc) ∧
      (¬ bad d → ¬ bad a → bad b → Traps (mk h d a b) s s f 0x02 (value 3) f.pc) ∧
      (¬ bad d → ¬ bad a → ¬ bad b → f.latch d ≠ none ∨ d.toNat < 60 → open_ a →
        Traps (mk h d a b) s s f 0x0F (value 2) f.pc) ∧
      (¬ bad d → ¬ bad a → ¬ bad b → f.latch d ≠ none ∨ d.toNat < 60 → ¬ open_ a → open_ b →
        Traps (mk h d a b) s s f 0x0F (value 3) f.pc) ∧
      (¬ bad d → ¬ bad a → ¬ bad b → f.latch d ≠ none ∨ d.toNat < 60 → ¬ open_ a → ¬ open_ b → a.toNat < 60 →
        f.waits a.toNat = true → exec (mk h d a b) s = .next s)

/-! ### Integer words -/

/-- R163 to R167: the words of INT, INTX, SHIFT, MUL FN 0-3 and LEA write their result to D and the newest latch and change
nothing else.
The model's choices in it: log 12 (the next word can read the result). -/
def Obligations.IntegerWordsWriteTheirResult : Prop :=
  ∀ p ∈ abTable, ∀ (h : Hdr) (d a b : BitVec 6) (s : State) (f : Fibre),
    Issues s f h.pg h.pn → Ready f (⟨1, d, .dst⟩ :: f.srcsAB a b) f.ksrcBad →
    Does (p.1 h d a b) s f h.e s (f.holding d (p.2 (s.srcA f a) (s.srcB f b)))

/-- R163 to R165: the words of INTI and SHIFTI and the unary ones write their result and change nothing else; a 32-bit SHIFTI form with an amount above 31 traps with
ILLEGAL_OPERAND, FIELD 3. -/
def Obligations.ImmediateAndUnaryIntegerWords : Prop :=
  ∀ (h : Hdr) (d a i : BitVec 6) (s : State) (f : Fibre),
    Issues s f h.pg h.pn → Ready f [⟨1, d, .dst⟩, ⟨2, a, .src⟩] f.ksrcBad →
    (∀ p ∈ aiTable, Does (p.1 h d a i) s f h.e s (f.holding d (p.2 (f.src a) (f.widen 6 i.toNat)))) ∧
    (∀ p ∈ shiTable, p.2.1 = false ∨ i.toNat < 32 →
      Does (p.1 h d a i) s f h.e s (f.holding d (p.2.2 (f.src a) i.toNat))) ∧
    (∀ p ∈ shiTable, p.2.1 = true → 32 ≤ i.toNat →
      Traps (p.1 h d a i) s s f 0x02 (BitVec.ofNat 64 (3 * 2 ^ 32 + f.ir.toNat)) f.pc) ∧
    (∀ p ∈ unTable, Does (p.1 h d a) s f h.e s (f.holding d (p.2 (f.src a))))

/-- R59, R144, R166: DIV, DIVU, REM and REMU leave D not ready; their quotient or remainder, with FST.DZ for a zero divisor,
waits to be written.
The model's choices in it: log 2 (the result is written by an event of its own). -/
def Obligations.DivisionsOweTheirResult : Prop :=
  ∀ p ∈ divTable, ∀ (h : Hdr) (d a b : BitVec 6) (s : State) (f : Fibre),
    Issues s f h.pg h.pn → Ready f (⟨1, d, .long⟩ :: f.srcsAB a b) f.ksrcBad →
    Does (p.1 h d a b) s f h.e
      (s.owing f [(d.toNat, p.2 (s.srcA f a) (s.srcB f b))] (if s.srcB f b = 0 then fstDZ else 0)) (f.owed d.toNat s.uid)

/-- R38, R168: CMP and CMPI combine their condition into a predicate and change nothing else, not even that where their
guard does not hold; their words. -/
def Obligations.ComparisonsWriteAPredicate : Prop :=
  (∀ p ∈ cmpTable, ∀ (h : Hdr) (pd cb : BitVec 3) (a b : BitVec 6) (s : State) (f : Fibre),
     Issues s f h.pg h.pn → cb.toNat < 4 →
     (Ready f (f.srcsAB a b) f.ksrcBad → Does (p.1 h pd cb a b) s f h.e s
       (f.predicated pd (combined cb (f.pred pd) (p.2.2 (s.srcA f a) (s.srcB f b))))) ∧
     (Ready f [⟨2, a, .src⟩] [] → Does (p.2.1 h pd cb a b) s f h.e s
       (f.predicated pd (combined cb (f.pred pd) (p.2.2 (f.src a) (f.widen 6 b.toNat)))))) ∧
  (∀ p ∈ cmpTable, ∀ (h : Hdr) (pd cb : BitVec 3) (a b : BitVec 6) (s : State) (f : Fibre),
     s.cur = some f → f.guardOn h.pg h.pn = false →
     Does (p.1 h pd cb a b) s f h.e s f ∧ Does (p.2.1 h pd cb a b) s f h.e s f) ∧
  (∀ p ∈ cmpTable.zipIdx, ∀ (h : Hdr) (pd cb : BitVec 3) (a b : BitVec 6),
     let low := BitVec.ofBool h.e ++ h.pg ++ BitVec.ofBool h.pn ++ BitVec.ofNat 3 p.2 ++ pd ++ cb ++ a ++ b
     encode (p.1.1 h pd cb a b) = some (0x08#6 ++ low) ∧ encode (p.1.2.1 h pd cb a b) = some (0x09#6 ++ low))

/-- R169 to R171: PAND, POR, PXOR, PNOT, PWGET, PWSET, LI and SEL: predicates, the predicate word, an immediate, and the
choice of SA or SB by a predicate, p0 choosing SA, with the word of SEL. -/
def Obligations.PredicateMovesAndSelection : Prop :=
  ∀ (h : Hdr) (s : State) (f : Fibre), Issues s f h.pg h.pn →
    (∀ d a b : BitVec 3, Does (.pand h d a b) s f h.e s (f.predicated d (f.pred a && f.pred b)) ∧
      Does (.por h d a b) s f h.e s (f.predicated d (f.pred a || f.pred b)) ∧
      Does (.pxor h d a b) s f h.e s (f.predicated d (f.pred a ^^ f.pred b)) ∧
      Does (.pnot h d a) s f h.e s (f.predicated d (!f.pred a))) ∧
    (∀ d : BitVec 6, Ready f [⟨1, d, .dst⟩] f.ksrcBad →
      Does (.pwget h d) s f h.e s (f.holding d ((f.pw ||| 1#8).zeroExtend 64)) ∧
      ∀ i : BitVec 15, Does (.li h d i) s f h.e s (f.holding d (f.widen 15 i.toNat))) ∧
    (∀ a : BitVec 6, Ready f [⟨2, a, .src⟩] [] →
      Does (.pwset h a) s f h.e s { f with pw := (f.src a).truncate 8 ||| 1#8 }) ∧
    (∀ (p : BitVec 3) (d a b : BitVec 6), (Ready f (⟨1, d, .dst⟩ :: f.srcsAB a b) f.ksrcBad →
      Does (.sel h p d a b) s f h.e s (f.holding d (if f.pred p then s.srcA f a else s.srcB f b))) ∧
      (f.pred 0 = true ∧ encode (.sel h p d a b) =
        some (0x0C#6 ++ BitVec.ofBool h.e ++ h.pg ++ BitVec.ofBool h.pn ++ p ++ d ++ a ++ b)))

/-- R60, R133, R134, R172: GETSR, SETSR, GETK and PUTK: the special registers by number, the bits of FST that software
writes, the low bits of TPC and TVEC that read zero, and the team registers. -/
def Obligations.SpecialAndTeamRegisters : Prop :=
  ∀ (h : Hdr) (s : State) (f : Fibre) (l : Launch) (t : Team),
    Issues s f h.pg h.pn → s.launchOf f = some l → s.teamOf f = some t →
    (∀ (d : BitVec 6) (n : BitVec 6) (v : Word), Ready f [⟨1, d, .dst⟩] [] →
      (n, v) ∈ [(0, BitVec.ofNat 64 f.key.fid), (1, BitVec.ofNat 64 f.key.team), (2, BitVec.ofNat 64 (f.key.team / l.rope)),
        (3, BitVec.ofNat 64 f.role), (4, BitVec.ofNat 64 l.nfib), (5, BitVec.ofNat 64 s.ftime), (6, BitVec.ofNat 64 f.ft),
        (7, f.fst), (8, BitVec.ofNat 64 f.gwmax), (9, f.tpc), (10, f.tcause), (11, f.tval), (12, t.tvec),
        (13, BitVec.ofNat 64 l.stepn), (14, BitVec.ofNat 64 f.key.launch), (15, f.spc)] →
      (n = 7 → s.flagsOut f.key = false) → (n = 8 → s.writesOut f.key = false) →
      Does (.getsr h d n) s f h.e s (f.holding d v)) ∧
    (∀ b : BitVec 6, Ready f [⟨3, b, .src⟩] [] →
      (s.flagsOut f.key = false → Does (.setsr h 7 b) s f h.e s
        { f with fst := (f.fst &&& ~~~0x57F#64) ||| (f.src b &&& 0x57F#64) }) ∧
      Does (.setsr h 9 b) s f h.e s { f with tpc := f.src b &&& ~~~3#64 } ∧
      Does (.setsr h 12 b) s f h.e (s.onTeam f.key.launch f.key.team fun t => { t with tvec := f.src b &&& ~~~3#64 }) f) ∧
    (∀ (d : BitVec 6) (k : BitVec 12), k.toNat < 384 → Ready f [⟨1, d, .long⟩] [] →
      Does (.getk h d k) s f h.e (s.owing f [(d.toNat, nth 0 t.k k.toNat)] 0) (f.owed d.toNat s.uid)) ∧
    (∀ (d : BitVec 6) (k : BitVec 12), k.toNat < 384 → Ready f [⟨1, d, .src⟩] [] →
      Does (.putk h d k) s f h.e
        (s.onTeam f.key.launch f.key.team fun t => { t with k := setNth 0 t.k k.toNat (f.src d) }) f)

/-! ### Vector words -/

/-- R186 to R188, R196 to R198, R201 to R205: the packed integer words compute each active lane as their rule says,
wrapping or saturating with FST.SAT; masked-off lanes keep the old D or become zero; nothing else changes. The same of the
VSHIFTI words, whose amount of a lane's width or more traps. -/
def Obligations.PackedIntegerWords : Prop :=
  (∀ p ∈ vArithTable ++ vShiftTable ++ vPermTable, ∀ (h : Hdr) (d a b : BitVec 6) (s : State) (f : Fibre),
     Issues s f h.pg h.pn →
     Ready f (⟨1, d, .dst⟩ :: (if p.2.acc || keepsOld f then [⟨1, d, .src⟩] else []) ++ f.srcsAB a b) f.ksrcBad →
     ∃ r fl, p.2.gives f (s.srcA f a) (s.srcB f b) (f.src d) r fl ∧
       Does (p.1 h d a b) s f h.e s ((f.flagged fl).holding d r)) ∧
  (∀ p ∈ vShiftITable, ∀ (h : Hdr) (d a i : BitVec 6) (s : State) (f : Fibre),
     Issues s f h.pg h.pn →
     Ready f (⟨1, d, .dst⟩ :: (if (p.2.2 i.toNat).acc || keepsOld f then [⟨1, d, .src⟩] else []) ++ [⟨2, a, .src⟩]) [] →
     (i.toNat < p.2.1 → ∃ r fl, (p.2.2 i.toNat).gives f (f.src a) 0 (f.src d) r fl ∧
       Does (p.1 h d a i) s f h.e s ((f.flagged fl).holding d r)) ∧
     (p.2.1 ≤ i.toNat → Traps (p.1 h d a i) s s f 0x02 (BitVec.ofNat 64 (3 * 2 ^ 32 + f.ir.toNat)) f.pc))

/-- R191 to R195, R206 to R212: the floating-point words: each active lane is one rounding of the exact result, in the mode
of the VEC hint, with its flags merged into FST; the unary ones; and the words of SFU, whose result and flags wait to be
written. Values ±m × 2^e are compared here as multiples of 2^k for any k below their exponents: the sum and the product that are
rounded are exact; and of the values of a format the rounding of one in its finite range is the nearest, of two equally near ones
that with the even encoding, or the next toward zero, upward or downward, as the mode says (R191), with IX set exactly where it
differs.
The model's choices in it: log 10 (results of SFU that the manual only bounds). -/
def Obligations.FloatingPointWords : Prop :=
  (∀ p ∈ fArithTable ++ fCmpTable ++ cvtABTable, ∀ (h : Hdr) (d a b : BitVec 6) (s : State) (f : Fibre),
     Issues s f h.pg h.pn →
     Ready f (⟨1, d, .dst⟩ :: (if p.2.acc || keepsOld f then [⟨1, d, .src⟩] else []) ++ f.srcsAB a b) f.ksrcBad →
     ∃ r fl, p.2.gives f (s.srcA f a) (s.srcB f b) (f.src d) r fl ∧
       Does (p.1 h d a b) s f h.e s ((f.flagged fl).holding d r)) ∧
  (∀ (h : Hdr) (d a : BitVec 6) (s : State) (f : Fibre), Issues s f h.pg h.pn →
     (∀ p ∈ fUnTable,
       Ready f (⟨1, d, .dst⟩ :: (if p.2.acc || keepsOld f then [⟨1, d, .src⟩] else []) ++ [⟨2, a, .src⟩]) [] →
       ∃ r fl, p.2.gives f (f.src a) 0 (f.src d) r fl ∧ Does (p.1 h d a) s f h.e s ((f.flagged fl).holding d r)) ∧
     (∀ p ∈ sfuTable,
       Ready f (⟨1, d, .long⟩ :: (if keepsOld f then [⟨1, d, .src⟩] else []) ++ [⟨2, a, .src⟩]) [] →
       ∃ r fl, (sfuLane p.2).gives f (f.src a) 0 (f.src d) r fl ∧
         Does (p.1 h d a) s f h.e (s.owing f [(d.toNat, r)] fl) (f.owed d.toNat s.uid))) ∧
  (∀ (rd na nb : Bool) (ma mb : Nat) (ea eb : Int),
    (∃ n m e, Fp.plus rd (.fin na ma ea) (.fin nb mb eb) = (.fin n m e, false) ∧ ∀ k, k ≤ ea → k ≤ eb →
      k ≤ e ∧ signedAt n m e k = signedAt na ma ea k + signedAt nb mb eb k) ∧
    ∃ n m e, Fp.times (.fin na ma ea) (.fin nb mb eb) = (.fin n m e, false) ∧ ∀ k l, k ≤ ea → l ≤ eb →
      k + l ≤ e ∧ signedAt n m e (k + l) = signedAt na ma ea k * signedAt nb mb eb l) ∧
  (∀ F ∈ [fp32, fp16, bf16, fpE4m3, fpE5m2], ∀ (mode : Rounding) (n : Bool) (m mx : Nat) (e ex : Int), 0 < m →
    F.value F.maxEnc = .fin false mx ex → (∀ k, k ≤ e → k ≤ ex → (signedAt n m e k).natAbs ≤ (signedAt false mx ex k).natAbs) →
    ∃ r fl my ey, F.round mode false (.fin n m e) = (r, fl) ∧ F.value r = .fin n my ey ∧
      ∀ k, k ≤ e → k ≤ F.qmin →
        let x := signedAt n m e k
        let y := signedAt n my ey k
        (fl &&& fstIX = 0 ↔ y = x) ∧
        ∀ z nz mz ez, F.value z = .fin nz mz ez →
          let w := signedAt nz mz ez k
          (mode = .rz → y.natAbs ≤ x.natAbs ∧ (w.natAbs ≤ x.natAbs → w.natAbs ≤ y.natAbs)) ∧
          (mode = .ru → x ≤ y ∧ (x ≤ w → y ≤ w)) ∧
          (mode = .rd → y ≤ x ∧ (w ≤ x → w ≤ y)) ∧
          (mode = .rne → (x - y).natAbs ≤ (x - w).natAbs ∧ ((x - y).natAbs = (x - w).natAbs → y ≠ w → r % 2 = 0)))

/-- R213 to R215: EXPR evaluates the team's entry on each active FP32 lane of SA, SB, the old D and the fourth operand; an
entry that is not loaded raises TENSOR_FAULT with its number. -/
def Obligations.ExpressionWord : Prop :=
  ∀ (h : Hdr) (x : BitVec 3) (d a b : BitVec 6) (s : State) (f : Fibre) (t : Team),
    Issues s f h.pg h.pn → s.teamOf f = some t →
    let o4 : Option (BitVec 6) := f.hints.vec.bind fun v => if v.op4 = 0 then none else some v.op4
    Ready f (⟨1, d, .dst⟩ :: ⟨1, d, .src⟩ :: f.srcsAB a b ++ (o4.map fun c => (⟨4, c, .src⟩ : Opd)).toList) f.ksrcBad →
    (∀ e, nth none t.exprs x.toNat = some e →
      ∃ r fl, (fpLane 32 true fun f' va vb vd i => exprEval (modeOf f') e fun k =>
          if k = 0 then en 32 va i else if k = 1 then en 32 vb i else if k = 2 then en 32 vd i
          else o4.elim 0 fun c => en 32 (f.src c) i).gives f (s.srcA f a) (s.srcB f b) (f.src d) r fl ∧
        Does (.expr h x d a b) s f h.e s ((f.flagged fl).holding d r)) ∧
    (nth none t.exprs x.toNat = none →
      Traps (.expr h x d a b) s s f 0x0B (BitVec.ofNat 64 x.toNat) (f.hints.start.getD f.pc))

/-! ### Loads and stores -/

/-- R82, R235, R256, R257: a load from global memory leaves D (and D+1 of LDQ) not ready and asks for the lines of its
address; GWMAX takes in the GWCTs of its core's own TEAM atomics in the lines that its L1 serves (R78); no byte of memory changes.
The model's choices in it: log 9 (which translation serves). -/
def Obligations.GlobalLoadsAskForTheirLines : Prop :=
  ∀ p ∈ loadTable, ∀ (h : Hdr) (d a o : BitVec 6) (s s2 : State) (f f2 : Fibre) (ps : List Piece),
    let n := p.2.2.1
    let va := f.src a + f.widen 6 o.toNat * BitVec.ofNat 64 n
    let s1 := s.cacheParts (.core f.core) (s.fnOf f) (cutLines va.toNat n) ps
    Issues s f h.pg h.pn → Ready f (loadOpds d a n) f.memoBad → s.accessWaits f = false →
    s.translateParts (.core f.core) (s.fnOf f) false (cutLines va.toNat n) = .ok ps →
    s1.loadGlobal f ⟨n, p.2.2.2⟩ d.toNat f.memoPolicy va.toNat ps = some (s2, f2) →
    (∃ q : LoadReq, q.uid = s1.uid ∧ q.fibre = f.key ∧ q.form = ⟨n, p.2.2.2⟩ ∧ q.dst = .regs d.toNat ∧
      q.parts.map (·.place) = ps.map (·.place) ∧
      (q ∈ s2.m.loads ∨ ⟨s1.uid, f.key, q.form.writes d.toNat q.bytes, 0⟩ ∈ s2.m.results) ∧
      f2 = { (if n = 16 then (f.owed d.toNat s1.uid).owed (d.toNat + 1) s1.uid else f.owed d.toNat s1.uid) with
        gwmax := max f.gwmax (s1.l1Gwct f.core q.parts) }) ∧
    Does (p.1 h d a o) s f h.e s2 { f2 with acqHold := f.memoAcq } s1

/-- R222, R225, R257: a load from the fibre's own scratchpad has its value at once, the newest buffered bytes of the fibre
over those of the team, extended as the form says; from a rope-mate's it goes over the cluster network (R223), and so does
one of poisoned bytes, which are consumed where it is performed (R423). -/
def Obligations.ScratchpadLoads : Prop :=
  ∀ p ∈ loadTable, ∀ (h : Hdr) (d a o : BitVec 6) (s : State) (f : Fibre) (t : Team) (team off : Nat),
    let n := p.2.2.1
    let addr := f.src a + f.widen 6 o.toNat * BitVec.ofNat 64 n
    let owed := if n = 16 then (f.owed d.toNat s.uid).owed (d.toNat + 1) s.uid else f.owed d.toNat s.uid
    Issues s f h.pg h.pn → Ready f (loadOpds d a n) [] → s.accessWaits f = false → s.teamOf f = some t →
    s.spadTarget f addr n = some (team, off) → Filled s f.key.launch team [(off, n)] →
    (team = f.key.team → t.spadBad off n = [] →
      let bs := (List.range n).map fun j => spadByte s f team (off + j)
      let ws := if n = 16 then [(d.toNat, loaded 8 false (bs.take 8)), (d.toNat + 1, loaded 8 false (bs.drop 8))]
        else [(d.toNat, loaded n p.2.2.2 bs)]
      Does (p.2.1 h d a o) s f h.e { s.owing f ws 0 with uid := s.uid + 2 } { owed with acqHold := false }) ∧
    (team ≠ f.key.team ∨ t.spadBad off n ≠ [] → ∃ q : LoadReq, q.uid = s.uid ∧ q.fibre = f.key ∧ q.dst = .regs d.toNat ∧
      Does (p.2.1 h d a o) s f h.e
        { s with uid := s.uid + 2,
                 m := { s.m with spads := s.m.spads ++ [⟨s.uid + 1, f.key, f.key.launch, team, off, n, [], some s.uid⟩],
                                 loads := s.m.loads ++ [q] } } { owed with acqHold := false })

/-- R150, R151, R158, R256, R258, R264: a store to global memory joins the region buffer with its address and bytes; in trap
mode it is issued at once; with release the buffer commits and the store is held until the release is done; a 17th entry is
REGION_OVERFLOW with its address (R135) and ends the fibre. No byte of memory changes at the word itself.
The model's choices in it: log 9 (which translation serves), log 14 (what a release waits for). -/
def Obligations.GlobalStoresAreBuffered : Prop :=
  ∀ p ∈ storeTable, ∀ (h : Hdr) (d a o : BitVec 6) (s : State) (f : Fibre) (ps : List Piece),
    let n := p.2.2
    let va := f.src a + f.widen 6 o.toNat * BitVec.ofNat 64 n
    let scope := f.hints.memo.elim 0 (·.scope.toNat)
    let s1 := s.cacheParts (.core f.core) (s.fnOf f) (cutLines va.toNat n) ps
    let e := RegionEnt.store va.toNat ps (storedBytes f d n) scope f.memoPolicy
    Issues s f h.pg h.pn → Ready f (storeOpds d a n) f.memoBad →
    s.translateParts (.core f.core) (s.fnOf f) true (cutLines va.toNat n) = .ok ps →
    (f.trapMode = false → f.memoRel = false → f.region.length < 16 →
      Does (p.1 h d a o) s f h.e s1 { f with region := f.region ++ [e] } s1) ∧
    (f.trapMode = false → f.memoRel = false → 16 ≤ f.region.length →
      exec (p.1 h d a o) s = .next ((s1.endFatal { f with tpc := f.hints.start.getD f.pc, tcause := 0x08, tval := va } 0x08
        (f.hints.start.getD f.pc)).leaveBatch f.key)) ∧
    (f.trapMode = true → f.memoRel = false → s1.storeWaits f = false → s1.mayIssue f.core e = true →
      Does (p.1 h d a o) s f h.e (s1.issueEntry f e) f s1) ∧
    (f.memoRel = true → f.relHold = none → MayCommit s1 f → s1.narrowOut f.key = false →
      Does (p.1 h d a o) s f h.e ((committed s1 f).writeBacks f.core scope [f.key] [])
        { emptied f with relHold := some (scope, .store e) } s1)

/-- R151, R222, R223, R258: a store to scratchpad joins the region buffer, or in trap mode is performed at once: in the own
team's scratchpad exactly the stored bytes change. -/
def Obligations.ScratchpadStores : Prop :=
  ∀ p ∈ storeTable, ∀ (h : Hdr) (d a o : BitVec 6) (s : State) (f : Fibre) (team off : Nat),
    let n := p.2.2
    let addr := f.src a + f.widen 6 o.toNat * BitVec.ofNat 64 n
    Issues s f h.pg h.pn → Ready f (storeOpds d a n) [] →
    s.spadTarget f addr n = some (team, off) → Filled s f.key.launch team [(off, n)] →
    (f.trapMode = false → f.region.length < 16 →
      Does (p.2.1 h d a o) s f h.e s { f with region := f.region ++ [.spad team off (storedBytes f d n)] }) ∧
    (f.trapMode = true → s.storeWaits f = false → team = f.key.team →
      Does (p.2.1 h d a o) s f h.e (s.onTeam f.key.launch team fun t => t.spadWrite off (storedBytes f d n)) f) ∧
    (f.trapMode = true → s.storeWaits f = false → team ≠ f.key.team →
      Does (p.2.1 h d a o) s f h.e
        { s with m := { s.m with spads := s.m.spads ++ [⟨s.uid, f.key, f.key.launch, team, off, n, storedBytes f d n, none⟩] },
                 uid := s.uid + 1 } f) ∧
    (∀ (t : Team) (x : Nat), t.spad.wf = true → memGet (t.spadWrite off (storedBytes f d n)).spad x =
      if off ≤ x ∧ x < off + n then nth 0 (storedBytes f d n) (x - off) else memGet t.spad x)

/-! ### Atomics and ordering -/

/-- R94, R95, R152, R259, R260, R264: an atomic on global memory, after the commit that its form asks for, leaves for its
home with its operand and, for compare-and-swap, the old D, and owes D the old value; with release it is held first.
The model's choices in it: log 9 (which translation serves), log 45 (the place of an atomic among the writes of its core). -/
def Obligations.GlobalAtomicsLeaveTheirCore : Prop :=
  ∀ p ∈ atomTable, ∀ (h : Hdr) (d a b : BitVec 6) (s s2 : State) (f f2 : Fibre) (pc : Piece),
    let va := f.src a
    let scope := f.hints.memo.elim 3 (·.scope.toNat)
    let s1 := s.cacheParts (.core f.core) (s.fnOf f) (cutLines va.toNat p.2.width) [pc]
    Issues s f h.pg h.pn → Ready f [⟨1, d, .long⟩, ⟨2, a, .src⟩, ⟨3, b, .src⟩] f.memoBad →
    va.toNat % p.2.width = 0 →
    s.translateParts (.core f.core) (s.fnOf f) true (cutLines va.toNat p.2.width) = .ok [pc] → p.2.allowed pc.place = true →
    s1.accessWaits f = false → s1.storeWaits f = false →
    atomBefore p.2 f.memoRel (overlaps va.toNat p.2.width f.bufferedGlobal) s1 f = some (s2, f2) →
    (f.inTask = true → atomIdempotent p.2.op = true ∧ f.memoRel = false) →
    let q : AtomReq := ⟨s2.uid, f.key, f.core, .level (atomLevel scope pc.place f.core) pc.place, p.2.width, p.2.op, f.src b,
      f.src d, p.2.signed, some d.toNat, scope, pc.leaf.key, va.toNat, false, 0⟩
    let f3 := { f2.owed d.toNat s2.uid with acqHold := f.memoAcq }
    (f.memoRel = false → s2.atomMayLeave q = true → Does (p.1 h d a b) s f h.e ({ s2 with uid := s2.uid + 1 }.sendAtom q) f3 s1) ∧
    (f.memoRel = true → s2.narrowOut f.key = false → Does (p.1 h d a b) s f h.e ({ s2 with uid := s2.uid + 1 }.writeBacks f.core scope [f.key] [])
      { f3 with relHold := some (scope, .atomic q) } s1)

/-- R259, R260: what an atomic leaves in memory and gives D, from the old value, for every operation and both widths. -/
def Obligations.AtomicOperations : Prop :=
  ∀ p ∈ atomTable.map (·.2) ++ atomLTable.map (fun x => (⟨8, x.2, false⟩ : AtomForm)), ∀ old opd cmp : BitVec (8 * p.width),
    atomNew p.op p.width old.toNat opd.toNat cmp.toNat = (atomResult p (8 * p.width) old opd cmp).toNat ∧
    atomOld p.width p.signed old.toNat = if p.signed then old.signExtend 64 else old.zeroExtend 64

/-- R97, R222, R223, R259: an atomic on the own scratchpad is performed at once: D is owed the old value and the eight bytes
become the new one; where they stay as they are nothing is written and GWMAX takes the latest GWCT not passed of a rope-mate's
write there; one on a rope-mate's leaves over the cluster network, and so does one of poisoned bytes (R423). One whose chunk is
mapped to host memory is ACCESS_VIOLATION (R403). -/
def Obligations.ScratchpadAtomics : Prop :=
  ∀ p ∈ atomLTable, ∀ (h : Hdr) (d a b : BitVec 6) (s s2 : State) (f f2 : Fibre) (t : Team) (team off : Nat),
    let fm : AtomForm := ⟨8, p.2, false⟩
    Issues s f h.pg h.pn → Ready f [⟨1, d, .long⟩, ⟨2, a, .src⟩, ⟨3, b, .src⟩] [] → (f.src a).toNat % 8 = 0 →
    s.spadTarget f (f.src a) 8 = some (team, off) → Filled s f.key.launch team [(off, 8)] →
    (f.inTask = true → atomIdempotent p.2 = true) →
    (s.spadOnHost f (f.src a) = true → Traps (p.1 h d a b) s s f 0x04 (f.src a) (f.hints.start.getD f.pc)) ∧
    (s.spadOnHost f (f.src a) = false → s.accessWaits f = false → s.storeWaits f = false →
    atomBefore fm false (overlaps off 8 (f.bufferedSpad team)) s f = some (s2, f2) → s2.teamOf f = some t →
    let old := BitVec.ofNat 64 (natLE (t.spadRead off 8))
    let new := atomResult fm 64 old (f.src b) 0
    let f3 := { f2.owed d.toNat s2.uid with acqHold := false }
    (team = f.key.team → t.spadBad off 8 = [] → new = old →
      Does (p.1 h d a b) s f h.e (s2.owing f [(d.toNat, old)] 0)
        { f3 with gwmax := max f3.gwmax (s2.m.spadGwct s2.ftime f.key.launch team off) }) ∧
    (team = f.key.team → t.spadBad off 8 = [] → new ≠ old →
      Does (p.1 h d a b) s f h.e
        ((s2.onTeam f.key.launch team fun t => t.spadWrite off (bytesLE 8 new.toNat)).owing f [(d.toNat, old)] 0) f3) ∧
    (team ≠ f.key.team ∨ t.spadBad off 8 ≠ [] → Does (p.1 h d a b) s f h.e
      ({ s2 with uid := s2.uid + 1 }.sendAtom ⟨s2.uid, f.key, f.core, .spad f.key.launch team off, 8, p.2, f.src b, 0, false,
        some d.toNat, 3, 0, (f.src a).toNat, false, 0⟩) f3))

/-- R87, R89, R131, R262, R263: FENCE.rel and FENCE.ar commit, start the write-backs of their scope and block the fibre, which
keeps its slot; WAITG commits and blocks it so. FENCE.acq only orders what comes later (R88). EVWAIT commits, with release
starts the write-backs of its scope, counts in SEQ, and blocks until its counter is satisfied.
The model's choices in it: log 14 (what a release waits for). -/
def Obligations.FencesAndWaits : Prop :=
  (∀ (g : Gd) (s : State) (f : Fibre), Issues s f g.pg g.pn → f.relHold = none →
     (∀ sc : BitVec 3, sc.toNat < 5 → MayCommit s f → s.narrowOut f.key = false →
       WaitsInSlot (.fenceRel g sc) s f (.fence sc.toNat none) ((committed s f).writeBacks f.core sc.toNat [f.key] []) (emptied f) ∧
       WaitsInSlot (.fenceAr g sc) s f (.fence sc.toNat none) ((committed s f).writeBacks f.core sc.toNat [f.key] [])
         { emptied f with acqHold := true }) ∧
     (∀ d : BitVec 6, MayCommit s f → Ready f [⟨1, d, .long⟩] [] →
       WaitsInSlot (.waitg g d) s f (.fence 0 (some d.toNat)) (committed s f) (emptied f)) ∧
     (∀ (e : Bool) (sc : BitVec 3), sc.toNat < 5 →
       Does (.fenceAcq ⟨e, g.pg, g.pn⟩ sc) s f e s { f with acqHold := true })) ∧
  (∀ (g : Gd) (sc : BitVec 3) (o : BitVec 2) (a b : BitVec 6) (s : State) (f : Fibre) (ps : List Piece),
     let va := f.src a
     let s1 := s.cacheParts (.engine 4) (s.fnOf f) (pagesOf va.toNat 8) ps
     Issues s f g.pg g.pn → sc.toNat < 5 → Ready f [⟨2, a, .src⟩, ⟨3, b, .src⟩] [] → va.toNat % 8 = 0 →
     s.translateParts (.engine 4) (s.fnOf f) false (pagesOf va.toNat 8) = .ok ps →
     (∀ q ∈ ps, ∀ pa, q.leaf.base ≠ .repl pa) → f.relHold = none → MayCommit s1 f →
     (o.toNat < 2 → Blocks (.evwait g sc o a b) s f (.evwait va.toNat (f.src b) (o.toNat % 2 == 1) none false) (committed s1 f)
       { emptied f with seq := f.seq + 1 } s1) ∧
     (2 ≤ o.toNat → s1.narrowOut f.key = false →
       Blocks (.evwait g sc o a b) s f (.evwait va.toNat (f.src b) (o.toNat % 2 == 1) (some sc.toNat) false)
       ((committed s1 f).writeBacks f.core sc.toNat [f.key] []) { emptied f with seq := f.seq + 1 } s1))

/-- R231, R262, R264: LDAQ is an aligned acquiring load, STREL an aligned store held until its release is done; PREF asks for a
line, holding its slot while no miss-status entry is free, or, where its address does not translate, does nothing; CLWB joins the region buffer; a translation that a peer holds is
walked first.
The model's choices in it: log 14 (what a release waits for). -/
def Obligations.OrderedAccessesAndCacheHints : Prop :=
  ∀ (h : Hdr) (d a b : BitVec 6) (s : State) (f : Fibre), Issues s f h.pg h.pn →
    let va := f.src a + f.src b
    (∀ (s2 : State) (f2 : Fibre) (ps : List Piece),
      let s1 := s.cacheParts (.core f.core) (s.fnOf f) (cutLines va.toNat 8) ps
      Ready f [⟨1, d, .long⟩, ⟨2, a, .src⟩, ⟨3, b, .src⟩] f.memoBad → va.toNat % 8 = 0 → s.accessWaits f = false →
      s.translateParts (.core f.core) (s.fnOf f) false (cutLines va.toNat 8) = .ok ps →
      s1.loadGlobal f ⟨8, false⟩ d.toNat f.memoPolicy va.toNat ps = some (s2, f2) →
      (∃ q : LoadReq, q.uid = s1.uid ∧ q.parts.map (·.place) = ps.map (·.place) ∧
        f2 = { f.owed d.toNat s1.uid with gwmax := max f.gwmax (s1.l1Gwct f.core q.parts) }) ∧
      Does (.ldaq h d a b) s f h.e s2 { f2 with acqHold := true } s1) ∧
    (∀ ps : List Piece,
      let s1 := s.cacheParts (.core f.core) (s.fnOf f) (cutLines va.toNat 8) ps
      let scope := f.hints.memo.elim 3 (·.scope.toNat)
      Ready f [⟨1, d, .src⟩, ⟨2, a, .src⟩, ⟨3, b, .src⟩] f.memoBad → va.toNat % 8 = 0 → f.relHold = none → MayCommit s1 f →
      s1.narrowOut f.key = false → s.translateParts (.core f.core) (s.fnOf f) true (cutLines va.toNat 8) = .ok ps →
      Does (.strel h d a b) s f h.e ((committed s1 f).writeBacks f.core scope [f.key] [])
        { emptied f with relHold := some (scope, .store (.store va.toNat ps (bytesLE 8 (f.src d).toNat) scope f.memoPolicy)) } s1) ∧
    (Ready f [⟨2, a, .src⟩, ⟨3, b, .src⟩] f.memoBad →
      let x := s.translate (.core f.core) (s.fnOf f) va.toNat false
      let lines := fun (line : Option Place) =>
        let e := RegionEnt.clwb va.toNat line (f.hints.memo.elim 3 (·.scope.toNat))
        (f.trapMode = false → f.region.length < 16 → Does (.clwb h a b) s f h.e s { f with region := f.region ++ [e] }) ∧
        (f.trapMode = true → s.storeWaits f = false → s.mayIssue f.core e = true →
          Does (.clwb h a b) s f h.e (s.issueEntry f e) f)
      (∀ leaf, x = .ok leaf →
        (∀ s1, s.prefetch f va.toNat leaf = some s1 → Does (.pref h a b) s f h.e s1 f s1) ∧
        (s.prefetch f va.toNat leaf = none → exec (.pref h a b) s = .next s) ∧
        lines (some (placeIn leaf va.toNat).line)) ∧
      ((∀ leaf, x ≠ .ok leaf) → (∀ peer frame write, x ≠ .walk peer frame write) →
        Does (.pref h a b) s f h.e s f ∧ lines none) ∧
      (∀ peer frame write, x = .walk peer frame write → exec (.pref h a b) s = .next (s.askWalk peer frame write) ∧
        exec (.clwb h a b) s = .next (s.askWalk peer frame write)))

/-! ### Control transfer -/

/-- R173 to R176: BR, CALL, JR, JRL and RET go to their target in .text, at a run start; the calls push the return address,
and beyond 8 entries spill the oldest, which with no spill area (k16 = 0) is ACCESS_VIOLATION; RET pops. A target outside .text is
ACCESS_VIOLATION, a misaligned one of the register forms MISALIGNED, RET on an empty stack ILLEGAL_OPERAND.
The model's choice in it: log 55 (of a CALL's or JRL's bad target and its faulting push the target is reported). -/
def Obligations.BranchesCallsAndReturns : Prop :=
  ∀ (g : Gd) (s : State) (f : Fibre) (l : Launch), Issues s f g.pg g.pn → s.launchOf f = some l →
    let at_ := f.hints.start.getD f.pc
    let pushed := { f with rstack := (f.pc + 4) :: f.rstack.take 7, depth := f.depth + 1 }
    let pushes := fun (i : Instr) (t : Word) =>
      let area := s.kreg f 16 + BitVec.ofNat 64 (2048 * f.key.fid)
      (f.waits rsReg = false → f.depth < 8 → Goes i s f t s pushed) ∧
      (f.waits rsReg = false → f.depth = 256 → Traps i s s f 0x04 (area + 2048) at_) ∧
      (f.waits rsReg = false → 8 ≤ f.depth → f.depth < 256 → s.kreg f 16 = 0 → Traps i s s f 0x04 0 at_) ∧
      (∀ ps, f.waits rsReg = false → 8 ≤ f.depth → f.depth < 256 → s.kreg f 16 ≠ 0 →
        let va := area + BitVec.ofNat 64 (8 * (f.depth - 8))
        s.translateParts (.core f.core) (s.fnOf f) true (cutLines va.toNat 8) = .ok ps →
        f.trapMode = false → f.region.length < 16 →
        let s1 := s.cacheParts (.core f.core) (s.fnOf f) (cutLines va.toNat 8) ps
        Goes i s f t s1
          { pushed with region := f.region ++ [.store va.toNat ps (bytesLE 8 (nth 0 f.rstack 7).toNat) 0 0] } s1)
    (∀ i : BitVec 21,
      let t := f.pc + 4 + 4 * f.widen 21 i.toNat
      (l.inText t = true → Goes (.br g i) s f t s f) ∧
      (l.inText t = false → Traps (.br g i) s s f 0x04 t at_ ∧ Traps (.call g i) s s f 0x04 t at_) ∧
      (l.inText t = true → pushes (.call g i) t)) ∧
    (∀ a : BitVec 6, Ready f [⟨2, a, .src⟩] [] →
      let t := f.src a
      (t.toNat % 4 = 0 → l.inText t = true → Goes (.jr g a) s f t s f) ∧
      (t.toNat % 4 = 0 → l.inText t = true → pushes (.jrl g a) t) ∧
      (t.toNat % 4 ≠ 0 → Traps (.jr g a) s s f 0x03 t at_ ∧ Traps (.jrl g a) s s f 0x03 t at_) ∧
      (t.toNat % 4 = 0 → l.inText t = false → Traps (.jr g a) s s f 0x04 t at_ ∧ Traps (.jrl g a) s s f 0x04 t at_)) ∧
    (f.waits rsReg = false → f.depth = 0 → Traps (.ret g) s s f 0x02 (BitVec.ofNat 64 f.ir.toNat) f.pc) ∧
    (f.waits rsReg = false → 0 < f.depth →
      ((nth 0 f.rstack 0).toNat % 4 ≠ 0 → Traps (.ret g) s s f 0x03 (nth 0 f.rstack 0) at_) ∧
      ((nth 0 f.rstack 0).toNat % 4 = 0 → l.inText (nth 0 f.rstack 0) = false →
        Traps (.ret g) s s f 0x04 (nth 0 f.rstack 0) at_)) ∧
    (f.waits rsReg = false → 0 < f.depth → f.depth ≤ 8 → (nth 0 f.rstack 0).toNat % 4 = 0 → l.inText (nth 0 f.rstack 0) = true →
      Goes (.ret g) s f (nth 0 f.rstack 0) s { f with rstack := f.rstack.drop 1, depth := f.depth - 1 }) ∧
    (∀ (s2 : State) (f2 : Fibre) (ps : List Piece), f.waits rsReg = false → 8 < f.depth → s.accessWaits f = false →
      (nth 0 f.rstack 0).toNat % 4 = 0 → l.inText (nth 0 f.rstack 0) = true →
      let va := s.kreg f 16 + BitVec.ofNat 64 (2048 * f.key.fid) + BitVec.ofNat 64 (8 * (f.depth - 9))
      let s1 := s.cacheParts (.core f.core) (s.fnOf f) (cutLines va.toNat 8) ps
      s.translateParts (.core f.core) (s.fnOf f) false (cutLines va.toNat 8) = .ok ps →
      s1.loadGlobal f ⟨8, false⟩ rsReg 0 va.toNat ps = some (s2, f2) →
      (∃ q : LoadReq, q.uid = s1.uid ∧ q.parts.map (·.place) = ps.map (·.place) ∧
        f2 = { f.owed rsReg s1.uid with gwmax := max f.gwmax (s1.l1Gwct f.core q.parts) }) ∧ Goes (.ret g) s f (nth 0 f.rstack 0) s2
        { f2 with rstack := f.rstack.drop 1, depth := f.depth - 1, acqHold := false } s1)

/-- R157: taking an exception. Outside trap mode, with TVEC in .text, the latches are saved in the team slot, FST.TM is set,
TPC, TCAUSE and TVAL take the resume address, the cause and the value, and the run at TVEC starts with empty latches and
hints, what SCHED asked for at the end of the run applied (R149); with TVEC outside .text it goes to the system vector as
ACCESS_VIOLATION at TVEC; in the team handler it goes to the system vector with its cause; in the system vector the fibre ends.
Nothing else changes. -/
def Obligations.TrapEntry : Prop :=
  ∀ (s : State) (f : Fibre) (l : Launch) (c : Nat) (v t : Word), s.launchOf f = some l →
    let tvec := (s.teamOf f).elim 0 (·.tvec)
    let start := fun (f : Fibre) (pc : Word) => { f with
      pc := pc, lat := Latches.none, hints := Hints.none, runCount := 0, yieldAtEnd := false, boostAtEnd := false,
      age := if f.yieldAtEnd then s.ftime else f.age, boost := f.boost || f.boostAtEnd }
    let sys := fun (c : Nat) (v : Word) => { start f (BitVec.ofNat 64 (l.text + 4 * l.field 52 4)) with
      fst := f.fst ||| 0x200#64, slotSys := f.lat, tpc := t, tcause := BitVec.ofNat 64 c, tval := v }
    (f.fst.getLsbD 9 = true → s.trapEntry f c v t = s.endFatal f c t) ∧
    (f.fst.getLsbD 9 = false → f.fst.getLsbD 7 = true → s.trapEntry f c v t = s.setFibre (sys c v)) ∧
    (f.fst.getLsbD 9 = false → f.fst.getLsbD 7 = false → l.inText tvec = false →
      s.trapEntry f c v t = s.setFibre (sys 0x04 tvec)) ∧
    (f.fst.getLsbD 9 = false → f.fst.getLsbD 7 = false → l.inText tvec = true →
      s.trapEntry f c v t = s.setFibre { start f tvec with
        fst := f.fst ||| 0x80#64, slotTeam := f.lat, tpc := t, tcause := BitVec.ofNat 64 c, tval := v })

/-- R176: TRAP enters the handler with its number and the next word as the resume address, its SCHED hint counted (R149); BRK
does so with FST.BKE set and else does nothing; RTT leaves the innermost mode and starts the run at TPC with the latches saved for it, and outside both
modes is ILLEGAL_OPERAND. -/
def Obligations.TrapsAndReturns : Prop :=
  ∀ (h : Hdr) (s : State) (f : Fibre) (l : Launch), Issues s f h.pg h.pn → s.launchOf f = some l →
    let g : Gd := ⟨h.pg, h.pn⟩
    let back := fun (bit : Word) (lat : Latches) (f' : Fibre) => f'.fst = f.fst &&& ~~~bit ∧ f'.lat = lat ∧ f'.pc = f.tpc ∧
      f'.g = f.g ∧ f'.status = f.status ∧ f'.region = f.region ∧ f'.spc = f.spc ∧ f'.rstack = f.rstack ∧ f'.notReady = f.notReady
    let f1 := { f with yieldAtEnd := f.yieldAtEnd || (f.hints.sched.getD (false, false)).1,
                       boostAtEnd := f.boostAtEnd || (f.hints.sched.getD (false, false)).2 }
    (∀ n : BitVec 12, Traps (.trap g n) s s f1 0x0D (n.zeroExtend 64) (f.pc + 4)) ∧
    (f.fst.getLsbD 10 = true → Traps (.brk h) s s f1 0x0D 0x1000 (f.pc + 4)) ∧
    (f.fst.getLsbD 10 = false → Does (.brk h) s f h.e s f) ∧
    (f.fst.getLsbD 9 = false → f.fst.getLsbD 7 = false → Traps (.rtt g) s s f 0x02 (BitVec.ofNat 64 f.ir.toNat) f.pc) ∧
    (l.inText f.tpc = true → f.fst.getLsbD 9 = true → ∃ t f', exec (.rtt g) s = .next t ∧ FibreOf s t f.key f' ∧
      back 0x200#64 f.slotSys f' ∧ SameBytes s t) ∧
    (l.inText f.tpc = true → f.fst.getLsbD 9 = false → f.fst.getLsbD 7 = true → ∃ t f', exec (.rtt g) s = .next t ∧
      FibreOf s t f.key f' ∧ back 0x80#64 f.slotTeam f' ∧ f'.serving = none ∧ SameBytes s t)

/-! ### Fibre control -/

/-- R119, R152, R178: SPAWN starts the lowest ended fibre of the issuer's role, SPAWNT a named one, after the commit of a
commit point: D is owed the FID, and the started fibre stands at SA with g4 the argument, g1 to g3 its numbers, every other
register, predicate but p0, flag, latch and its return stack zero or empty; with none ended, or the named one not ended, D is owed
all ones. An entry that is misaligned is MISALIGNED, one outside .text ACCESS_VIOLATION, a FID beyond the team's ILLEGAL_OPERAND,
FIELD 3. -/
def Obligations.SpawnStartsAnEndedFibre : Prop :=
  ∀ (g : Gd) (d a b : BitVec 6) (s : State) (f : Fibre) (l : Launch), Issues s f g.pg g.pn → s.launchOf f = some l →
    Ready f [⟨1, d, .long⟩, ⟨2, a, .src⟩, ⟨3, b, .src⟩] [] → MayCommit s f →
    let s1 := committed s f
    let entry := (f.src a).toNat % 4 = 0 ∧ l.inText (f.src a) = true
    let fresh := fun (o : Fibre) (arg : Word) => { o with
      window := l.windowOf o.role, pc := f.src a, spc := f.src a, pw := 1, notReady := [], lat := Latches.none,
      g := [0, BitVec.ofNat 64 o.key.fid, BitVec.ofNat 64 o.key.team, BitVec.ofNat 64 o.role, arg] ++ List.replicate 55 0,
      slotTeam := Latches.none, slotSys := Latches.none, fst := 0, ft := 0, gwmax := 0, rstack := [], depth := 0, rstart := [],
      rstartDepth := 0, region := [], tpc := 0, tcause := 0, tval := 0, hints := Hints.none, runCount := 0, ir := 0,
      yieldAtEnd := false, boostAtEnd := false, status := .eligible, age := s1.ftime, passes := 0, boost := false, seq := 0,
      posted := [], serving := none, acqHold := false, relHold := none, task := none, keptTask := none, arrivedStep := false,
      arrivedRope := false, tableWord := none, afterCommit := none, nextSafe := false, saved := false }
    let started := fun (i : Instr) (o : Fibre) (arg : Word) =>
      Does i s f true (((s1.setFibre (fresh o arg)).markLate l.id o.key.team o.key.fid).owing f
        [(d.toNat, BitVec.ofNat 64 o.key.fid)] 0) ((emptied f).owed d.toNat s1.uid)
    let none_ := fun (i : Instr) => Does i s f true (s1.owing f [(d.toNat, BitVec.allOnes 64)] 0) ((emptied f).owed d.toNat s1.uid)
    (entry → ∀ o, s1.lowestEnded f = some o → started (.spawn g d a b) o (f.src b)) ∧
    (entry → s1.lowestEnded f = none → none_ (.spawn g d a b)) ∧
    ((f.src a).toNat % 4 ≠ 0 → Traps (.spawn g d a b) s s f 0x03 (f.src a) (f.hints.start.getD f.pc)) ∧
    ((f.src a).toNat % 4 = 0 → l.inText (f.src a) = false →
      Traps (.spawn g d a b) s s f 0x04 (f.src a) (f.hints.start.getD f.pc)) ∧
    (entry → (f.src b).toNat < l.nfib →
      (∀ o, s1.fibre? ⟨f.key.launch, f.key.team, (f.src b).toNat⟩ = some o → o.status = .ended →
        started (.spawnt g d a b) o (f.src d)) ∧
      (∀ o, s1.fibre? ⟨f.key.launch, f.key.team, (f.src b).toNat⟩ = some o → o.status ≠ .ended → none_ (.spawnt g d a b))) ∧
    (l.nfib ≤ (f.src b).toNat → Traps (.spawnt g d a b) s s f 0x02 (BitVec.ofNat 64 (3 * 2 ^ 32 + f.ir.toNat)) f.pc)

/-- R105, R158, R179: END translates its counter, commits (in trap mode it discards the buffer), starts the write-backs of
its scope and waits for its release, after which its counter's increment leaves.
The model's choices in it: log 14 (what a release waits for). -/
def Obligations.EndReleasesAndWaits : Prop :=
  ∀ (g : Gd) (a : BitVec 6) (sc : BitVec 3) (s : State) (f : Fibre), Issues s f g.pg g.pn →
    Ready f [⟨2, a, .src⟩] [] → sc.toNat < 5 → f.relHold = none →
    let va := f.src a
    let ends := fun (s1 : State) (c : Option AtomReq) => s1.narrowOut f.key = false →
      (f.trapMode = false → s1.canCommit f = true → Blocks (.endFibre g a sc) s f (.ending sc.toNat c)
        ((f.region.foldl (fun s e => s.issueEntry f e) s1).writeBacks f.core sc.toNat [f.key] []) { f with region := [] } s1) ∧
      (f.trapMode = true → f.task = none → Blocks (.endFibre g a sc) s f (.ending sc.toNat c)
        (s1.writeBacks f.core sc.toNat [f.key] []) { f with region := [] } s1)
    (a = 0 → ends s none) ∧
    (a ≠ 0 → va.toNat % 8 ≠ 0 → Traps (.endFibre g a sc) s s f 0x03 va (f.hints.start.getD f.pc)) ∧
    (∀ pc : Piece, a ≠ 0 → va.toNat % 8 = 0 →
      s.translateParts (.core f.core) (s.fnOf f) true (cutLines va.toNat 8) = .ok [pc] → (∀ pa, pc.place ≠ .repl pa) →
      let s1 := s.cacheParts (.core f.core) (s.fnOf f) (cutLines va.toNat 8) [pc]
      ends s1.takeUid (some ⟨s1.uid, f.key, f.core, .level (atomLevel sc.toNat pc.place f.core) pc.place, 8, .add, 1, 0, false,
        none, sc.toNat, pc.leaf.key, va.toNat, false, 0⟩))

/-- R147, R180, R181, R183: YIELD ends the run and resets the age; SLEEPT past its time only ends the run, else the fibre
sleeps until then; NOP does nothing, and one with E = 1 ends its run, which keeps the age. -/
def Obligations.YieldSleepAndNop : Prop :=
  ∀ (h : Hdr) (s : State) (f : Fibre), Issues s f h.pg h.pn →
    let g : Gd := ⟨h.pg, h.pn⟩
    Does (.nop h) s f h.e s f ∧
    (∃ t f', exec (.yield g) s = .next t ∧ FibreOf s t f.key f' ∧ t.batches = turned s f.key true ∧ Moved f f' true ∧
      f'.age = s.ftime ∧ SameBytes s t) ∧
    (∀ a : BitVec 6, Ready f [⟨2, a, .src⟩] [] →
      ((f.src a).toNat ≤ s.ftime → Does (.sleept g a) s f true s f) ∧
      (s.ftime < (f.src a).toNat → ∃ t f', exec (.sleept g a) s = .next t ∧ FibreOf s t f.key f' ∧
        t.batches = parted s f.key ∧ f'.status = .sleeping (f.src a) ∧ Moved f { f' with status := f.status } true ∧
        SameBytes s t)) ∧
    (f.hints.sched = none → f.yieldAtEnd = false → f.boostAtEnd = false → ∃ t, exec (.nop h) s = .next t ∧
      t.fibre? f.key = some { f with pc := f.pc + 4, hints := Hints.none, runCount := if h.e then 0 else f.runCount + 1,
                                     lat := if h.e then Latches.none else f.lat })

/-- R120, R126, R152, R182: STEP and ROPEBAR commit and block the fibre as arrived, and the barrier is looked at; a fibre of
a lost rope takes ROPE_LOST at ROPEBAR, with that word as the resume address. Once every fibre of the launch has arrived at STEP or has ended, STEPN rises by one
and exactly the fibres blocked in STEP go on; once every fibre of a rope has arrived or ended, exactly those in ROPEBAR.
The model's choices in it: log 45 (STEP needs a fibre that waits). -/
def Obligations.BarriersOfTheGrid : Prop :=
  (∀ (g : Gd) (s : State) (f : Fibre) (l : Launch), Issues s f g.pg g.pn → s.launchOf f = some l → MayCommit s f →
     let s1 := committed s f
     exec (.step g) s = .next (((s1.setFibre ({ emptied f with arrivedStep := true }.blockedAt s1.ftime .step)).tryStep
       f.key.launch).leaveBatch f.key) ∧
     (s1.launchOf f = some l → l.ropeLost (f.key.team / l.rope) = false → exec (.ropebar g) s =
       .next (((s1.setFibre ({ emptied f with arrivedRope := true }.blockedAt s1.ftime .ropebar)).tryRope l.id
         (f.key.team / l.rope)).leaveBatch f.key)) ∧
     (s1.launchOf f = some l → l.ropeLost (f.key.team / l.rope) = true →
       exec (.ropebar g) s = .next ((s1.trapEntry (emptied f) 0x0C (BitVec.ofNat 64 (f.key.team / l.rope)) f.pc).leaveBatch
         f.key))) ∧
  (∀ (s : State) (l : Launch) (rope : Nat), s.launch? l.id = some l → l.lost = [] → s.dieChangeNext l.id = false →
     ((∃ f ∈ s.fibres, f.key.launch = l.id ∧ f.status ≠ .ended ∧ f.arrivedStep = true) →
       (∀ f ∈ s.fibres, f.key.launch = l.id → f.status = .ended ∨ f.arrivedStep = true) →
       ((s.tryStep l.id).launch? l.id).map (·.stepn) = some (l.stepn + 1) ∧
       ∀ k f, s.fibre? k = some f → (s.tryStep l.id).fibre? k = some (
         if k.launch = l.id ∧ f.status ≠ .ended then
           if f.status = .blocked .step then { f with arrivedStep := false, status := .eligible, age := s.ftime }
           else { f with arrivedStep := false }
         else f)) ∧
     ((∃ f ∈ s.fibres, f.key.launch = l.id ∧ f.status ≠ .ended ∧ f.arrivedStep = false) → s.tryStep l.id = s) ∧
     ((∀ f ∈ s.fibres, f.key.launch = l.id → f.key.team / l.rope = rope → f.status = .ended ∨ f.arrivedRope = true) →
       ∀ k f, s.fibre? k = some f → (s.tryRope l.id rope).fibre? k = some (
         if k.launch = l.id ∧ k.team / l.rope = rope ∧ f.status ≠ .ended then
           if f.status = .blocked .ropebar then { f with arrivedRope := false, status := .eligible, age := s.ftime }
           else { f with arrivedRope := false }
         else f)) ∧
     ((∃ f ∈ s.fibres, f.key.launch = l.id ∧ f.key.team / l.rope = rope ∧ f.status ≠ .ended ∧ f.arrivedRope = false) →
       s.tryRope l.id rope = s))

/-- R46, R47: a hint word joins the pending group with its payload, keeps the group's first address, and takes its slot;
nothing else changes. -/
def Obligations.HintWordsJoinTheirGroup : Prop :=
  ∀ (s : State) (f : Fibre), s.cur = some f →
    let joins := fun (i : Instr) (h : Hints) => ∃ t f', exec i s = .next t ∧ FibreOf s t f.key f' ∧
      t.batches = turned s f.key false ∧ f'.pc = f.pc + 4 ∧ f'.runCount = f.runCount + 1 ∧
      f'.hints = { h with start := some (f.hints.start.getD f.pc), words := f.hints.words ++ [(f.pc, f.ir)] } ∧
      { f' with pc := f.pc, hints := f.hints, runCount := f.runCount } = f ∧ SameBytes s t
    (∀ i, joins (.hintLit i) { f.hints with lit := some i }) ∧ (∀ i, joins (.hintLith i) { f.hints with lith := some i }) ∧
    (∀ m v r z x o, joins (.hintVec m v r z x o) { f.hints with vec := some ⟨m, v, r, z, x, o⟩ }) ∧
    (∀ sc a r c, joins (.hintMemo sc a r c) { f.hints with memo := some ⟨sc, a, r, c⟩ }) ∧
    (∀ q p, joins (.hintGuard q p) { f.hints with guard := some (q, p) }) ∧
    (∀ y b, joins (.hintSched y b) { f.hints with sched := some (y, b) }) ∧
    (∀ k x, joins (.hintKsrc k x) { f.hints with ksrc := some (k, x) })

/-! ### Belays and matrix words -/

/-- R287, R289: ARM, with no TBLD of the fibre still out, configures or disarms a belay with no open generation; a second ARM of
the same word does nothing; one while a generation is open is BELAY_FAULT reason 6.
The model's choices in it: log 19 (the order of checks inside a task). -/
def Obligations.ArmConfiguresABelay : Prop :=
  ∀ (h : Hdr) (bl : BitVec 5) (a : BitVec 6) (s : State) (f : Fibre) (l : Launch) (t : Team),
    Issues s f h.pg h.pn → Ready f [⟨2, a, .src⟩] [] → s.launchOf f = some l → f.trapMode = false → MayCommit s f →
    f.relHold = none → s.tablesOut f = false → cfgBad (f.src a) l = false → f.known a = true →
    let s1 := committed s f
    let b := t.belay bl.toNat
    let c := f.src a
    let put := fun (b : Belay) => s1.onTeam f.key.launch f.key.team fun t => t.setBelay bl.toNat b
    s1.teamOf f = some t →
    (c.getLsbD 63 = true → b.signed = [] →
      Does (.arm h bl a) s f h.e (put { b with armed := false, aLatch := none }) (emptied f)) ∧
    (c.getLsbD 63 = false → b.armed = true → b.config = c → Does (.arm h bl a) s f h.e s1 (emptied f)) ∧
    (c.getLsbD 63 = false → (b.armed = false ∨ b.config ≠ c) → b.signed = [] → cfgKind c ≠ 2 →
      Does (.arm h bl a) s f h.e (put { b with config := c, armed := true, aLatch := none }) (emptied f)) ∧
    (∀ pt, c.getLsbD 63 = false → (b.armed = false ∨ b.config ≠ c) → b.signed = [] → cfgKind c = 2 →
      nth none t.patterns (bitsOf c 31 29) = some pt → badEntry c pt = none →
      Does (.arm h bl a) s f h.e (put { b with config := c, armed := true, aLatch := none, pattern := pt }) (emptied f)) ∧
    (b.signed ≠ [] → (c.getLsbD 63 = true ∨ b.armed = false ∨ b.config ≠ c) → cfgKind c ≠ 2 →
      exec (.arm h bl a) s = .next ((s1.trapEntry (emptied f) 0x07
        (BitVec.ofNat 64 (bl.toNat + 6 * 2 ^ 8 + b.gen.toNat * 2 ^ 32)) (f.hints.start.getD f.pc)).leaveBatch f.key))

/-- R152, R288 to R290, R346: a sign of a member of an armed belay of its kind, with no TBLD of the fibre still out, after its
commit: the belay records member,
fibre, value and destination, the result's registers are owed, with W the fibre blocks, and the completion that the sign may
bring about follows at once. It holds of SIGN, VOTE, XCHG, REDMAX, REDADD, SCAN, BAR and the MMA words.
The model's choices in it: log 40 (an MMA sign is recorded with its fragment). -/
def Obligations.SignsAreRecorded : Prop :=
  ∀ (h : Hdr) (bl : BitVec 5) (a d : BitVec 6) (s : State) (f : Fibre) (l : Launch) (t : Team) (m : Nat),
    Issues s f h.pg h.pn → f.trapMode = false → MayCommit s f → f.relHold = none → s.tablesOut f = false →
    let s1 := committed s f
    let b := t.belay bl.toNat
    let sees := fun (fn kind : Nat) => b.armed = true ∧ cfgKind b.config = kind ∧
      memberOf (cfgMembers b.config l) f.key.fid = some m ∧ b.late.contains f.key.fid = false ∧
      (b.signed.any fun x => x.fid == f.key.fid) = false ∧ (b.signed = [] ∨ b.op = fn) ∧
      s1.mmaFull (emptied f) b (cfgMembers b.config l) f.key.fid = false
    let signs := fun (i : Instr) (e : Bool) (fn : Nat) (v old : Word) (ds : List Nat) (w : Bool) (frag : List (Nat × List Word)) =>
      let b' := { b with signed := b.signed ++ [⟨m, f.key.fid, s1.uid, v, ds.headD 0, old, w⟩],
                         op := if b.signed = [] then fn else b.op, aFrag := b.aFrag ++ frag }
      let s2 := ({ s1 with uid := s1.uid + 1 }).onTeam f.key.launch f.key.team fun t => t.setBelay bl.toNat b'
      let f2 := ds.foldl (fun x d => x.owed d s1.uid) (emptied f)
      (w = true → exec i s = .next (((s2.setFibre (f2.blockedAt s2.ftime (.belay bl.toNat))).tryBelay f.key.launch f.key.team
        bl.toNat).leaveBatch f.key)) ∧
      (w = false → let s3 := (s2.setFibre f2).tryBelay f.key.launch f.key.team bl.toNat
        Does i s f e s3 ((s3.fibre? f.key).getD f2) s3)
    s1.teamOf (emptied f) = some t → s1.launchOf (emptied f) = some l →
    (∀ w, Ready f [⟨1, d, .long⟩, ⟨2, a, .src⟩] [] →
      (sees 1 0 → signs (.sign h bl w a d) h.e 1 (f.src a) (f.src d) [d.toNat] w []) ∧
      (sees 2 0 → signs (.vote h bl w a d) h.e 2 (f.src a) (f.src d) [d.toNat] w []) ∧
      (sees 4 2 → signs (.xchg h bl w a d) h.e 4 (f.src a) (f.src d) [d.toNat] w []) ∧
      (sees 6 0 → signs (.redmax h bl w a d) h.e 6 (f.src a) (f.src d) [d.toNat] w []) ∧
      (sees 7 0 → signs (.redadd h bl w a d) h.e 7 (f.src a) (f.src d) [d.toNat] w [])) ∧
    (∀ w, Ready f [⟨1, d, .longGroup 2⟩, ⟨2, a, .src⟩] [] → sees 3 0 →
      signs (.scan h bl w a d) h.e 3 (f.src a) 0 [d.toNat, d.toNat + 1] w []) ∧
    (∀ w, Ready f [⟨1, d, .long⟩] [] → sees 5 3 → signs (.bar ⟨h.pg, h.pn⟩ bl w d) true 5 0 0 [d.toNat] w []) ∧
    (∀ ru : Bool, (f.src d).toNat % 2 ^ 16 = 0 → (f.src d).toNat / 2 ^ 24 % 2 ^ 8 < 64 →
      let frag := fun (n : Nat) => (List.range n).map fun j => f.readG (a.toNat + j)
      let four := Ready f [⟨2, a, .srcGroup 4⟩, ⟨3, d, .src⟩] []
      let r := if ru then 1#64 else 0
      (four → sees 0 1 → signs (.mmaE4m3 h bl ru a d) h.e 0 (f.src d) r [] false [(m, frag 4)]) ∧
      (Ready f [⟨2, a, .srcGroup 5⟩, ⟨3, d, .src⟩] [] → sees 1 1 →
        signs (.mmapE4m3 h bl ru a d) h.e 1 (f.src d) r [] false [(m, frag 5)]) ∧
      (four → sees 2 1 → signs (.mmaH h bl ru a d) h.e 2 (f.src d) r [] false [(m, frag 4)]) ∧
      (four → sees 3 1 → signs (.mmaBh h bl ru a d) h.e 3 (f.src d) r [] false [(m, frag 4)]) ∧
      (four → sees 4 1 → signs (.mmaI8 h bl ru a d) h.e 4 (f.src d) r [] false [(m, frag 4)]))

/-- R290, R292 to R294: what a signer of a complete generation receives: the value of the lowest member that signed; the ballot of
the members with a value that is not zero; the exclusive prefix sum, and at the last member also the total; of XCHG, for each of its
sub-elements by the pattern table, zero, its own old one, or one that a member signed; the new GEN; the signed maximum; the sum; members
that did not sign count as zero. And when that is: a belay of a kind other than MMA whose open generation is complete hands every
signer that has not ended its share, into the registers that still wait for it; exactly those that wait for it go on; GEN rises by
one, and SIGNED and OP are cleared. A generation that is not complete changes nothing. -/
def Obligations.ResultsOfAGeneration : Prop :=
  (∀ (b : Belay) (n : Nat) (x : Sign), x ∈ b.signed → (∀ y ∈ b.signed, y.member < n) →
    (b.signed.map (·.member)).Nodup →
    let val := fun (m : Nat) => ((b.signed.find? fun y => y.member == m).map (·.value)).getD 0
    let vs := (List.range n).map val
    (b.op = 1 → ∃ m, m ∈ b.signed.map (·.member) ∧ (∀ y ∈ b.signed, m ≤ y.member) ∧ b.share n x = [(x.d, val m)]) ∧
    (b.op = 2 → ∃ v, b.share n x = [(x.d, v)] ∧ (n ≤ 64 → ∀ m < 64, v.getLsbD m = (decide (m < n) && decide (val m ≠ 0)))) ∧
    (b.op = 3 → b.share n x = (x.d, (vs.take x.member).sum) :: if x.member + 1 = n then [(x.d + 1, vs.sum)] else []) ∧
    (b.op = 4 → ∃ v, b.share n x = [(x.d, v)] ∧
      let w := 8 * 2 ^ bitsOf b.config 33 32
      ∀ j < 64 / w, let e := (nth (0xFF#8) b.pattern (8 * x.member + j)).toNat
        laneAt w v j = if e = 0xFF then 0 else if e = 0xFE then laneAt w x.old j else laneAt w (val (e / 8)) (e % 8)) ∧
    (b.op = 5 → b.share n x = [(x.d, (b.gen + 1).zeroExtend 64)]) ∧
    (b.op = 6 → ∃ v, b.share n x = [(x.d, v)] ∧ v ∈ vs ∧ ∀ y ∈ vs, y.sle v = true) ∧
    (b.op = 7 → b.share n x = [(x.d, vs.sum)])) ∧
  ∀ (s : State) (t : Team) (l : Launch) (bl : Nat), s.team? t.launch t.idx = some t → s.launch? t.launch = some l →
    let b := t.belay bl
    let members := cfgMembers b.config l
    let s' := s.tryBelay t.launch t.idx bl
    let absent := fun (fid : Nat) => s.fidEnded t.launch t.idx fid = true ∨ fid ∈ b.late
    let complete := b.armed = true ∧ b.signed ≠ [] ∧ ∀ fid ∈ members, (∃ g ∈ b.signed, g.fid = fid) ∨ absent fid
    (¬ complete → s' = s) ∧
    (complete → cfgKind b.config ≠ 1 → (b.signed.map (·.fid)).Nodup →
      (s'.team? t.launch t.idx).map (·.belay bl) =
        some { b with gen := b.gen + 1, signed := [], op := 0, late := [], aFrag := [] } ∧
      (∀ g ∈ b.signed, ∀ f, s.fibre? ⟨t.launch, t.idx, g.fid⟩ = some f →
        let f1 := f.deliver g.uid (b.share members.length g) 0
        s'.fibre? ⟨t.launch, t.idx, g.fid⟩ = some (if f.status = .ended ∨ g.fid ∈ b.late then f
          else if f.status = .blocked (.belay bl) then { f1 with status := .eligible, age := s.ftime } else f1)) ∧
      (∀ k, (∀ g ∈ b.signed, k ≠ ⟨t.launch, t.idx, g.fid⟩) → s'.fibre? k = s.fibre? k))

/-- R338, R341, R342, R359: ABALLOC joins the core's FIFO and blocks; ABFREE marks the team's banks freed, which return to the
pool when no queue entry uses them; ACCZ enters the matrix queue; TDINV unloads a descriptor. -/
def Obligations.BanksClearsAndInvalidation : Prop :=
  ∀ (h : Hdr) (s : State) (f : Fibre), Issues s f h.pg h.pn →
    let g : Gd := ⟨h.pg, h.pn⟩
    let s1 := committed s f
    (∀ d a : BitVec 6, Ready f [⟨1, d, .long⟩, ⟨2, a, .src⟩] [] → 1 ≤ (f.src a).toNat → (f.src a).toNat ≤ 16 → MayCommit s f →
      f.relHold = none → s.banksOf f.key.launch f.key.team = [] →
      (s.mat.abFifo.any fun r => r.fibre.launch == f.key.launch && r.fibre.team == f.key.team) = false →
      Blocks (.aballoc g d a) s f (.aballoc (f.src a).toNat d.toNat)
        { s1 with mat := { s1.mat with abFifo := s1.mat.abFifo ++ [⟨f.core, f.key, (f.src a).toNat, d.toNat⟩] } } (emptied f)) ∧
    (s.banksOf f.key.launch f.key.team ≠ [] → MayCommit s f → Does (.abfree h) s f h.e
      ({ s1 with mat := { s1.mat with holds := s1.mat.holds.map fun (x : BankHold) =>
        if x.launch == f.key.launch && x.team == f.key.team then { x with freed := true } else x } }.reclaim) (emptied f)) ∧
    (s.banksOf f.key.launch f.key.team = [] → f.inTask = false →
      Traps (.abfree h) s s f 0x0A (BitVec.ofNat 64 2) (f.hints.start.getD f.pc)) ∧
    (∀ a : BitVec 6, Ready f [⟨2, a, .src⟩] [] →
      let p := f.src a
      let w := 16 * 2 ^ bitsOf p 9 8
      let banks := s.banksOf f.key.launch f.key.team
      bitsOf p 7 0 = 0 → bitsOf p 15 10 = 0 → bitsOf p 63 24 = 0 → banks ≠ [] → tileValid banks (bitsOf p 23 16) w = true →
      s.queueFull f.core = false →
      Does (.accz h a) s f h.e { s with uid := s.uid + 1, mat := { s.mat with queue := s.mat.queue ++
        [⟨s.uid, f.core, f.key.launch, f.key.team, banks, bitsOf p 23 16, w, [], .accz⟩] } } f) ∧
    (∀ td : BitVec 6, Does (.tdinv h td) s f h.e
      (s.onTeam f.key.launch f.key.team fun t => { t with tds := setNth none t.tds td.toNat none }) f)

/-- R335, R338, R358, R360, R361, R363: TDSET loads and checks a descriptor; ACCLD and DRAIN enter the matrix queue with a
copy of theirs, DRAIN blocking the fibre; TBLD of a pattern table asks for its 256 bytes, of an expression entry it puts the
word it has read where it is valid. TDSET and ACCLD of a poisoned byte of scratchpad consume it (R423).
The model's choices in it: log 40 (entries act one at a time). -/
def Obligations.DescriptorsTilesAndTables : Prop :=
  ∀ (h : Hdr) (s : State) (f : Fibre) (l : Launch) (t : Team), Issues s f h.pg h.pn → s.launchOf f = some l →
    s.teamOf f = some t → s.accessWaits f = false →
    (∀ (td a : BitVec 6), Ready f [⟨2, a, .src⟩] [] →
      let off := (f.src a).toNat
      let n := 64 + mapBytes (s.ownSpad f off 64)
      off % 64 = 0 → off < 2 ^ 20 → off + n ≤ l.spadBytes →
      Filled s f.key.launch f.key.team [(off, 64), (off + 64, n - 64)] →
      (t.spadBad off 64 ≠ [] → exec (.tdset h td a) s = .next ((s.consumePoison f.key).leaveBatch f.key)) ∧
      (t.spadBad off 64 = [] → t.spadBad (off + 64) (n - 64) = [] → tdFault (s.ownSpad f off n) l.spadBytes = none →
      Does (.tdset h td a) s f h.e (s.onTeam f.key.launch f.key.team fun t =>
        { t with tds := setNth none t.tds td.toNat (some (s.ownSpad f off n)) }) f)) ∧
    (∀ (a : BitVec 6) (desc : List Byte), Ready f [⟨2, a, .src⟩] [] →
      let p := f.src a
      let banks := s.banksOf f.key.launch f.key.team
      let wd := descField desc 10 1
      let spans := tileSpans desc (bitsOf p 63 48) (bitsOf p 47 32)
      paramBad p false = false → nth none t.tds (bitsOf p 29 24) = some desc →
      descField desc 9 1 = 5 ∨ descField desc 9 1 = 6 → bitsOf p 63 48 + 16 ≤ descField desc 12 4 →
      bitsOf p 47 32 + wd ≤ descField desc 16 4 → banks ≠ [] → tileValid banks (bitsOf p 23 16) wd = true →
      s.queueFull f.core = false → descField desc 8 1 = 0 → Filled s f.key.launch f.key.team spans →
      ((∃ x ∈ spans, t.spadBad x.1 x.2 ≠ []) → exec (.accld h a) s = .next ((s.consumePoison f.key).leaveBatch f.key)) ∧
      ((∀ x ∈ spans, t.spadBad x.1 x.2 = []) → Does (.accld h a) s f h.e { s with uid := s.uid + 1, mat := { s.mat with queue := s.mat.queue ++
        [⟨s.uid, f.core, f.key.launch, f.key.team, banks, bitsOf p 23 16, wd, desc,
          .accld (some (spans.flatMap fun x => s.ownSpad f x.1 x.2))⟩] } } { f with acqHold := false })) ∧
    (∀ (d a b : BitVec 6) (desc : List Byte),
      Ready f [⟨1, d, .long⟩, ⟨2, a, .src⟩, ⟨3, b, .src⟩] [] →
      let p := f.src a
      let banks := s.banksOf f.key.launch f.key.team
      let wd := descField desc 10 1
      let spans := tileSpans desc (bitsOf p 63 48) (bitsOf p 47 32)
      paramBad p true = false → f.src b = 0 → nth none t.tds (bitsOf p 29 24) = some desc → descField desc 9 1 ≤ 6 →
      bitsOf p 63 48 + 16 ≤ descField desc 12 4 → bitsOf p 47 32 + wd ≤ descField desc 16 4 → banks ≠ [] →
      tileValid banks (bitsOf p 23 16) wd = true → s.queueFull f.core = false → descField desc 8 1 = 0 →
      descField desc 40 1 / 2 % 2 = 0 → Filled s f.key.launch f.key.team spans → MayCommit s f → f.relHold = none →
      let s1 := committed s f
      Blocks (.drain ⟨h.pg, h.pn⟩ d a b) s f (.drain s1.uid d.toNat)
        { s1 with uid := s1.uid + 1, mat := { s1.mat with queue := s1.mat.queue ++
          [⟨s1.uid, f.core, f.key.launch, f.key.team, banks, bitsOf p 23 16, wd, desc,
            .drain f.key d.toNat 0 (bitsOf p 63 48) (bitsOf p 47 32) (bitOf p 0) []⟩] } } (emptied f)) ∧
    (∀ (n : BitVec 4) (a : BitVec 6), Ready f [⟨2, a, .src⟩] [] → (f.src a).toNat % 8 = 0 →
      (∀ (s2 : State) (f2 : Fibre) (ps : List Piece),
        let va := (f.src a).toNat
        let s1 := s.cacheParts (.core f.core) (s.fnOf f) (cutLines va 256) ps
        n.toNat < 8 → s.tableLoading f n.toNat = false →
        s.translateParts (.core f.core) (s.fnOf f) false (cutLines va 256) = .ok ps →
        s1.loadTo f ⟨256, false⟩ (.pattern n.toNat) 0 va (within va 256 f.bufferedGlobal) ps = some (s2, f2) →
        { f2 with gwmax := f.gwmax } = f ∧ Does (.tbld h n a) s f h.e s2 { f2 with acqHold := false } s1) ∧
      (∀ e, 8 ≤ n.toNat → f.tableWord = some e → exprFault e = none →
        Does (.tbld h n a) s f h.e
          (s.onTeam f.key.launch f.key.team fun t => { t with exprs := setNth none t.exprs (n.toNat - 8) (some e) })
          { f with tableWord := none }) ∧
      (∀ e i, 8 ≤ n.toNat → f.tableWord = some e → exprFault e = some i →
        exec (.tbld h n a) s = .next ((s.trapEntry { f with tableWord := none } 0x0B
          (BitVec.ofNat 64 (n.toNat - 8 + 8 * 2 ^ 8 + i * 2 ^ 16)) (f.hints.start.getD f.pc)).leaveBatch f.key)))

/-! ### Engine commands, guards and worklists -/

/-- R19, R20, R30, R131, R270, R312 to R314: a COPY, GATH, LAUNCH or EVSIG word that passes its checks presents its command
with the operands, scope, ordering and guard it has at that moment: of a COPY word whose operands' chunks hold data, of SPMAP over
chunks that are not mapped, and of SPFILL, SPWB and SPUNMAP over chunks that are.
The model's choices in it: log 20 (how CPYFP translates), log 32 (guarded commands), log 49 (an acquiring command leaves the GWMAX of
its issuer as it is), log 73 (table pages in a multicast window). -/
def Obligations.EngineWordsPresentTheirCommand : Prop :=
  ∀ (g : Gd) (sc : BitVec 3) (o : BitVec 2) (a b : BitVec 6) (s : State) (f : Fibre), Issues s f g.pg g.pn → sc.toNat < 5 →
    f.inTask = false →
    let ready := fun (s1 : State) => s1.presentWaits f (o.toNat % 2 == 1) = false ∧ MayCommit s1 f
    let guard := f.hints.guard.map fun x => (x.1.toNat, x.2)
    (∀ p ∈ copyTable, ∀ ps1 ps2 : List Piece,
      let ra := f.readG a.toNat
      let ra1 := if 2 ≤ p.2.2 then f.readG (a.toNat + 1) else 0
      let ra2 := if 3 ≤ p.2.2 then f.readG (a.toNat + 2) else 0
      let sb := f.src b
      let rw_ := s.cpGlobals f p.2.1 ra ra1 ra2 sb
      let pages := fun (l : List (Nat × Nat)) (ps : List Piece) =>
        ((l.zip ps).map fun (x : (Nat × Nat) × Piece) => (x.1.1 / 65536, x.2.leaf) : List (Nat × Leaf))
      let leaves := pages rw_.1 ps1 ++ pages rw_.2 ps2
      let s0 := s.cacheParts (.engine 1) (s.fnOf f) rw_.1 ps1
      let s1 := s0.cacheParts (.engine 1) (s0.fnOf f) rw_.2 ps2
      let src := if p.2.1 = 2 ∨ p.2.1 = 3 then Spot.none
        else if 5 ≤ p.2.1 ∨ sb.getLsbD 25 = true then .spad (s1.spadOf f ra).1 (s1.spadOf f ra).2 else .global ra.toNat
      let da := if p.2.1 = 2 then ra else ra1
      let dst := if p.2.1 = 3 ∨ 5 ≤ p.2.1 then Spot.none
        else if sb.getLsbD 26 = true then .spad (s1.spadOf f da).1 (s1.spadOf f da).2 else .global da.toNat
      Ready f [⟨2, a, .srcGroup p.2.2⟩, ⟨3, b, .src⟩] [] → s.cpOverlap f p.2.1 ra ra1 ra2 sb = false → cpBad p.2.1 sb = false →
      cpMisaligned p.2.1 ra ra1 ra2 sb = none → s.cpSpadFault f p.2.1 ra ra1 ra2 sb = none →
      sb.getLsbD 26 = true ∨ s.cpCast f p.2.1 da.toNat rw_.2 = none →
      s.translateParts (.engine 1) (s.fnOf f) false rw_.1 = .ok ps1 →
      s0.translateParts (.engine 1) (s0.fnOf f) true rw_.2 = .ok ps2 →
      (∀ l ∈ leaves, p.2.1 = 3 → ∀ pa, l.2.base ≠ .repl pa) →
      (sb.getLsbD 25 = true → p.2.1 < 5 → Filled s1 f.key.launch (s1.spadOf f ra).1
        ((cpSpans p.2.1 sb (bitsOf ra2 31 0)).map fun x => ((s1.spadOf f ra).2 + x.1, x.2))) →
      (sb.getLsbD 26 = true → p.2.1 < 5 → Filled s1 f.key.launch (s1.spadOf f da).1
        ((cpSpans p.2.1 sb (bitsOf ra2 63 32)).map fun x => ((s1.spadOf f da).2 + x.1, x.2))) → ready s1 →
      Presents (p.1 g sc o a b) s f
        ⟨1, p.2.1, [ra, ra1, ra2, sb], sc.toNat, o.toNat, guard, src, dst, leaves, leaves.any fun x => isPeer x.2, none⟩ s1) ∧
    (∀ p ∈ gatherTable, ∀ (t : Team) (desc : List Byte),
      let x := f.src a
      let y := f.src b
      let rowb := descField desc 10 2
      let rg := gRegions p.2 rowb x y
      let adesc := if p.2 = 5 ∧ gAtd x ≠ 0xFF then nth none t.tds (gAtd x) else none
      let bytes := fun (off n : Nat) => memRead t.spad off n
      let offs := if pools p.2 then words32 (gBags x + 1) (bytes (gList x + 4 * gCount x) (4 * (gBags x + 1))) else []
      Ready f [⟨2, a, .src⟩, ⟨3, b, .src⟩] [] → s.teamOf f = some t → nth none t.tds (gTd x) = some desc →
      isTable (descField desc 9 1) = true → gBadA p.2 x = false → gBadB p.2 rowb x y = false →
      gDescFault p.2 x (some desc) (nth none t.tds (gAtd x)) = none → gMisaligned x y = none →
      (∀ r ∈ rg.1 ++ rg.2, r.1 + r.2 ≤ (s.launchOf f).elim 0 (·.spadBytes)) → Filled s f.key.launch f.key.team (rg.1 ++ rg.2) →
      (pools p.2 = true → bagsOk offs (gCount x) = true) → ready s → (committed s f).teamOf f = some t →
      let ask : GatherAsk := ⟨desc, adesc.getD [], words32 (gCount x) (bytes (gList x) (4 * gCount x)), offs,
        if p.2 = 5 then bytes (64 * gQry y) rowb else []⟩
      (∀ q ∈ ask.pages p.2, (committed s f).castWindow ((committed s f).fnOf f) (q * 65536) = none) →
      Presents (p.1 g sc o a b) s f
        ⟨2, p.2, [x, y], sc.toNat, o.toNat, guard, .none, .spad f.key.team 0, [], false, some ask⟩ s) ∧
    (∀ ps : List Piece,
      let va := f.src a
      let one := fun (n : Nat) (write : Bool) => s.translateParts (.engine 4) (s.fnOf f) write (pagesOf va.toNat n) = .ok ps
      let s1 := fun (n : Nat) => s.cacheParts (.engine 4) (s.fnOf f) (pagesOf va.toNat n) ps
      let leaves := fun (n : Nat) => ((pagesOf va.toNat n).zip ps).map fun x => (x.1.1 / 65536, x.2.leaf)
      (Ready f [⟨2, a, .src⟩] [] → va.toNat % 256 = 0 → one 256 false → ready (s1 256) →
        Presents (.launch g sc o a) s f ⟨4, 0, [va], sc.toNat, o.toNat, none, .global va.toNat, .none, leaves 256,
          (leaves 256).any fun x => isPeer x.2, none⟩ (s1 256)) ∧
      (Ready f [⟨2, a, .src⟩, ⟨3, b, .src⟩] [] → va.toNat % 8 = 0 → one 8 true → (∀ l ∈ leaves 8, ∀ pa, l.2.base ≠ .repl pa) →
        ready (s1 8) →
        Presents (.evsig g sc o a b) s f ⟨4, 1, [va, f.src b], sc.toNat, o.toNat, none, .global va.toNat, .none, leaves 8,
          (leaves 8).any fun x => isPeer x.2, none⟩ (s1 8)))

/-- R29 to R31, R184: GSET and GCLR resolve an unresolved slot of the team for good, TRUE or FALSE. Of the commands of the team under the
slot those whose condition holds are admitted, or wait for their admission, by the resolving fibre, and the others are discarded; the
fibre goes on once none of them waits; with no command at all it goes on at once and D holds 0. GRST makes a resolved slot unresolved; a slot already resolved is
ILLEGAL_OPERAND, FIELD 3, for GSET and GCLR.
The model's choices in it: log 32 (guarded commands). -/
def Obligations.GuardSlots : Prop :=
  ∀ (g : Gd) (d q : BitVec 6) (s : State) (f : Fibre) (t : Team), Issues s f g.pg g.pn → MayCommit s f → f.relHold = none →
    Ready f [⟨1, d, .long⟩] [] → s.teamOf f = some t →
    let set := fun (v : Slot) => (committed s f).onTeam f.key.launch f.key.team fun t =>
      { t with guards := setNth .unresolved t.guards q.toNat v }
    let goes := fun (i : Instr) (v : Slot) => ∃ u f', exec i s = .next u ∧ FibreOf (set v) u f.key f' ∧
      u.batches = parted (set v) f.key ∧ f'.pc = f.pc + 4 ∧ f'.status = .eligible ∧
      f'.g = (if d.toNat = 0 then f.g else setNth 0 f.g d.toNat 0) ∧ SameBytes s u
    let resolves := fun (i : Instr) (v : Slot) => ∃ u f', exec i s = .next u ∧ u.fibre? f.key = some f' ∧
      (∀ c ∈ (set v).cmds, ∀ neg, c.issuer.launch = f.key.launch → c.issuer.team = f.key.team → c.guard = some (q.toNat, neg) →
        c.state = .held →
        ((v = .true_ ↔ neg = true) → u.cmd? c.uid = none) ∧
        (¬ (v = .true_ ↔ neg = true) → ∃ c', u.cmd? c.uid = some c' ∧ c'.guard = none ∧ c'.resolver = some f.key ∧
          (c'.state = .admitting ∨ c'.state = .accepted))) ∧
      ((∃ best, f'.status = .blocked (.guard q.toNat d.toNat best)) ↔
        ∃ c ∈ u.cmds, c.state = .admitting ∧ c.resolver = some f.key) ∧
      ((∀ best, f'.status ≠ .blocked (.guard q.toNat d.toNat best)) → f'.status = .eligible)
    (nth .unresolved t.guards q.toNat = .unresolved → (committed s f).cmds = [] →
      goes (.gset g d q) .true_ ∧ goes (.gclr g d q) .false_) ∧
    (nth .unresolved t.guards q.toNat = .unresolved → ((committed s f).cmds.map (·.uid)).Nodup →
      (∀ c ∈ (committed s f).cmds, c.resolver ≠ some f.key) →
      resolves (.gset g d q) .true_ ∧ resolves (.gclr g d q) .false_) ∧
    (nth .unresolved t.guards q.toNat ≠ .unresolved →
      Traps (.gset g d q) s s f 0x02 (BitVec.ofNat 64 (3 * 2 ^ 32 + f.ir.toNat)) f.pc ∧
      Traps (.gclr g d q) s s f 0x02 (BitVec.ofNat 64 (3 * 2 ^ 32 + f.ir.toNat)) f.pc) ∧
    (∀ e, Does (.grst ⟨e, g.pg, g.pn⟩ q) s f e (set .unresolved) (emptied f))

/-- R151, R374, R380, R391, R392: outside a task WPUSH and WPUSHS commit, present their push and block until it is accepted;
inside one WPUSH joins the region buffer and WPUSHS is TASK_NON_IDEMPOTENT; an ENTRY outside the handler table is
ILLEGAL_OPERAND, FIELD 2. -/
def Obligations.WorklistPushes : Prop :=
  ∀ (g : Gd) (w : BitVec 3) (a b : BitVec 6) (s : State) (f : Fibre), Issues s f g.pg g.pn →
    Ready f [⟨2, a, .src⟩, ⟨3, b, .src⟩] (s.wlBad f w) →
    let prio : W32 := (f.src a).extractLsb' 0 32
    let entry : W32 := (f.src a).extractLsb' 32 32
    let inside := entry.toNat < (s.wl w.toNat).handlers.length
    let presents := fun (i : Instr) (ticket : Option Word) =>
      let s1 := committed s f
      let s2 := s1.presentPush (emptied f) w.toNat prio entry (f.src b) ticket
      exec i s = .next (((s2.setFibre ({ emptied f with seq := f.seq + 1 }.blockedAt s2.ftime (.push s1.uid))).tryPushes
        f.key).leaveBatch f.key)
    (inside → MayCommit s f → f.relHold = none → presents (.wpush g w a b) none ∧
      presents (.wpushs g w a b) (some (BitVec.ofNat 64 (3 * 2 ^ 60 + f.seq % 2 ^ 32)))) ∧
    (inside → f.inTask = true → f.region.length < 16 →
      Does (.wpush g w a b) s f true s { f with region := f.region ++ [.push w.toNat prio entry (f.src b)] }) ∧
    (f.inTask = true → ∃ v, Traps (.wpushs g w a b) s s f 0x09 v (f.hints.start.getD f.pc) ∧ v.toNat % 2 ^ 8 = 2) ∧
    (¬ inside → f.inTask = false →
      Traps (.wpush g w a b) s s f 0x02 (BitVec.ofNat 64 (2 * 2 ^ 32 + f.ir.toNat)) f.pc ∧
      Traps (.wpushs g w a b) s s f 0x02 (BitVec.ofNat 64 (2 * 2 ^ 32 + f.ir.toNat)) f.pc)

/-- R375, R377, R380, R391, R393: WPOP and WPOPW commit and take an eligible task of the lowest bucket of their core's slice:
it runs, the task region begins at the popping word, D and D+1 are owed PRIO, ENTRY and payload, and with dispatch the run of
its handler starts; with none eligible WPOP (and WPOPW once TERMINATED) is owed the empty value, and WPOPW blocks.
The model's choices in it: log 6 (which task of several equal ones a pop takes). -/
def Obligations.WorklistPops : Prop :=
  ∀ (h : Hdr) (w : BitVec 3) (d : BitVec 6) (k : Bool) (s : State) (f : Fibre), Issues s f h.pg h.pn →
    Ready f [⟨1, d, .longGroup 2⟩] (s.wlBad f w) → f.trapMode = false → MayCommit s f → f.relHold = none → f.keptTask = none →
    let s1 := committed s f
    let f1 := emptied f
    let wl := w.toNat
    let g : Gd := ⟨h.pg, h.pn⟩
    let spc := f.hints.start.getD f.pc
    (s1.eligible wl f.core ≠ [] → ∃ t ∈ s1.eligible wl f.core,
      let v := (t.entry ++ t.prio : BitVec 64)
      let s2 := (s1.moveTask wl t.uid (.running f.key)).takeFresh
      let s3 := s2.owing f [(d.toNat, v), (d.toNat + 1, t.payload)] 0
      let f3 := { (f1.owed d.toNat s2.uid).owed (d.toNat + 1) s2.uid with
        task := some ⟨wl, t.uid, t.prio.zeroExtend 64, t.entry.zeroExtend 64, t.payload, d.toNat, k⟩, keptTask := none,
        spc := spc, rstart := f.rstack, rstartDepth := f.depth, acqHold := true }
      (k = false → Does (.wpop h w d false) s f h.e s3 f3 ∧ Does (.wpopw g w d false) s f true s3 f3) ∧
      (k = true → let dest := BitVec.ofNat 64 ((s3.launchOf f).elim 0 (·.text) + 4 * nth 0 (s3.wl wl).handlers t.entry.toNat)
        Goes (.wpop h w d true) s f dest s3 f3 ∧ Goes (.wpopw g w d true) s f dest s3 f3)) ∧
    (s1.eligible wl f.core = [] →
      let s2 := s1.idleAt wl f.core
      let s3 := s2.owing f [(d.toNat, BitVec.allOnes 64), (d.toNat + 1, 0)] 0
      let f3 := (f1.owed d.toNat s2.uid).owed (d.toNat + 1) s2.uid
      Does (.wpop h w d k) s f h.e s3 f3 ∧
      ((s2.wl wl).terminated = true → Does (.wpopw g w d k) s f true s3 f3) ∧
      ((s2.wl wl).terminated = false → Blocks (.wpopw g w d k) s f (.wpopw wl d.toNat k) s2
        { f1 with spc := spc, rstart := f.rstack, rstartDepth := f.depth }))

/-- R387, R394 to R397: WDONE commits and waits for the task's pushes, and without a held task is TASK_NON_IDEMPOTENT reason
4; WBOUND sets Δ; WTERM blocks, or is owed the terminations once TERMINATED; WSTAT is owed a statistic. -/
def Obligations.WorklistEndsAndStatistics : Prop :=
  ∀ (h : Hdr) (w : BitVec 3) (s : State) (f : Fibre), Issues s f h.pg h.pn → s.wlBad f w = [] → f.relHold = none →
    let g : Gd := ⟨h.pg, h.pn⟩
    let wl := w.toNat
    let s1 := committed s f
    (f.inTask = true → s.canCommit f = true →
      let s2 := f.region.foldl (fun s e => s.issueEntry f e) s
      exec (.wdone g w) s = .next (((s2.setFibre ({ f with region := [] }.blockedAt s2.ftime (.wdone wl))).tryDone
        f.key).leaveBatch f.key)) ∧
    (f.inTask = false → ∃ v, Traps (.wdone g w) s s f 0x09 v (f.hints.start.getD f.pc) ∧ v.toNat % 2 ^ 8 = 4) ∧
    (∀ a : BitVec 6, Ready f [⟨2, a, .src⟩] [] → MayCommit s f → (f.src a).toNat < 64 →
      Does (.wbound h w a) s f h.e
        (s1.onWl wl fun x => { x with delta := (f.src a).toNat, oldDeltas := x.delta :: x.oldDeltas }) (emptied f)) ∧
    (∀ d : BitVec 6, Ready f [⟨1, d, .long⟩] [] → MayCommit s f →
      ((s1.wl wl).terminated = true → Does (.wterm g w d) s f true
        (s1.owing f [(d.toNat, BitVec.ofNat 64 ((s1.wl wl).terminations % 2 ^ 63 + if (s1.wl wl).lost = 0 then 0 else 2 ^ 63))] 0)
        ((emptied f).owed d.toNat s1.uid)) ∧
      ((s1.wl wl).terminated = false → Blocks (.wterm g w d) s f (.wterm wl d.toNat) s1 (emptied f))) ∧
    (∀ d b : BitVec 6, Ready f [⟨1, d, .long⟩, ⟨3, b, .src⟩] [] → MayCommit s f →
      let x := s1.wl wl
      let gives := fun (v : Word) => Does (.wstat h w d b) s f h.e (s1.owing f [(d.toNat, v)] 0) ((emptied f).owed d.toNat s1.uid)
      (f.src b = 3 → gives (BitVec.ofNat 64 (x.tasks.filter fun t => match t.at_ with | .running _ => true | _ => false).length)) ∧
      (f.src b = 6 → gives (BitVec.ofNat 64 x.delta)) ∧ (f.src b = 7 → gives (BitVec.ofNat 64 x.accepted)) ∧
      (f.src b = 8 → gives (BitVec.ofNat 64 x.completed)) ∧ (f.src b = 10 → gives (BitVec.ofNat 64 x.lost)) ∧
      ((f.src b).toNat < 12 → gives (s1.wstat wl (f.src b).toNat)))

/-! ### Events of Cairn, of engines and of the fault service -/

/-- R374, R375, R378, R386, R387, R393: a push that finds a place is accepted, the worklist is open again and the pusher
goes on; an announced inversion push and a broadcast give every core the horizon floor + Δ; a WPOPW receives one of the
eligible tasks; tasks are sent to an idle core from one with eligible tasks, at most 32, and arrive in its slice; the sweep
that finds a worklist quiet twice in a row with the same counts declares TERMINATED and releases the waiting fibres.
The model's choices in it: log 2 (when each of these events happens), log 49 (which tasks a slice takes and where its windows begin). -/
def Obligations.TasksMoveAndTheHorizonFollows : Prop :=
  ∀ (s : State) (wl core : Nat) (f : Fibre), wl < 8 →
    (∀ (p : Push) (w : Worklist), s.cairn.pushes = [p] → p.accepted = false → s.writesBefore p.issuer p.uid = false →
      s.fibre? p.issuer = some f → f.status = .blocked (.push p.uid) →
      (s.wl p.wl).place p.core ⟨p.uid, p.prio, p.entry, p.payload, p.vt, .queued p.core⟩ = some w →
      ∃ t, exec (.pushAcceptance p.uid) s = .next t ∧
        t.wl p.wl = { w with accepted := w.accepted + 1, terminated := false } ∧
        t.cairn.pushes = (if p.inversion then [{ p with accepted := true, acceptedAt := s.ftime }] else []) ∧
        t.fibre? p.issuer = some { f with status := .eligible, age := s.ftime,
                                          ft := if p.ticket.isSome then Nat.max f.ft (s.ftime + 2000) else f.ft } ∧
        { t with fibres := s.fibres, cairn := s.cairn } = s) ∧
    (∀ p : Push, s.cairn.pushes = [p] → p.accepted = true → p.missed = false → s.fibre? p.issuer = some f → f.status = .eligible →
      let s1 := { s with cairn := { s.cairn with pushes := [] } }
      exec (.inversionPushAnnounced p.uid) s = .next (s1.broadcast p.wl) ∧
        ((s1.broadcast p.wl).wl p.wl).horizon = s1.horizonNow p.wl) ∧
    (∃ t, exec (.horizonBroadcast wl) s = .next t ∧ (t.wl wl).horizon = s.horizonNow wl ∧
      (∀ n, n ≠ wl → t.wl n = s.wl n) ∧ { t with cairn := s.cairn } = s ∧
      (∀ h, s.horizonNow wl = some h → ∀ x ∈ (s.wl wl).tasks, s.counts x = true →
        h ≤ (s.wl wl).bucket x.prio + (s.wl wl).delta)) ∧
    (∀ (d : Nat) (k : Bool) (pick : Nat), s.fibre? f.key = some f → f.status = .blocked (.wpopw wl d k) → f.saved = false →
      (s.eligible wl f.core ≠ [] → ∃ t ∈ s.eligible wl f.core,
        let held : HeldTask := ⟨wl, t.uid, t.prio.zeroExtend 64, t.entry.zeroExtend 64, t.payload, d, k⟩
        let s1 := s.moveTask wl t.uid (.running f.key)
        let g := { ((f.writeG d (t.entry ++ t.prio : BitVec 64)).writeG (d + 1) t.payload) with
          task := some held, keptTask := none, rstart := f.rstack, rstartDepth := f.depth, acqHold := true,
          status := .eligible, age := s.ftime }
        exec (.wpopwDelivery f.key pick) s = .next (s1.setFibre (if k then { g with pc := s1.handlerOf g held } else g))) ∧
      (s.eligible wl f.core = [] → (s.wl wl).terminated = true → exec (.wpopwDelivery f.key pick) s =
        .next (s.setFibre { ((f.writeG d (BitVec.allOnes 64)).writeG (d + 1) 0) with status := .eligible, age := s.ftime }))) ∧
    ((s.wl wl).idle.contains core = true ∨
        (s.popWaits wl core = true ∧ ∀ x ∈ (s.wl wl).tasks, x.at_ ≠ .transit core) → s.eligible wl core = [] →
      (∃ x ∈ (s.wl wl).tasks, ∃ c, x.at_ = .queued c ∧ c ≠ core ∧ s.eligible wl c ≠ []) →
      ∃ (c : Nat) (ts : List Task), c ≠ core ∧ ts ≠ [] ∧ ts.length ≤ 32 ∧ (∀ t ∈ ts, t ∈ (s.wl wl).tasks ∧ t.at_ = .queued c) ∧
        (∀ t, ts.head? = some t → t ∈ s.eligible wl c) ∧
        exec (.idleRequest wl core) s = .next (s.onWl wl fun w =>
          { w with tasks := w.tasks.map (fun x => if ts.any (fun t => t.uid == x.uid) then { x with at_ := .transit core } else x),
                   idle := w.idle.filter (· != core) })) ∧
    (((s.wl wl).tasks.map (·.uid)).Nodup →
      (s.wl wl).sliceUsed core + ((s.wl wl).tasks.filter fun t => t.at_ = .transit core).length ≤ 8192 →
      exec (.taskTransferArrival wl core) s = .next (s.onWl wl fun w =>
        { w with tasks := w.tasks.map fun t => if t.at_ = .transit core then { t with at_ := .queued core } else t })) ∧
    ((s.wl wl).sweptAt + 1000 ≤ s.ftime → (s.fibres.map (·.key)).Nodup →
      let w := s.wl wl
      let quiet := 1 ≤ w.accepted ∧ w.tasks = [] ∧ (∀ p ∈ s.cairn.pushes, p.wl = wl → p.accepted = true) ∧
        w.accepted = w.completed + w.lost ∧ w.terminated = false ∧ w.bound.isSome = true
      (¬ quiet → exec (.terminationSweep wl) s = .next (s.onWl wl fun w => { w with sweptAt := s.ftime, sweep := none })) ∧
      (quiet → w.sweep ≠ some (w.accepted, w.accepted) → exec (.terminationSweep wl) s =
        .next (s.onWl wl fun w => { w with sweptAt := s.ftime, sweep := some (w.accepted, w.accepted) })) ∧
      (quiet → w.sweep = some (w.accepted, w.accepted) → ∃ t, exec (.terminationSweep wl) s = .next t ∧
        (t.wl wl).terminated = true ∧ (t.wl wl).terminations = w.terminations + 1 ∧
        (∀ k g d x, s.fibre? k = some g → g.status = .blocked (.wpopw wl d x) →
          t.fibre? k = some { ((g.writeG d (BitVec.allOnes 64)).writeG (d + 1) 0) with status := .eligible, age := s.ftime }) ∧
        (∀ k g d, s.fibre? k = some g → g.status = .blocked (.wterm wl d) →
          t.fibre? k = some { (g.writeG d (t.wl wl).terms) with status := .eligible, age := s.ftime })))

/-- R19 to R21, R104, R114, R131, R271, R273, R275, R278, R279, R315: a command of any engine at the head of its queue that the
calendar can hold is accepted with t_end and a PCT that adds its terms, its issuer's FT takes the PCT and the issuer goes on; SPMAP binds
its chunks then, SPFILL notes them, SPWB and SPUNMAP take their written lines, and SPUNMAP unmaps them. What CPY, CPY2D and FILL write
to scratchpad is there at the PCT, what they, SPWB and SPUNMAP write to global memory by it, and the parts in which they write cover
their destination; CMPB writes the least index where its ranges differ; SPFILL fills its chunks; CPYFP shares the slot of an equal
page, installs a new one in the first free slot, or finds its table full, and its writes are made. A LAUNCH enters its device queue,
an EVSIG adds its value to its counter; an EVWAIT whose counter has reached its value goes on, and waits on where it has not.
The model's choices in it: log 4 (how long an engine's move takes), log 39 (in which units a copy reads and writes), log 49 (EVSIG
adds at the home whatever its SCOPE), log 60 (which die is nearest the launch engine), log 74 (what the fabric charges). -/
def Obligations.CommandsAreAcceptedAndComplete : Prop :=
  ∀ (s : State) (c : Cmd), s.cmd? c.uid = some c →
    let reg := fun (i : Nat) => nth 0 c.regs i
    let len := bitsOf (reg 3) 24 0
    let goesOn := c.engine = 1 ∧ c.state = .accepted ∧ (c.ord % 2 = 1 → c.acqWait ≤ s.ftime) ∧ c.asked = true ∧ s.fab.remote = [] ∧
      c.missed = false
    let aligned := ∀ va pa leaf, c.leaf? va = some leaf → leaf.base = .dram pa → pa % 65536 = 0
    let holds := fun (t : State) (pa key : Nat) (b : Byte) => t.m.homeNewest .home (Place.dram pa).line key (Place.dram pa).off 1 = [b]
    (∀ (ds : List Demand) (adds : List (CalKey × List (Nat × Nat))) (last : Nat) (f : Fibre),
      (∀ d ∈ s.cmds, d ≠ c → d.uid ≠ c.uid ∧ d.queued = false) → c.state = .presented → c.arrival ≠ 0 → s.acqKnown c = true →
      c.guard = none → c.resolver = none → (c.engine = 1 → 5 ≤ c.form → s.mapsBefore c = []) → s.demands c = .ok (some ds) →
      let start := if c.ord % 2 = 1 then Nat.max s.ftime c.acqWait else s.ftime
      s.placeAll start ds = some (adds, last) → s.fibre? c.issuer = some f → f.status = .blocked (.accept c.uid) →
      let tEnd := if last = 0 then start else last * 1024
      let far := c.far || (c.engine == 2 && ds.any fun d => d.granted.isSome && d.cost != 0)
      let rel := decide (2 ≤ c.ord) && (c.engine == 1 || (c.engine == 2 && (c.form == 3 || c.form == 4)) ||
        (c.engine != 1 && c.engine != 2 && c.form == 1))
      let pct := tEnd + (if c.engine = 2 then 1604 else 404) + (if rel then 10000 else 0) + (if far then 32028 else 0)
      ∃ t c', exec (.commandAcceptance c.uid) s = .next t ∧ t.cmd? c.uid = some c' ∧
        (c'.state = .accepted ∧ c'.tEnd = tEnd ∧ c'.pct = pct ∧ c'.far = far ∧ c'.regs = c.regs ∧ c'.src = c.src ∧ c'.dst = c.dst) ∧
        (c.engine = 4 → c.form = 0 → s.launchPrio c = .ok c'.dq) ∧
        t.fibre? c.issuer = some { f with ft := Nat.max f.ft pct, status := .eligible, age := s.ftime } ∧
        (c.engine ≠ 2 → { t with cmds := s.cmds, fibres := s.fibres, calendars := s.calendars, uid := s.uid, teams := s.teams } = s) ∧
        ((c.engine ≠ 1 ∨ c.form < 5 ∨ c.form = 6) → t.teams = s.teams) ∧
        (∀ (tm : Team) (team off : Nat), c.engine = 1 → 5 ≤ c.form → c.src = .spad team off →
          s.team? c.issuer.launch c.issuer.team = some tm →
          let idxs := chunksOf off len
          ∃ tm', t.team? c.issuer.launch c.issuer.team = some tm' ∧ tm'.spad = tm.spad ∧
            (∀ i, i ∉ idxs → tm'.chunk? i = tm.chunk? i) ∧
            (∀ i ∈ idxs, (c.form = 5 → tm.chunk? i = none → ∃ ch, tm'.chunk? i = some ch ∧ ch.filled = false ∧ ch.written = [] ∧
                ch.va = (reg 1).toNat + 4096 * (i - off / 4096)) ∧
              (c.form = 6 → tm'.chunk? i = tm.chunk? i ∧ i ∈ c'.todo.map (·.idx)) ∧
              (c.form = 7 → ∀ ch, tm.chunk? i = some ch → ch.filled = true → tm'.chunk? i = some { ch with written := [] }) ∧
              (c.form = 8 → tm'.chunk? i = none) ∧
              (c.form = 7 ∨ c.form = 8 → ∀ ch, tm.chunk? i = some ch → ch.filled = true → ∀ ln ∈ ch.written, ln < 32 → ∀ k < 128,
                (ch.va + 128 * ln + k, memGet tm.spad (4096 * ch.idx + 128 * ln + k)) ∈ c'.got)))) ∧
    (∀ (tm : Team) (team off : Nat), goesOn → c.form ≤ 2 → c.todo = [] → c.out = c.toWrite → c.gotBad = [] →
      c.pct ≤ s.ftime → (2 ≤ c.ord → c.due ≤ s.ftime) → c.dst = .spad team off → s.boundOf c = [] →
      s.team? c.issuer.launch team = some tm →
      let rows := if c.form = 1 then bitsOf (reg 3) 47 32 else 1
      let stride := if c.form = 1 then bitsOf (reg 2) 63 32 else 0
      let bytes := fun (r : Nat) => (upFrom (r * len) len).map fun i =>
        if c.form = 2 then nth 0 (bytesLE 8 (reg 1).toNat) (i % 8) else (byteIn c.got i).getD 0
      exec (.copyCommandComplete c.uid) s = .next ((s.onTeam c.issuer.launch team fun t =>
        (List.range rows).foldl (fun t r => if len = 0 then t else t.spadWrite (off + r * stride) (bytes r)) t).dropCmd c.uid)) ∧
    (∀ va : Nat, goesOn → aligned → (c.form ≤ 2 ∧ c.dst = .global va) ∨ ((c.form = 7 ∨ c.form = 8) ∧ va = 0 ∧ s.mapsBefore c = []) →
      c.todo = [] → c.gotBad = [] → s.boundOf c = [] → c.ord < 2 → c.pct ≤ s.ftime + 1 →
      (∀ p ∈ c.out, ∀ i < p.n, ∃ pa leaf, c.place? (va + p.off + i) = some (.dram pa, leaf)) →
      (∀ p ∈ c.out, ∀ i < p.n, ∀ q ∈ c.out, ∀ j < q.n,
        (c.place? (va + p.off + i)).map (·.1) = (c.place? (va + q.off + j)).map (·.1) → p.idx = q.idx ∧ i = j) →
      ∃ t, exec (.copyCommandComplete c.uid) s = .next t ∧ t.cmd? c.uid = none ∧ t.fibres = s.fibres ∧ t.teams = s.teams ∧
        t.outbox = s.outbox ∧ ∀ p ∈ c.out, ∀ i < p.n, ∀ pa leaf, c.place? (va + p.off + i) = some (.dram pa, leaf) →
          holds t pa leaf.key (if c.form = 2 then nth 0 (bytesLE 8 (reg 1).toNat) ((p.idx + i) % 8)
            else (byteIn c.got (p.idx + i)).getD 0)) ∧
    (∀ va : Nat, c.form ≤ 2 → c.dst = .global va →
      let rows := if c.form = 1 then bitsOf (reg 3) 47 32 else 1
      let stride := if c.form = 1 then bitsOf (reg 2) 63 32 else 0
      ∀ r < rows, ∀ j < len, ∃ p ∈ c.toWrite, p.idx ≤ r * len + j ∧ r * len + j < p.idx + p.n ∧
        p.off + (r * len + j - p.idx) = r * stride + j) ∧
    (∀ (pa : Nat) (leaf : Leaf), goesOn → aligned → c.form = 4 → c.todo = [] → c.out = [] → c.gotBad = [] → s.boundOf c = [] → c.ord < 2 →
      (reg 2).toNat % 8 = 0 → c.place? (reg 2).toNat = some (.dram pa, leaf) →
      let same := fun (i : Nat) => byteIn c.got i = byteIn c.got (rangeB + i)
      let writes := fun (v : Nat) => ∃ t, exec (.copyCommandComplete c.uid) s = .next t ∧ t.cmd? c.uid = none ∧
        t.fibres = s.fibres ∧ t.teams = s.teams ∧
        t.m.homeNewest .home (Place.dram pa).line leaf.key (Place.dram pa).off 8 = bytesLE 8 v
      ((∀ i < len, same i) → writes (2 ^ 64 - 1)) ∧ (∀ i < len, ¬ same i → (∀ j < i, same j) → writes i)) ∧
    (goesOn → c.form = 5 → c.ord < 2 → exec (.copyCommandComplete c.uid) s = .next (s.dropCmd c.uid)) ∧
    (∀ leaf : Chunk → Leaf, goesOn → c.form = 6 → c.ord < 2 → s.mapsBefore c = [] → c.pct ≤ s.ftime →
      (∀ ch ∈ s.toFill c, ch.va % 4096 = 0 ∧ c.leaf? ch.va = some (leaf ch) ∧ (∃ pa, (leaf ch).base = .dram pa ∧ pa % 65536 = 0) ∧
        ∀ x ∈ chunkLines (leaf ch) ch.va, ∀ k < 4, s.poisonAt (x.2.add (32 * k)) 32 c.readDie = false) →
      ∃ t, exec (.copyCommandComplete c.uid) s = .next t ∧ t.cmd? c.uid = none ∧ t.fibres = s.fibres ∧
        ∀ tm, s.team? c.issuer.launch c.issuer.team = some tm → tm.spad.wf = true → ∃ tm', t.team? c.issuer.launch c.issuer.team = some tm' ∧
          ∀ ch ∈ s.toFill c,
            tm'.chunk? ch.idx = some { ch with filled := true, fill := none, written := [], leaf := some (leaf ch) } ∧
            ∀ i < 4096, s.agentLine (placeIn (leaf ch) (ch.va + i)) 1 (leaf ch).key c.readDie = [memGet tm'.spad (4096 * ch.idx + i)]) ∧
    (∀ p : FpPlan, goesOn → c.form = 3 → c.probing = true → c.plan = none → c.ord < 2 → s.fpPlan c = .ok p →
      let ws := p.writes ++ [((reg 2).toNat, bytesLE 4 p.index ++ bytesLE 2 p.count ++ bytesLE 1 p.status ++ [0])]
      let at_ := fun (va : Nat) => match s.fpAt c (va / 65536 * 65536) true with
        | .ok (_, l) => some (placeIn l va, l)
        | .error _ => none
      (∀ w ∈ ws, ∀ i < w.2.length, ∃ pa base leaf, at_ (w.1 + i) = some (.dram pa, leaf) ∧ leaf.base = .dram base ∧ base % 65536 = 0) →
      (∀ w ∈ ws, ∀ i < w.2.length, ∀ x ∈ ws, ∀ j < x.2.length, (at_ (w.1 + i)).map (·.1) = (at_ (x.1 + j)).map (·.1) →
        w = x ∧ i = j) →
      (c.leaf? (reg 2).toNat).isSome = true →
      ∃ t, exec (.copyCommandComplete c.uid) s = .next t ∧ t.cmd? c.uid = none ∧ t.fibres = s.fibres ∧ t.teams = s.teams ∧
        ∀ w ∈ ws, ∀ i < w.2.length, ∀ pa leaf, at_ (w.1 + i) = some (.dram pa, leaf) → holds t pa leaf.key (nth 0 w.2 i)) ∧
    (∀ (db data : List Byte) (d : Dedupe) (slot : Nat → FpSlot), s.fpRead c (reg 1).toNat 64 = .ok db → dedupeOf db = some d →
      bitsOf (reg 3) 1 0 = 0 → c.gotBad = [] → data = c.dataOf ⟨0, 0, 4096⟩ →
      s.fpWritable c true (d.pool + 4096 * d.next) = .ok () →
      let fp := (crc64 data).toNat
      let desc := (reg 1).toNat
      (∀ i < d.probe, s.fpSlot c d fp i = .ok (slot i) ∧ s.fpWritable c false (slot i).at_ = .ok ()) →
      (∀ k < d.probe, (∀ i < k, (slot i).state = 1 ∧ (slot i).fp ≠ fp) →
        ((slot k).state = 1 → (slot k).fp = fp → s.fpRead c (d.pool + 4096 * (slot k).index) 4096 = .ok data →
          let n := if (slot k).count < 0xFFFF then (slot k).count + 1 else (slot k).count
          s.fpPlan c = .ok ⟨[((slot k).at_, { slot k with count := n }.bytes)], (slot k).index, n, 0⟩) ∧
        ((slot k).state = 0 → d.next ≠ d.pages →
          s.fpPlan c = .ok ⟨[(d.pool + 4096 * d.next, data), ((slot k).at_, (FpSlot.mk (slot k).at_ fp d.next 1 1).bytes),
            (desc + 28, bytesLE 4 (d.next + 1))], d.next, 1, 1⟩) ∧
        ((slot k).state = 0 → d.next = d.pages → s.fpPlan c = .ok ⟨[], 0xFFFFFFFF, 0, 4⟩)) ∧
      ((∀ i < d.probe, (slot i).state = 1 ∧ (slot i).fp ≠ fp) → s.fpPlan c = .ok ⟨[], 0xFFFFFFFF, 0, 3⟩)) ∧
    (c.engine = 4 → c.form = 0 → c.state = .accepted → c.ord < 2 → (c.ord % 2 = 1 → c.acqWait ≤ s.ftime) → c.asked = true →
      s.fab.remote = [] → c.missed = false → s.goneIn c c.src 0 256 = false →
      let entry := (c.fn, (s.launch? c.issuer.launch).elim 0 (·.prio), s.readSpot c c.src 0 256)
      let queues := setNth [] s.q.device c.dq (nth [] s.q.device c.dq ++ [entry])
      exec (.lnchCommandComplete c.uid) s = .next ({ s with q := { s.q with device := queues } }.dropCmd c.uid)) ∧
    (∀ (pl : Place) (leaf : Leaf) (pa : Nat), c.engine = 4 → c.form = 1 → c.state = .accepted → c.ord < 2 →
      (c.ord % 2 = 1 → c.acqWait ≤ s.ftime) → s.fab.remote = [] → c.missed = false →
      c.place? (reg 0).toNat = some (pl, leaf) → pl = .dram pa →
      let old := natLE (s.m.homeNewest .home pl.line leaf.key pl.off 8)
      exec (.lnchCommandComplete c.uid) s = .next (((s.agentWrite pl (bytesLE 8 ((old + (reg 1).toNat) % 2 ^ 64)) leaf.key
        (s.engineLatency c) .none (.cmdWrite c.uid)).1).dropCmd c.uid)) ∧
    (∀ (f : Fibre) (va : Nat) (value : Word) (acq told : Bool) (l : Leaf) (x : Nat) (bs : List Byte),
      s.fibre? f.key = some f → f.status = .blocked (.evwait va value acq none told) → f.saved = false →
      s.walk (s.fnOf f) va = .ok (l, x) → s.gone (placeIn l va) = false → s.agentGet (s.fnOf f) frontDie va 8 = .bytes bs →
      let s1 := s.dropFar (s.linesOf (s.fnOf f) va 8)
      (value.toNat ≤ natLE bs → exec (.evwaitSatisfied f.key) s =
        .next (s1.setFibre { f with acqHold := f.acqHold || acq, status := .eligible, age := s.ftime })) ∧
      (natLE bs < value.toNat → exec (.evwaitSatisfied f.key) s = .next s1))

/-- R248 to R254: a fault request whose page of the ring translates is posted and FQTAIL advances, with MSI-X vector 0; it is
denied where the ring is disabled, and waits while the ring is full; FRESP retry and deny close it, no fibre stays parked on the
page, and a denial is kept; FQHEAD, with nothing left to post, and FQCFG take what is written; TINVCMD starts an invalidation,
which drops the translations and denials it covers, and its completion advances TINVDONE; a lease ends at its time, and a recalled
translation is dropped, and confirmed where nothing uses it, unless the packet is not one to take.
The model's choices in it: log 30 (ACCESS codes), log 35 (an invalidation recalls every lease). -/
def Obligations.FaultServiceAndInvalidations : Prop :=
  ∀ (s : State) (fn : Nat), fn < 64 →
    let F := s.fn fn
    (∀ r ∈ F.faults, (∀ m < 64, ∀ x ∈ (s.fn m).faults, x.id = r.id → m = fn ∧ x = r) → r.posted = false →
      (bitOf F.fqcfg 16 = false → exec (.faultRequest r.id) s = .next (s.closeFault fn r true)) ∧
      (bitOf F.fqcfg 16 = true → F.ringFull = true → exec (.faultRequest r.id) s = .next s) ∧
      (∀ ps, bitOf F.fqcfg 16 = true → F.ringFull = false →
        let lg := bitsOf F.fqcfg 3 0
        let va := F.fqbase.toNat / 4096 * 4096 + 32 * (F.fqtail % 2 ^ lg)
        s.translateParts (.engine 5) fn true (cutLines va 32) = .ok ps → ∃ t, exec (.faultRequest r.id) s = .next t ∧
          (t.fn fn).fqtail = (F.fqtail + 1) % 2 ^ 32 ∧ t.outbox.getLast? = some (.msix fn 0) ∧
          (∀ x ∈ (t.fn fn).faults, x.id = r.id → x.posted = true))) ∧
    (∀ (v : Word) (r : FaultReq), (F.faults.find? fun x => x.posted && x.id == bitsOf v 31 0) = some r →
      (bitsOf v 33 32 = 0 → exec (.frespRetry fn v) s = .next (s.closeFault fn r false)) ∧
      (bitsOf v 33 32 = 1 → exec (.frespDeny fn v) s = .next (s.closeFault fn r true))) ∧
    (∀ (r : FaultReq) (deny : Bool), ((s.closeFault fn r deny).fn fn).denials = (if deny then r.page :: F.denials else F.denials) ∧
      (∀ x ∈ ((s.closeFault fn r deny).fn fn).faults, x.id ≠ r.id) ∧
      (∀ f ∈ (s.closeFault fn r deny).fibres, f.status ≠ .parked fn r.page)) ∧
    (∀ v : Word, (bitOf v 16 = false ∨ (4 ≤ bitsOf v 3 0 ∧ bitsOf v 3 0 ≤ 12)) →
      exec (.fqcfgWrite fn v) s = .next (s.onFn fn fun f => { f with fqcfg := v &&& 0x1000F })) ∧
    (∀ v : Word, bitOf v 16 = true → (bitsOf v 3 0 < 4 ∨ 12 < bitsOf v 3 0) → exec (.fqcfgWrite fn v) s = .next s) ∧
    (∀ v : Word, (∀ r ∈ F.faults, r.posted = true) →
      exec (.fqheadWrite fn v) s = .next (s.onFn fn fun f => { f with fqhead := bitsOf v 31 0 })) ∧
    (∀ v : Word, F.invals.length < 17 → ∃ t, exec (.tinvcmd fn v) s = .next t ∧
      (F.invals = [] → ∃ iv, (t.fn fn).invals = [iv] ∧ iv.page = bitsOf F.tinvva 56 16 ∧ iv.count = bitsOf v 31 0 ∧
        iv.mark.isSome = true ∧ (∀ e ∈ t.x.tlb, e.fn = fn → ¬ (iv.count = 0 ∨ (iv.page ≤ e.vpn ∧ e.vpn < iv.page + iv.count))) ∧
        (∀ p ∈ (t.fn fn).denials, ¬ (iv.count = 0 ∨ (iv.page ≤ p ∧ p < iv.page + iv.count))) ∧
        (∀ l ∈ t.x.leases, l.recalled = true)) ∧
      (∀ iv r, F.invals = iv :: r → iv.mark.isSome = true →
        (t.fn fn).invals = F.invals ++ [⟨bitsOf F.tinvva 56 16, bitsOf v 31 0, none, []⟩])) ∧
    (∀ (iv : Inval), F.invals = [iv] → s.invalLeft iv fn = false → s.invalDone iv fn = true →
      exec (.invalidationComplete fn) s = .next (s.onFn fn fun f => { f with invals := [], tinvdone := (f.tinvdone + 1) % 2 ^ 32 })) ∧
    (∀ peer frame : Nat, ∃ t, exec (.peerLeaseExpiry peer frame) s = .next t ∧ { t with x := s.x } = s ∧
      (∀ p, p ∈ t.x.peers ↔ p ∈ s.x.peers ∧ ¬ (p.peer = peer ∧ p.frame = frame ∧ p.used = true ∧ p.until_ ≤ s.ftime)) ∧
      ∀ l, l ∈ t.x.leases ↔ l ∈ s.x.leases ∧ ¬ (l.peer = peer ∧ l.frame = frame ∧
        ((l.recalled = true ∧ s.departed peer = false) ∨ l.until_ + 32 ≤ s.ftime))) ∧
    (∀ (head : PktHead) (frame : Nat), (s.takesHead head = false → exec (.peerTranslationRecall head frame) s = .next s) ∧
      (s.takesHead head = true → ∃ t, exec (.peerTranslationRecall head frame) s = .next t ∧
        (∀ e ∈ t.x.tlb, peerCovers head.src frame e.fn e.vpn e.leaf = false) ∧
        (s.fibres = [] → s.teams = [] → s.m.loads = [] → s.m.atoms = [] → s.m.held = [] → s.cmds = [] → s.mat.queue = [] →
          (∀ w ∈ s.cairn.wls, w.bound = none) → t.outbox = s.outbox ++ [.confirm head.src frame] ∧
          ∀ p ∈ t.x.peers, ¬ (p.peer = head.src ∧ p.frame = frame))))

/-- R138, R144, R147, R180, R87, R264: a free issue slot starts a run for the eligible fibre of the best rank of its
partition, in a batch of at most 16 that agree; a sleeping fibre wakes at its time; a long-latency result is written and its
flags merge; a fence and WAITG end, their slot freed, END and EVWAIT with release go on, when their release is done; a held store or
atomic, and END's counter, leave once no atomic before them is in their way.
The model's choices in it: log 2 (when each of these events happens), log 14 (what a release waits for). -/
def Obligations.TheSequencerGoesOn : Prop :=
  ∀ (s : State) (f : Fibre), s.fibre? f.key = some f →
    (∀ core part slot tie g r, slot < 2 → (∀ b ∈ s.batches, ¬ (b.core = core ∧ b.part = part ∧ b.slot = slot)) →
      (∀ x ∈ s.fibres, s.stands core part x = true → x.unheld = true) →
      s.issueOrder core part tie = g :: r → g.deliverable = none → (s.fibres.map (·.key)).Nodup →
      ∃ t keys, exec (.runSelection core part slot tie) s = .next t ∧ t.batches = s.batches ++ [⟨core, part, slot, keys, []⟩] ∧
        keys.head? = some g.key ∧ keys.length ≤ 16 ∧ s.mayRun core part g = true ∧
        (∀ x ∈ s.fibres, s.mayRun core part x = true → rankLt (s.rank x) (s.rank g) = false) ∧
        (∀ k ∈ keys, ∃ x ∈ s.fibres, x.key = k ∧ s.mayRun core part x = true ∧ x.agrees g = true ∧
          t.fibre? k = some { x with passes := 0, boost := false }) ∧
        (∀ x ∈ s.fibres, x.key ∉ keys → t.fibre? x.key = some (if s.mayRun core part x = true then
          { x with passes := Nat.min (x.passes + 1) 256 } else x)) ∧
        { t with fibres := s.fibres, batches := s.batches } = s) ∧
    (∀ w : Word, f.status = .sleeping w → w.toNat ≤ s.ftime → (∀ c ∈ s.cmds, c.issuer ≠ f.key) →
      (∀ p ∈ s.cairn.pushes, p.issuer ≠ f.key) → f.saved = false → f.posted = [] →
      exec (.sleepWake f.key) s = .next (s.setFibre { f with status := .eligible, age := s.ftime })) ∧
    (∀ (r : Result) (d : Nat) (v : Word), r ∈ s.m.results → (∀ x ∈ s.m.results, x.uid = r.uid → x = r) → r.fibre = f.key →
      r.writes = [(d, v)] → f.notReady = [(d, r.uid)] → 0 < d → d < 60 →
      ∃ t, exec (.longLatencyResult r.uid) s = .next t ∧ (∀ x ∈ t.m.results, x.uid ≠ r.uid) ∧
        t.fibre? f.key = some { f with g := setNth 0 f.g d v, fst := f.fst ||| r.flags, notReady := [] } ∧
        { t with fibres := s.fibres, m := { t.m with results := s.m.results } } = s) ∧
    (∀ scope d : Nat, f.status = .blocked (.fence scope (some d)) → s.writesOut f.key = false → f.gwmax ≤ s.ftime →
      exec (.fenceWaitEnd f.key) s =
        .next ((s.setFibre { f.writeG d (BitVec.ofNat 64 f.gwmax) with status := .eligible }).freeSlot f.key)) ∧
    (∀ scope : Nat, s.released f scope = true →
      (f.status = .blocked (.fence scope none) →
        exec (.fenceWaitEnd f.key) s =
          .next ((s.setFibre { f with status := .eligible }).freeSlot f.key)) ∧
      (∀ va value acq told, f.status = .blocked (.evwait va value acq (some scope) told) →
        exec (.fenceWaitEnd f.key) s = .next (s.setFibre { f with status := .blocked (.evwait va value acq none told) })) ∧
      (∀ c, f.status = .blocked (.ending scope c) → s.loadsOut f.key = false → f.task = none → c.all s.atomMayLeave = true →
        exec (.fenceWaitEnd f.key) s = .next (s.endCount f c)) ∧
      (∀ c, f.status = .blocked (.ending scope c) → s.loadsOut f.key = false → f.task.isSome = true →
        exec (.fenceWaitEnd f.key) s = .next ((s.setFibre { f with status := .blocked (.endingTask c) }).tryDone f.key)) ∧
      (∀ e, f.relHold = some (scope, .store e) → s.loadsOut f.key = false → (∀ h ∈ s.m.held, h.fibre ≠ f.key) →
        s.mayIssue f.core e = true →
        exec (.releaseHoldIssue f.key) s = .next ((s.setFibre { f with relHold := none }).issueEntry f e true)) ∧
      (∀ a, f.relHold = some (scope, .atomic a) → s.loadsOut f.key = false → (∀ h ∈ s.m.held, h.fibre ≠ f.key) →
        s.atomMayLeave a = true →
        exec (.releaseHoldIssue f.key) s = .next ((s.setFibre { f with relHold := none }).sendAtom a))) ∧
    (∀ scope : Nat, s.released f scope = false → (f.status = .blocked (.fence scope none) ∨
        (∃ c, f.status = .blocked (.ending scope c)) ∨ ∃ va v a told, f.status = .blocked (.evwait va v a (some scope) told)) →
      exec (.fenceWaitEnd f.key) s = .next s)

/-- R22, R106, R121 to R128, R389, R424: a pre-empted launch stops, and once nothing of it is under way and the tables of its
image can be read it is saved and no batch holds a fibre of it; a restored one runs; a step is released without moves, or after
the moves of a die set change, whose fences come first; a grid that has ended is closed once its write-backs have their
translations; its record is written, or not at all where its address is 0 or bad; its DONE counter gets DONE.VALUE and
the launch is gone; a struck core is marked and, another core being left, no task stays queued in its slices; a missed promise is
noted: of a command that an error in transit hits, with the position that it names, of one whose traffic waits on a port that has
retrained for too long, and of no other for a retrain, and of one that touches a departed peer.
The model's choices in it: log 22 and log 41 (a save is one move, the context stays in State), log 33 (struck cores), log 42
(completion), log 48 (which traffic waits on a port), log 49 (a RECORD or DONE address that cannot be translated is left
unwritten), log 58 (a DONE address that is not aligned), log 59 (DONE on a replicated page). -/
def Obligations.LaunchesAreSavedRestoredAndCompleted : Prop :=
  ∀ (s : State) (l : Launch), s.launch? l.id = some l →
    (l.phase = .running → s.mustPreempt l = true →
      exec (.preemption l.id) s = .next (s.onLaunch l.id fun x => { x with phase := .saving })) ∧
    (l.phase = .saving → s.quiet l.id = true → s.saveAsks l (s.fibres.filter fun f => f.key.launch == l.id) = none →
      ∃ t, exec (.preemption l.id) s = .next t ∧
      (t.launch? l.id).map (·.phase) = some .saved ∧ ∀ b ∈ t.batches, ∀ k ∈ b.members, k.launch ≠ l.id) ∧
    (s.mayRestore l = true → ∃ t, exec (.launchRestore l.id) s = .next t ∧ (t.launch? l.id).map (·.phase) = some .running) ∧
    (l.phase = .running → s.stepReady l = true →
      (l.moving = [] → exec (.dieSetChange l.id []) s = .next (s.releaseStep l.id) ∧
        ((s.releaseStep l.id).launch? l.id).map (·.stepn) = some (l.stepn + 1)) ∧
      (∀ moves, moves ≠ [] → l.moving = [] → (∃ f ∈ s.movedBy l.id moves, s.narrowOut f.key = true) →
        exec (.dieSetChange l.id moves) s = .next s) ∧
      (∀ moves, moves ≠ [] → l.moving = [] → s.mayMove l moves = true → (∀ f ∈ s.movedBy l.id moves, s.narrowOut f.key = false) → ∃ t, exec (.dieSetChange l.id moves) s = .next t ∧
        (t.launch? l.id).map (fun x => (x.moving, x.stepn)) = some (moves, l.stepn)) ∧
      (∀ moves, l.moving ≠ [] → ((s.movedBy l.id l.moving).all fun f => s.released f 3) = true → s.quiet l.id = true →
        s.canMove l l.moving = true → s.saveAsks l (s.movedBy l.id l.moving) = none →
        exec (.dieSetChange l.id moves) s = .next (s.applyMoves l l.moving) ∧
        ((s.applyMoves l l.moving).launch? l.id).map (fun x => (x.moving, x.stepn)) = some ([], l.stepn + 1)) ∧
      (∀ moves, l.moving ≠ [] → ((s.movedBy l.id l.moving).all fun f => s.released f 3) = false →
        exec (.dieSetChange l.id moves) s = .next s)) ∧
    (l.phase = .running ∨ l.phase = .complete → s.gridOver l = true → s.settled l.id = true →
      (∀ x ∈ s.toWriteBack l, (s.backXlat l x.1 x.2).waits = false) → ∃ t due, exec (.launchCompletion l.id) s = .next t ∧
      (t.launch? l.id).map (·.phase) = some (.closing false due) ∧ s.ftime ≤ due ∧
      ∀ x ∈ t.teams, x.launch = l.id → x.ended = true ∧ x.chunks = []) ∧
    (∀ due, l.phase = .closing false due → s.landed l due = true → l.field 96 8 = 0 →
      exec (.launchCompletion l.id) s = .next (s.onLaunch l.id fun x => { x with phase := .closing true s.ftime })) ∧
    (∀ due, l.phase = .closing false due → s.landed l due = true → l.field 96 8 % 64 ≠ 0 →
      exec (.launchCompletion l.id) s = .next ((s.errorRecord 3 22 20 noCore (l.field 96 8) l.id).onLaunch l.id fun x =>
        { x with phase := .closing true s.ftime })) ∧
    (∀ due a c e, l.phase = .closing false due → s.landed l due = true → l.field 96 8 ≠ 0 → l.field 96 8 % 64 = 0 →
      s.translateParts (.engine 4) l.fn true (cutLines (l.field 96 8) (l.recordBytes s.ftime).length) = .violation a c e →
      exec (.launchCompletion l.id) s = .next ((s.xlatRecord c e 22 noCore l.id).onLaunch l.id fun x =>
        { x with phase := .closing true s.ftime })) ∧
    (∀ due ps, l.phase = .closing false due → s.landed l due = true → l.field 96 8 ≠ 0 → l.field 96 8 % 64 = 0 →
      s.translateParts (.engine 4) l.fn true (cutLines (l.field 96 8) (l.recordBytes s.ftime).length) = .ok ps →
      ∃ t d, exec (.launchCompletion l.id) s = .next (t.onLaunch l.id fun x => { x with phase := .closing true d }) ∧
        s.launchPut l (cutLines (l.field 96 8) (l.recordBytes s.ftime).length) (l.recordBytes s.ftime) s.ftime = (t, d)) ∧
    (∀ due, l.phase = .closing true due → s.landed l due = true →
      (l.field 80 8 = 0 → exec (.launchCompletion l.id) s = .next (s.dropLaunch l.id)) ∧
      (∀ ps leaf x pa, l.field 80 8 ≠ 0 → s.translateParts (.engine 4) l.fn true (cutLines l.doneAt 8) = .ok ps →
        s.walk l.fn l.doneAt = .ok (leaf, x) → placeIn leaf l.doneAt = .dram pa → isRepl leaf = false →
        let old := natLE (s.m.homeNewest .home (Place.dram pa).line leaf.key (Place.dram pa).off 8)
        exec (.launchCompletion l.id) s = .next (((s.agentWrite (.dram pa)
          (bytesLE 8 ((old + (BitVec.ofNat 64 (l.field 88 8)).toNat) % 2 ^ 64)) leaf.key 0 .none).1).dropLaunch l.id))) ∧
    (∀ core struct addr : Nat, core < 256 → core ∉ s.mg.absent → (s.otherCore [core]).isSome = true → ∃ t, exec (.coreUncorrectableError core struct addr) s = .next t ∧
      core ∈ t.mg.marked ∧ ∀ w < 8, ∀ x ∈ (t.wl w).tasks, x.at_ ≠ .queued core) ∧
    (∀ (c : Cmd) (n : Nat), s.cmd? c.uid = some c → c.state = .accepted ∨ c.state = .done →
      exec (.promiseMissed c.uid (.uncorrectable n)) s = .next ((s.loseRow c.uid n).onCmd c.uid fun c => { c with missed := true }) ∧
      ((∀ j ∈ s.gat.jobs, j.cmd ≠ c.uid) → s.loseRow c.uid n = s) ∧
      (∀ j ∈ (s.loseRow c.uid n).gat.jobs, j.cmd = c.uid → ∀ p ∈ j.parts, p.stage ≠ 3 → ∀ r ∈ p.rows, n ∈ r.poss → r.pieces = none) ∧
      ((∃ p < 48, (nth Port.initial s.fab.ports p).overlong s.ftime = true ∧ s.trafficOn p c = true) →
        exec (.promiseMissed c.uid .retrain) s = .next (s.onCmd c.uid fun c => { c with missed := true })) ∧
      ((∀ p < 48, (nth Port.initial s.fab.ports p).overlong s.ftime = true → s.trafficOn p c = false) →
        exec (.promiseMissed c.uid .retrain) s = .next s) ∧
      (∀ p, s.departed p = true → s.cmdTouches c p = true → exec (.promiseMissed c.uid (.departed p)) s =
        .next ((s.cmdRerr c).onCmd c.uid fun c => { c with missed := true }))) ∧
    (∀ k n : Nat, s.cmd? k = none → ∃ t, exec (.promiseMissed k (.uncorrectable n)) s = .next t ∧
      ((s.gat.contribs.all fun x => x.uid != k) = true → t = { s with cairn := { s.cairn with
        pushes := s.cairn.pushes.map fun p => if p.uid = k ∧ p.accepted = true then { p with missed := true } else p } }))

/-- R110, R112, R113, R116, R118, R119, R126, R127, R131: the next slot of an enabled host queue, or the head of a device
queue, becomes a launch with the next identifier; its check, at the head of its queue alone, keeps what it needs of the image or
fails the launch with a status, or waits for a page; one that may start is placed as a whole, its fibres at their entries; a lost
rope is started again once nothing of its teams is left; 25,000 ticks after a loss the fibres of the rope that remain have ended.
The model's choices in it: log 17 (lines fetched for a check), log 38 (the checks), log 42 (rope loss), log 49 (which head
goes first), log 57 (a surprise down closes device queues too), log 58
(a WAIT address that is not aligned), log 60 (which die the engine reads), log 61 (MINDIE), log 62 (the PC of a forced end). -/
def Obligations.LaunchesAreQueuedCheckedAndStarted : Prop :=
  ∀ s : State,
    (∀ (n : Nat) (bs : List Byte),
      let hq := nth HostQueue.initial s.q.host n
      let va := hq.base.toNat / 256 * 256 + 256 * (hq.head % 2 ^ bitsOf hq.cfg 3 0)
      let fn := bitsOf hq.cfg 29 24
      bitOf hq.cfg 16 = true → s.q.stopped = false → s.mg.ready = true → hq.wait = none → hq.head ≠ hq.tail →
      s.agentGet fn frontDie va 256 = .bytes bs → ∃ t l, exec (.hostQueueSlotRead n) s = .next t ∧ t.launches = s.launches ++ [l] ∧
        l.id = s.q.nextLaunch ∧ l.fn = fn ∧ l.queue = .host n ∧ l.desc = bs ∧ l.phase = .queued ∧
        l.prio = Nat.min (descField bs 38 1) (bitsOf hq.cfg 10 8) ∧ t.q.nextLaunch = s.q.nextLaunch + 1 ∧
        nth HostQueue.initial t.q.host n = { hq with head := (hq.head + 1) % 2 ^ 32 }) ∧
    (∀ (p fn prio : Nat) (bs : List Byte) (r : List (Nat × Nat × List Byte)), s.q.stopped = false → s.q.held = false → s.mg.ready = true →
      (∀ l ∈ s.launches, l.queue = .device p → l.waiting = false) → nth [] s.q.device p = (fn, prio, bs) :: r →
      ∃ t l, exec (.deviceQueueHeadTake p) s = .next t ∧ t.launches = s.launches ++ [l] ∧ l.id = s.q.nextLaunch ∧ l.fn = fn ∧
        l.queue = .device p ∧ l.desc = bs ∧ l.phase = .queued ∧ l.prio = Nat.min (descField bs 38 1) prio ∧
        nth [] t.q.device p = r ∧ t.q.nextLaunch = s.q.nextLaunch + 1) ∧
    (∀ l : Launch, s.launch? l.id = some l →
      (l.phase = .queued →
        (s.isHead l = false → exec (.launchCheck l.id) s = .next s) ∧
        (∀ img, s.isHead l = true → s.lookLaunch l = .ok img →
          exec (.launchCheck l.id) s = .next ((s.dropLooked l).onLaunch l.id fun l =>
            { l with phase := .checked, text := img.text, textSize := img.textSize, safeAt := img.safeAt,
                     safeCount := img.safe.length, liveAt := img.liveAt, spadinit := img.spadinit })) ∧
        (∀ st, s.isHead l = true → s.lookLaunch l = .fail st 0 0 → exec (.launchCheck l.id) s =
          .next ((s.dropLooked l).onLaunch l.id fun l => { l with phase := .complete, status := st })) ∧
        (∀ va c st, s.isHead l = true → s.lookLaunch l = .page va c st → ∃ t, exec (.launchCheck l.id) s = .next t ∧
          (t.launch? l.id).map (·.phase) = some (.faultWait va st false))) ∧
      (∀ place, l.phase = .checked → s.mayStart l = true → s.validPlace [] l (upFrom 0 l.teams) place = true → l.wlb = false →
        ∃ t, exec (.launchStart l.id place) s = .next t ∧
          t.launch? l.id = some { l with phase := .running, start := s.ftime, order := s.uid,
                                         dies := dedup (place.map fun p => dieOfCore p.core) } ∧
          (∀ p ∈ place, ∃ x ∈ t.teams, x.launch = l.id ∧ x.idx = p.team ∧ x.core = p.core ∧ x.ended = false) ∧
          (∀ p ∈ place, ∀ i < l.nfib, ∃ f ∈ t.fibres, f.key = ⟨l.id, p.team, i⟩ ∧ f.core = p.core ∧ f.status = .eligible ∧
            f.pc = BitVec.ofNat 64 (l.text + 4 * l.field (8 + 4 * l.roleOf i) 4) ∧ f.role = l.roleOf i) ∧
          { t with teams := s.teams, fibres := s.fibres, launches := s.launches, uid := s.uid, q := s.q } = s) ∧
      (∀ rope place, s.restartable l rope = true → s.closed = false → s.placeable l (l.field 46 1) l.rope = true →
        s.ropeQuiet l rope = true →
        (∀ x ∈ chunksBack (s.teams.filter fun t => t.launch == l.id && t.idx / l.rope == rope), (s.backXlat l x.1 x.2).waits = false) →
        s.validPlace [] l (l.ropeTeams rope) place = true → (s.diesWith l.id [] place).length ≤ l.field 46 1 →
        ∃ t, exec (.ropeRestart l.id rope place) s = .next t ∧
          (∀ x, (t.launch? l.id).map (fun l => l.lost.all fun y => y.rope != rope || y.restarted) = some x → x = true) ∧
          (∀ p ∈ place, ∀ i < l.nfib, ∃ f ∈ t.fibres, f.key = ⟨l.id, p.team, i⟩ ∧ f.core = p.core ∧ f.status = .eligible)) ∧
      (∀ rope, (∃ x ∈ l.lost, x.rope = rope ∧ x.restarted = false ∧ x.forced = false ∧ x.at_ + 25000 ≤ s.ftime) →
        l.phase = .running → ∃ t, exec (.ropeLossTimeout l.id rope) s = .next t ∧
          ∀ f ∈ t.fibres, f.key.launch = l.id → f.key.team / l.rope = rope → f.status = .ended))

/-- R6, R109, R110, R400, R409, R410, R416, R417, R420, R425: what host accesses do: registers take the bits they have
and read as zero where they are write-only or another function's, ignored values change nothing, W1C registers lose the bits
written as 1, a doorbell moves QTAIL, BAR2 accesses are performed at the home, a read of poisoned bytes says which they are and
AER reports it (R423), and stacks 12 to 15 read all ones; a lost link stops the queues, a trained one is up; an ATS invalidation
completes once nothing uses what it dropped.
The model's choices in it: log 11 (an event whose condition fails does nothing), log 21 (a host access names its function), log 31
(ATS), log 57 (a surprise down holds device queues too, until a QCFG write), log 69 (what AER reports is one entry of the outbox). -/
def Obligations.HostAccessesAndRegisters : Prop :=
  ∀ (s : State) (v : Word),
    (∀ q fn : Nat, q < 64 →
      let hq := nth HostQueue.initial s.q.host q
      let new := v &&& 0x3F01070F
      (fn = 0 ∨ fn = hq.shown → (hq.takes (bitsOf v 31 0) = true →
        exec (.qtailDoorbell fn q v) s = .next (s.onQueue q fun x => { x with tail := bitsOf v 31 0 })) ∧
        (hq.takes (bitsOf v 31 0) = false → exec (.qtailDoorbell fn q v) s =
          .next (s.errorRecord 3 22 18 0xFFFFFFFF (0x100000 + 64 * q + 0x18) (bitsOf v 31 0 + fn * 2 ^ 32)))) ∧
      (bitOf hq.cfg 16 = true → bitOf v 16 = true → exec (.qcfgWrite 0 q v) s = .next s) ∧
      (bitOf hq.cfg 16 = true → bitOf v 16 = false →
        exec (.qcfgWrite 0 q v) s = .next (s.onQueue q fun x => { x with cfg := x.cfg &&& ~~~0x10000 })) ∧
      (bitOf hq.cfg 16 = false → bitOf v 16 = false →
        exec (.qcfgWrite 0 q v) s = .next (s.onQueue q fun x => { x with cfg := new })) ∧
      (bitOf hq.cfg 16 = false → bitOf v 16 = true → bitsOf v 3 0 < 4 → exec (.qcfgWrite 0 q v) s = .next s) ∧
      (bitOf hq.cfg 16 = false → bitOf v 16 = true → 4 ≤ bitsOf v 3 0 → ∃ t, exec (.qcfgWrite 0 q v) s = .next t ∧
        nth HostQueue.initial t.q.host q = { hq with cfg := new, wait := none, shown := bitsOf v 29 24 } ∧
        (s.fab.hostUp = true → t.q.held = false))) ∧
    (s.fab.joined = false → bitsOf v 39 32 ≤ 64 →
      exec (.fabcfgWrite v) s = .next { s with fab := { s.fab with cfg := v &&& 0xFF1FFFFFFF } }) ∧
    (s.fab.joined = true ∨ 64 < bitsOf v 39 32 → exec (.fabcfgWrite v) s = .next s) ∧
    (∃ t, exec (.mcdataWrite v) s = .next t ∧ { t with fab := { t.fab with groups := s.fab.groups } } = s ∧
      ∀ i, lookupD 0 t.fab.groups i = if i = bitsOf s.fab.mcidx 16 0 then v &&& 0x101FFFFFF else lookupD 0 s.fab.groups i) ∧
    (6 ≤ bitsOf v 4 0 → bitsOf v 4 0 ≤ 20 →
      exec (.errcfgWrite v) s = .next { s with mg := { s.mg with errcfg := v &&& 0x1F } }) ∧
    (bitsOf v 4 0 < 6 ∨ 20 < bitsOf v 4 0 → exec (.errcfgWrite v) s = .next s) ∧
    (∃ t, exec (.errlostClear v) s = .next t ∧ { t with mg := { t.mg with errlost := s.mg.errlost } } = s ∧
      ∀ i, t.mg.errlost.testBit i = (decide (i < 32) && s.mg.errlost.testBit i && !v.getLsbD i)) ∧
    (∃ t, exec (.mstatReasonClear v) s = .next t ∧ { t with mg := { t.mg with reason := s.mg.reason } } = s ∧
      ∀ i, t.mg.reason.testBit i = (decide (i < 8) && s.mg.reason.testBit i && !v.getLsbD (16 + i))) ∧
    (∀ fn < 64, exec (.registerWrite fn 0x4000 v) s = .next (s.onFn fn fun f => { f with troot := v &&& ~~~0x7FFE }) ∧
      exec (.registerWrite fn 0x4008 v) s = .next (s.onFn fn fun f => { f with fqbase := v &&& ~~~0xFFF }) ∧
      exec (.registerWrite fn 0x4030 v) s = .next (s.onFn fn fun f => { f with tinvva := v &&& 0x01FFFFFFFFFF0000 }) ∧
      exec (.registerWrite fn 0x8008 v) s = .next s) ∧
    exec (.registerWrite 0 0xC000 v) s = .next { s with mg := { s.mg with errbase := v &&& ~~~0xFFF } } ∧
    exec (.registerWrite 0 0xC018 v) s = .next { s with mg := { s.mg with errhead := bitsOf v 31 0 } } ∧
    exec (.registerWrite 0 0x8018 v) s = .next { s with fab := { s.fab with expbase := v &&& ~~~0xFFFF } } ∧
    (∀ (pa : Nat) (data : List Byte), pa + data.length ≤ 2 ^ 40 → 0 < data.length → pa % 128 + data.length ≤ 128 →
      (pa / 2 ^ 36 % 16 < 12 → exec (.bar2Write pa data) s = .next (s.agentWrite (.dram pa) data 0 0 .none).1) ∧
      (12 ≤ pa / 2 ^ 36 % 16 → exec (.bar2Write pa data) s = .next s)) ∧
    (∀ pa n : Nat, pa + n ≤ 2 ^ 40 → 0 < n → pa % 128 + n ≤ 128 →
      (pa / 2 ^ 36 % 16 < 12 → s.m.poisoned .home (.dram pa) n = false → exec (.bar2Read pa n) s =
        .next { s with outbox := s.outbox ++ [.bar2 ((upFrom pa n).map s.byteAt) []] }) ∧
      (pa / 2 ^ 36 % 16 < 12 → s.m.poisoned .home (.dram pa) n = true → exec (.bar2Read pa n) s =
        .next { s with outbox := s.outbox ++ [.bar2 ((upFrom pa n).map s.byteAt)
          ((upFrom 0 n).filter fun i => s.m.poisoned .home (.dram (pa + i)) 1), .aer] }) ∧
      (12 ≤ pa / 2 ^ 36 % 16 → exec (.bar2Read pa n) s =
        .next { s with outbox := s.outbox ++ [.bar2 (List.replicate n 0xFF) []] })) ∧
    (s.fab.hostUp = true → s.fab.remote = [] → s.cmds = [] → ∃ t, exec .hostSurpriseDown s = .next t ∧
      t.fab.hostUp = false ∧ t.q.held = true ∧ (∀ q ∈ t.q.host, bitOf q.cfg 16 = false) ∧ (∀ l ∈ t.launches, l.phase ≠ .running)) ∧
    exec .hostLinkTrained s = .next { s with fab := { s.fab with hostUp := true } } ∧
    (∀ fn t, fn < 64 → exec (.registerWrite fn 0x4008 v) s = .next t → t.readReg fn 0x4008 = v &&& ~~~0xFFF) ∧
    (∀ fn, s.readReg fn 0x4028 = 0 ∧ s.readReg fn 0x4038 = 0 ∧
      (fn ≠ 0 → s.readReg fn 0x8008 = 0 ∧ s.readReg fn 0xC000 = 0 ∧
        ∀ q < 64, (nth HostQueue.initial s.q.host q).shown ≠ fn → ∀ i < 64, s.readReg fn (0x100000 + 64 * q + i) = 0)) ∧
    (∀ iova n : Nat, s.atsUsed (hostCovers iova n) = false → ∃ t, exec (.atsInvalidationRequest iova n) s = .next t ∧
      t.outbox = s.outbox ++ [.atsDone iova n] ∧ (iova, n) ∉ t.fab.ats)

/-- R8, R418, R419, R422, R424, R425, R427, R428: the management requests that nothing keeps waiting, their responses, and
what they change; sparing of cores and rows, counts of corrected errors, poison. A KEYERASE writes back and drops what is cached
under the key, empties the slot, and is answered once nothing uses the key.
The model's choices in it: log 21 (statuses that the manual does not give, an authenticated session as part of KEYSET), log 47
(constants of the part), log 71 (cores of saved launches). -/
def Obligations.ManagementRequestsAndSparing : Prop :=
  ∀ s : State, s.mg.fatal = false → s.mg.quiescing = false → s.mg.erasing = none →
    let answers := fun (s : State) (code status : Nat) (body : List Nat) => { s with outbox := s.outbox ++ [.mctp code status body] }
    exec .getstat s = .next (answers s 1 0 [s.mg.mstat, s.mg.reason]) ∧
    exec .counters s = .next (answers s 10 0 (s.mg.soft.flatMap fun p => [p.1 / 64, p.1 % 64, p.2])) ∧
    (∃ t, exec .quiesce s = .next t ∧ t.q.stopped = true ∧ t.mg.quiescing = true ∧ ∀ l ∈ t.launches, l.phase ≠ .running) ∧
    exec .resume s = .next (answers { s with q := { s.q with stopped := false }, mg := { s.mg with quiesced := false } } 3 0 []) ∧
    (∀ core, (core < 256 → core ∉ s.mg.absent → ∃ t, exec (.retire core) s = .next (answers t 4 0 []) ∧ core ∈ t.mg.marked ∧
        { t with mg := { t.mg with marked := s.mg.marked } } = s) ∧
      (256 ≤ core ∨ core ∈ s.mg.absent → exec (.retire core) s = .next (answers s 4 1 []))) ∧
    (∀ port, (port < 48 → (s.port port).state = 0 → exec (.porten port) s =
        .next (answers (s.onPort port fun x => { x with state := 1, failed := 0 }) 5 0 [])) ∧
      (48 ≤ port ∨ (s.port port).state ≠ 0 → exec (.porten port) s = .next (answers s 5 1 []))) ∧
    (∀ (slot : Nat) (key : KeyLoad), (8192 ≤ slot ∨ 2 ^ 512 ≤ key.pair → exec (.keyset slot key) s = .next (answers s 6 1 [])) ∧
      (slot < 8192 → key.pair < 2 ^ 512 →
        (slot ≠ 0 ∧ (∀ k ∈ s.mg.keySlots, k.1 ≠ slot) ∧ key.session = true → exec (.keyset slot key) s =
          .next (answers { s with mg := { s.mg with keySlots := (slot, key.pair) :: s.mg.keySlots } } 6 0 [])) ∧
        (slot = 0 ∨ (∃ k ∈ s.mg.keySlots, k.1 = slot) ∨ key.session = false →
          exec (.keyset slot key) s = .next (answers s 6 3 [])))) ∧
    (exec (.keyerase 0) s = .next (answers s 7 3 [])) ∧
    (∀ slot, 0 < slot → slot < 8192 →
      ((∀ k ∈ s.mg.keySlots, k.1 ≠ slot) → exec (.keyerase slot) s = .next (answers s 7 0 [])) ∧
      ((∃ k ∈ s.mg.keySlots, k.1 = slot) → let id := s.keyId slot
        (s.m.outs = [] → ∃ t, exec (.keyerase slot) s = .next t ∧ (∀ a ∈ t.m.l1, a.key ≠ id) ∧ ∀ a ∈ t.m.l2, a.key ≠ id) ∧
        (s.keyCached id = false → ∃ t, exec (.keyerase slot) s = .next t ∧ (∀ k ∈ t.mg.keySlots, k.1 ≠ slot) ∧
          (∀ e ∈ t.x.tlb, e.leaf.key ≠ id) ∧
          (s.keyUsed id = true → t.mg.erasing = some (slot, id) ∧ t.outbox = s.outbox) ∧
          (s.keyUsed id = false → t.mg.erasing = none ∧ t.outbox = s.outbox ++ [.mctp 7 0 []])))) ∧
    (∀ nonce : List Byte, nonce.length = 32 → 1 < s.mg.signatures → ∃ report, exec (.attest nonce) s =
      .next (answers { s with mg := { s.mg with signatures := s.mg.signatures - 1 } } 8 0 report)) ∧
    (∀ version digest, (Config.minFirmware ≤ version → exec (.fwload version digest true) s =
        .next (answers { s with mg := { s.mg with staged := some (version, digest) } } 9 0 [])) ∧
      (version < Config.minFirmware → exec (.fwload version digest true) s = .next (answers s 9 3 [])) ∧
      exec (.fwload version digest false) s = .next (answers s 9 3 [])) ∧
    (∀ core, core ∈ s.mg.marked → s.placedOn core = false → ∃ t, exec (.coreRetirement core) s = .next t ∧
      core ∉ t.mg.marked ∧
      (∀ n, nth 0 s.mg.spares (core / 64) = n + 1 → t.mg.spares = setNth 0 s.mg.spares (core / 64) n ∧ t.mg.absent = s.mg.absent) ∧
      (nth 0 s.mg.spares (core / 64) = 0 → t.mg.absent = s.mg.absent ++ [core] ∧ t.mg.spares = s.mg.spares)) ∧
    (∀ stack row, stack < 12 → (stack, row) ∉ s.mg.rowCopies →
      (s.mg.rowsMapped.filter fun p => p.1 == stack).length + (s.mg.rowCopies.filter fun p => p.1 == stack).length < 1023 →
      exec (.hbmRowRemap stack row 0) s = .next { s with mg := { s.mg with rowCopies := s.mg.rowCopies ++ [(stack, row)] } }) ∧
    (∀ stack row, (stack, row) ∈ s.mg.rowCopies → ∃ t, exec (.rowRemapComplete stack row) s = .next t ∧
      (stack, row) ∉ t.mg.rowCopies ∧ t.mg.rowsMapped = s.mg.rowsMapped ++ [(stack, row)] ∧ t.m = s.m) ∧
    (∀ struct die, (1 ≤ struct ∧ struct ≤ 10 ∧ die ≤ 22 → ∃ t, exec (.correctedError struct die none) s = .next t ∧
        lookupD 0 t.mg.soft (64 * struct + die) = Nat.min (lookupD 0 s.mg.soft (64 * struct + die) + 1) (2 ^ 32 - 1)) ∧
      (struct = 0 ∨ 10 < struct ∨ 22 < die → exec (.correctedError struct die none) s = .next s)) ∧
    (∀ pa, paOk pa = true → (∀ w ∈ s.cairn.wls, w.bound = none) → ∃ t, exec (.uncorrectableMemoryError pa) s = .next t ∧
      pa / 32 ∈ t.m.poison ∧ ∀ x ∈ s.m.poison, x ∈ t.m.poison)

/-- R419, R425, R426, R429: a QUIESCE is answered once the device is quiet; power, temperature and coolant change the clock or
REASON; a fatal error, whatever its operands, sets MSTAT.FATAL and begins the dump with its time and record, whose completion
raises MSI-X vector 1; after it RESUME and QUIESCE are answered with status 3; a module reset brings the module up with FTIME 0,
READY set and nothing running, and keeps the rows that are remapped.
The model's choices in it: log 21 (status 3 after any fatal error, the code 0 of its notice), log 27 (what a module reset keeps),
log 28 and log 72 (the dump), log 46 (clocks rise by a step). -/
def Obligations.FatalErrorsPowerAndReset : Prop :=
  ∀ s : State,
    (s.mg.quiescing = true → s.quietDevice = true → ∃ t, exec .quiesceComplete s = .next t ∧ t.mg.quiesced = true ∧
      t.mg.quiescing = false ∧ t.outbox = s.outbox ++ [.mctp 2 0 []]) ∧
    exec (.packagePowerLimit true) s = .next { s with mg := { s.mg with clock := Nat.max 1000 (s.mg.clock - 100) } } ∧
    exec (.packagePowerLimit false) s = .next { s with mg := { s.mg with clock := Nat.min 2500 (s.mg.clock + 100) } } ∧
    (∀ d, exec (.dieTemperatureLimit d) s = .next { s with mg := { s.mg with clock := Nat.max 1000 (s.mg.clock - 100) } }) ∧
    (∃ t, exec .coolantOutOfRange s = .next t ∧ t.mg.reason.testBit 6 = true ∧
      (∀ i, i ≠ 6 → t.mg.reason.testBit i = s.mg.reason.testBit i) ∧ { t with mg := { t.mg with reason := s.mg.reason } } = s) ∧
    (∀ (i : Instr) (unit struct addr detail : Nat),
      (i = .fatalError unit struct addr detail ∧ struct ≤ 10) ∨
      (struct = 0 ∧ ∃ x, 10 < x ∧ i = .fatalError unit x addr detail) ∨
      (i = .powerTrip ∧ unit = 22 ∧ struct = 0 ∧ addr = 0 ∧ detail = 0) ∨
      (i = .thermalTrip unit ∧ struct = 0 ∧ addr = 0 ∧ detail = 0) → ∃ t, exec i s = .next t ∧ t.mg.fatal = true ∧
        (s.mg.fatal = false → t.mg.dump = some ⟨s.ftime, recordOf s.ftime 2 unit struct noCore addr detail, false, []⟩ ∧
          t.mg.quiescing = false ∧ (s.mg.quiescing = true → Out.mctp 2 3 [] ∈ t.outbox)) ∧
        (s.mg.fatal = true → t = s)) ∧
    (∀ (d : Dump) (ps : List Nat), s.mg.dump = some d → d.written = false → ∃ t, exec (.fatalDumpComplete ps) s = .next t ∧
      t.mg.dump = some { d with written := true, partial_ := ps } ∧ t.outbox = s.outbox ++ [.msix 0 1, .mctp 0 0 []]) ∧
    (∀ cores, ∃ t, exec (.moduleReset cores) s = .next t ∧ t.mg.ready = true ∧ t.mg.fatal = false ∧ t.ftime = 0 ∧
      t.fibres = [] ∧ t.launches = [] ∧ t.m.mem = [] ∧ t.mg.rowsMapped = s.mg.rowsMapped ∧ t.fab.hostUp = true) ∧
    (s.mg.fatal = true → exec .resume s = .next { s with outbox := s.outbox ++ [.mctp 3 3 []] } ∧
      exec .quiesce s = .next { s with outbox := s.outbox ++ [.mctp 2 3 []] })

/-- R317 to R327, R330, R411: a gather command that reads rows is split so that every position is failed or in one row of one
part; a part whose bytes lie here is served, the liveness words of its rows being read first; a SCADD contribution whose
turn it is is added to its row and the next number is due; a command without release whose job has nothing left at the homes
writes its data and mask, settles, and posts GATHER_FAILED where it is asked for; a grant of amounts in granules is noted and the
queues are looked at; a request for granules takes them from the calendar, or none where the share is 0, and waits where there is
no room; a packet that is not one to take changes nothing.
The model's choices in it: log 6 (the size of a compressed block), log 37 (contributions to peers), log 74 (what the spec does not
say of gather commands). -/
def Obligations.GathersAreServedAndMerged : Prop :=
  ∀ (s : State) (c : Cmd) (a : GatherAsk), s.cmd? c.uid = some c → c.gather = some a → c.engine = 2 →
    (c.state = .accepted → c.ord % 2 = 0 → s.job? c.uid = none → c.form < 3 → 0 < descField a.desc 22 1 →
      ∃ t j, exec (.gatherSplit c.uid) s = .next t ∧ t.gat = { s.gat with jobs := s.gat.jobs ++ [j] } ∧ j.cmd = c.uid ∧
        j.refused = [] ∧ ∀ i < a.list.length,
          (descField a.desc 12 4 ≤ nth 0 a.list i → i ∈ j.failed) ∧
          (i ∈ j.failed ∨ ∃ p ∈ j.parts, ∃ r ∈ p.rows, i ∈ r.poss ∧ r.row = nth 0 a.list i)) ∧
    (∀ (j : GJob) (p : GPart), s.job? c.uid = some j → (j.parts.find? fun x => x.home == p.home) = some p → p.stage = 0 →
      s.fab.remote = [] → (∀ r ∈ p.rows, (∀ q ∈ r.pieces.getD [], q.place.away = false) ∧
        ∀ q, r.live = some q → q.place.away = false) →
      exec (.msePartService c.uid p.home) s = .next (s.servePart c a
        { p with stage := 2, rows := p.rows.map fun r => { r with alive := s.rowLive c a p.die r } })) ∧
    (∀ (x : Contrib) (p : Piece) (pa latency : Nat), (s.gat.contribs.find? fun y => y.uid == x.uid) = some x → x.peer = none →
      x.lost = false → x.cmd = c.uid → x.add = true → x.pieces = [p] → p.place = .dram pa →
      x.bytes.length = p.n → s.m.poisoned .home (.dram pa) p.n = false →
      let key := seqKey x.core none x.die
      lookupD 0 s.gat.applied key = x.seq →
      let old := s.m.homeNewest .home (Place.dram pa).line p.leaf.key (Place.dram pa).off p.n
      let new := ((words32 (p.n / 4) old).zip (words32 (p.n / 4) x.bytes)).flatMap fun e =>
        bytesLE 4 (fp32.addR .rne e.1 e.2).1
      ∃ t lat, exec (.scaddContributionApply x.uid latency) s = .next t ∧
        t.m = (s.agentWrite (.dram pa) new p.leaf.key lat .none .none [] (s.packFor p.leaf p.va p.n)).1.m ∧
        (∀ y ∈ t.gat.contribs, y.uid ≠ x.uid) ∧ lookupD 0 t.gat.applied key = (x.seq + 1) % 2 ^ 32) ∧
    (∀ (j : GJob) (tm : Team) (f : Fibre) (o : Nat), s.job? c.uid = some j → s.jobServed j = true → c.state = .accepted →
      c.ord < 2 → c.missed = false → s.fab.remote = [] → j.rerr = false → c.dst = .spad c.issuer.team o →
      s.team? c.issuer.launch c.issuer.team = some tm → s.fibre? c.issuer = some f → f.status ≠ .ended →
      (∀ x ∈ c.gSpans a false, ∀ k ∈ chunksOf x.1 x.2, ∀ ch, tm.chunk? k = some ch → ch.filled = true) →
      let sb := nth 0 c.regs 1
      let data := tm.spadWrite (gData sb) (gDataOut c a j)
      ∃ t, exec (.gatherMerge c.uid) s = .next t ∧ t.cmd? c.uid = none ∧ t.job? c.uid = none ∧
        t.team? c.issuer.launch c.issuer.team =
          some (if gMask sb = 0xFFFFF then data else data.spadWrite (gMask sb) (gMaskOut a j)) ∧
        t.fibre? c.issuer = some (if gT sb = true ∧ j.failed ≠ [] then
          { f with posted := f.posted ++ [⟨0x0E, c.ticket, s.ftime⟩] } else f)) ∧
    (∀ (head : PktHead) (gs : List (Nat × Nat)),
      (s.takesHead head = true → c.queued = true → (s.peersCharged c).contains head.src = true → (∀ g ∈ c.grants, g.1 ≠ head.src) →
        exec (.gatherGrant c.uid head gs) s =
          .next (s.onCmd c.uid fun c => { c with grants := c.grants ++ [(head.src, gs)] }).pump) ∧
      (s.takesHead head = false → exec (.gatherGrant c.uid head gs) s = .next s)) ∧
    (∀ (head : PktHead) (bytes : Nat), (s.takesHead head = false → exec (.gatherGrantRequest head bytes) s = .next s) ∧
      (s.takesHead head = true → s.fab.inboundWaits = [] →
        let share := bitsOf s.fab.cfg 39 32 * 65536
        let room := fun g => share - lookupD 0 s.fab.inbound g
        let now := s.fab.inbound.filter fun p => decide (s.ftime / Config.granule ≤ p.1)
        (∀ adds, 0 < share → placeIn' room (s.granulesFrom s.ftime) bytes = (adds, 0) →
          ∃ t, exec (.gatherGrantRequest head bytes) s = .next t ∧ t.outbox = s.outbox ++ [.grant head.src adds] ∧
            t.fab.inboundWaits = [] ∧ t.fab.inbound = adds.foldl (fun u a => putNat u a.1 (lookupD 0 u a.1 + a.2)) now) ∧
        (∀ adds left, 0 < share → placeIn' room (s.granulesFrom s.ftime) bytes = (adds, left + 1) →
          exec (.gatherGrantRequest head bytes) s =
            .next { s with fab := { s.fab with inboundWaits := [(head.src, bytes)] } }) ∧
        (share = 0 → ∃ t, exec (.gatherGrantRequest head bytes) s = .next t ∧ t.outbox = s.outbox ++ [.grant head.src []] ∧
          t.fab.inboundWaits = [] ∧ t.fab.inbound = now)))

/-- R339 to R345, R359 to R362: an MMA reads the units of its B slice and block scale that it has not read yet at free times before
it acts, wherever it stands; the first queue entry of its tile takes effect and leaves the queue: ACCZ makes every element
zero, ACCLD loads, an MMA acts on its tile with what it has read, a DRAIN writes out and its fibre waits for the writes; the head of
the FIFO is granted the lowest free banks, zeroed, and its fibre receives their mask.
The model's choices in it: log 6 and log 40 (when the bytes of the B slice are read). -/
def Obligations.MatrixEntriesTakeEffect : Prop :=
  (∀ (s : State) (e : MatEntry) (fn k0 n0 : Nat) (rows : List (Nat × List Word)) (sa : List (Nat × W32)) (got : List (Option Byte))
      (t : Team), (s.mat.queue.find? fun x => x.uid == e.uid) = some e → e.op = .mma fn rows sa k0 n0 got → none ∈ got →
    s.team? e.launch e.team = some t → ((sliceSpans e.desc fn k0 n0).findSome? fun p => t.boundChunk p.1 p.2) = none →
    let now := t.spanBytes (sliceSpans e.desc fn k0 n0)
    got.length = now.length → ∃ u read, exec (.matrixQueueEntryComplete e.uid) s = .next u ∧
      u.mat.queue = (s.mat.queue.map fun x => if x.uid = e.uid then { e with op := .mma fn rows sa k0 n0 read } else x) ∧
      { u with fresh := s.fresh, mat := { u.mat with queue := s.mat.queue } } = s ∧ read.length = got.length ∧
      ∀ i < got.length, (∀ b, nth none got i = some b → nth none read i = some b) ∧
        (nth none got i = none → nth none read i = none ∨ nth none read i = some (nth 0 now i))) ∧
  ∀ (s : State) (e : MatEntry), (s.mat.queue.find? fun x => x.uid == e.uid) = some e → s.mat.first e = true →
    let goes := fun (m : MatState) => exec (.matrixQueueEntryComplete e.uid) s = .next ({ s with mat := m }.dropEntry e)
    (e.op = .accz → goes (s.mat.clearTile e) ∧ (e.width % 16 = 0 → ∀ r c, r < 16 → c < e.width →
      (s.mat.clearTile e).at_ (e.elem r c) = ⟨0, 0, false⟩)) ∧
    (∀ bs, e.op = .accld (some bs) → goes (s.mat.load e bs)) ∧
    (∀ fn rows sa k0 n0 bs t, e.op = .mma fn rows sa k0 n0 (bs.map some) → s.team? e.launch e.team = some t →
      goes (s.mat.mma e fn rows sa bs)) ∧
    (∀ k f d mx m0 n0 z leaves, e.op = .drain k d mx m0 n0 z leaves → s.fibre? k = some f →
      (f.status = .blocked (.drain e.uid d) → exec (.matrixQueueEntryComplete e.uid) s =
        .next (s.runDrain e k d mx m0 n0 z leaves)) ∧
      (∀ c, f.status = .blocked (.drained d c) → s.writesOut k = false → exec (.matrixQueueEntryComplete e.uid) s =
        .next ((s.setFibre { f.writeG d (BitVec.ofNat 64 c) with status := .eligible, age := s.ftime }).dropEntry e))) ∧
    (∀ (r : AbReq) (f : Fibre) (rest : List AbReq), s.mat.abFifo = r :: rest → s.fibre? r.fibre = some f →
      r.n ≤ (s.mat.freeBanks r.core).length →
      let banks := (s.mat.freeBanks r.core).take r.n
      ∃ t, exec (.aballocGrant r.core) s = .next t ∧ t.mat.abFifo = (r :: rest).filter (fun x => decide (x ≠ r)) ∧
        t.mat.holds = s.mat.holds ++ [⟨r.core, r.fibre.launch, r.fibre.team, banks, false⟩] ∧
        (∀ b ∈ banks, ∀ i < 4096, t.mat.at_ ((r.core * 16 + b) * 4096 + i) = ⟨0, 0, false⟩) ∧
        t.fibre? r.fibre = some { f.writeG r.d (BitVec.ofNat 64 (bankMask banks)) with status := .eligible, age := s.ftime })

/-- R76, R77, R78, R94, R97, R99, R223, R225, R232: what arrives in the memory pipe: a write gets a GWCT that is after every
lease of its line, and when it has passed its bytes are the memory's; a replicated one is stamped and pending at all four
replicas; an atomic acts on the newest bytes at its home; a miss is filled with what is supplied, behind the older entries of its
line; the merge window of a line closes after 8 ticks; scratchpad stores of rope-mates and fills of chunks take effect.
The model's choices in it: log 4 (write latencies), log 43 (when the window closes), log 44 (poison). -/
def Obligations.TheMemoryPipeGoesOn : Prop :=
  ∀ s : State,
    (∀ (p : Pending) (pa : Nat), p ∈ s.m.pend → (∀ q ∈ s.m.pend, q.uid = p.uid → q = p) → p.level = .home → p.line = .dram pa →
      p.full ≤ s.ftime → (s.m.pendingAt .home p.line).head? = some p → (p.bytes.map (·.1)).Nodup → s.m.mem.wf = true →
      ∃ t, exec (.gwctPassed p.uid) s = .next t ∧ p ∉ t.m.pend ∧ t.m.mem.wf = true ∧
        (∀ x ∈ p.bytes, memGet t.m.mem (pa + x.1) = x.2 ∧ t.m.keyAt (pa + x.1) = p.key) ∧
        (∀ y, (∀ x ∈ p.bytes, pa + x.1 ≠ y) → s.m.keyAt y = p.key → memGet t.m.mem y = memGet s.m.mem y) ∧
        (∀ y, (∀ x ∈ p.bytes, (pa + x.1) / 32 ≠ y / 32) → memGet t.m.mem y = memGet s.m.mem y ∧ t.m.keyAt y = s.m.keyAt y) ∧
        { t with m := s.m } = s) ∧
    (∀ (o : OutWrite) (pa latency : Nat), (s.m.outs.find? fun x => x.uid == o.uid) = some o → s.mayArrive o = true →
      s.fab.remote = [] → o.level = .home → o.line = .dram pa → (∀ b ∈ o.bytes, b.1 < 128) → s.blockMate o = none →
      ∃ g, exec (.writeArrival o.uid latency) s = .next (((s.land o .home g).dropOut o.uid).giveGwct o g) ∧
        s.ftime + Nat.min latency 10000 ≤ g ∧
        ((s.m.horizon .home o.line).1 ≠ 0 → (s.m.horizon .home o.line).1 +
          (if s.ftime < (s.m.horizon .home o.line).2 then Config.guardFabric else Config.guardLocal) ≤ g) ∧
        ∀ q ∈ s.m.pendingAt .home o.line, q.gwct ≤ g) ∧
    (∀ (o : OutWrite) (pa latency : Nat), (s.m.outs.find? fun x => x.uid == o.uid) = some o → s.mayArrive o = true →
      o.level = .home → o.line = .repl pa → ∃ t, exec (.replicatedWriteSequence o.uid latency) s = .next t ∧
        t.m.stamp = s.m.stamp + 1 ∧ (∀ x ∈ t.m.outs, x.uid ≠ o.uid) ∧
        ∀ d < 4, ∃ q ∈ t.m.pend, q.uid = o.uid ∧ q.level = .replica d ∧ q.line = o.line ∧ s.ftime + Nat.min latency 10000 ≤ q.gwct) ∧
    (∀ (a : AtomReq) (pa latency : Nat), (s.m.atoms.find? fun x => x.uid == a.uid) = some a → a.at_ = .level .home (.dram pa) →
      a.remote = false → s.m.inFlight a.core (Place.dram pa).line a.ord = false → s.m.poisoned .home (.dram pa) a.width = false →
      exec (.atomicExecution a.uid latency) s = .next (s.atomAtLevel a .home (.dram pa)
        (natLE (s.m.homeNewest .home (Place.dram pa).line a.key (Place.dram pa).off a.width)) (Nat.min latency 10000))) ∧
    (∀ (e : Mshr) (lease : Nat) (s1 : State) (x : Supply), (s.m.mshrs.find? fun y => y.uid == e.uid) = some e →
      s.m.inFlight e.core e.line s.uid = false → e.remoteReq = none →
      (s.m.olderEntry e = true → exec (.l1Fill e.uid lease) s = .next s) ∧
      (s.m.olderEntry e = false → s.gone e.line = false → s.supply e.core e.line e.key lease = some (s1, x) →
        exec (.l1Fill e.uid lease) s = .next (s1.fill e lease x (s.badOffs e.core e.line)))) ∧
    (∀ (core : Nat) (o : OutWrite), (s.m.outs.find? fun o => o.core == core && o.open_) = some o →
      (s.ftime ≤ o.born + 8 → exec (.writeMergeWindow core) s = .next s) ∧
      (o.born + 8 < s.ftime → ∃ t, exec (.writeMergeWindow core) s = .next t ∧
        { t with m := { t.m with outs := s.m.outs } } = s ∧
        ∀ x ∈ t.m.outs, x.core = core → x.line = o.line → x.open_ = true → o.born + 8 < x.born)) ∧
    (∀ a : SpadReq, (s.m.spads.find? fun x => x.uid == a.uid) = some a → s.m.spadFirst a.fibre a.launch a.team a.uid = true →
      a.load = none → ∃ t, exec (.remoteScratchpadAccess a.uid) s = .next t ∧
        t.teams = (s.onTeam a.launch a.team fun t => t.spadWrite a.off a.bytes).teams ∧ (∀ x ∈ t.m.spads, x.uid ≠ a.uid) ∧
        ∀ f, s.fibre? a.fibre = some f → t.fibre? a.fibre = some { f with gwmax := Nat.max f.gwmax (s.ftime + 4) }) ∧
    (∀ (t : Team) (c : Chunk) (k : FKey) (leaf : Leaf) (bs : List Byte), s.team? t.launch t.idx = some t → t.chunk? c.idx = some c →
      c.fill = some k → c.leaf = some leaf → s.gone (placeIn leaf c.va) = false →
      s.chunkBytes (dieOfCore t.core) leaf c.va = some bs →
      (∀ x ∈ chunkLines leaf c.va, s.m.poisoned (homeLevel x.2 (dieOfCore t.core)) x.2 128 = false ∧ x.2.line ∉ s.fab.farBad) →
      exec (.chunkFillComplete t.launch t.idx c.idx) s = .next ((s.onTeam t.launch t.idx fun t =>
        { t with spad := memWrite t.spad (4096 * c.idx) bs, bad := t.badAfter (4096 * c.idx) bs.length [] }.setChunk { c with filled := true, fill := none, written := [] }).dropFar
          ((chunkLines leaf c.va).map fun x => x.2.line)))

/-- R400, R404 to R408, R412: flits that are intact and in sequence on a port that is up are taken, others change nothing; flits
that were not acknowledged are sent again in order; an idle flit leaves a port that has sent nothing for 400 ticks, and a
time-sync flit one that has sent none for 25,000; a port retrains, comes up on the lanes it has, or is down; a flow moves
after FLOWGAP, which is no less than 1,250 and than the difference of any two paths plus 64; one link between dies that fails is
noted and loses no die.
The model's choices in it: log 13 (flits are messages), log 24 (the meaning of ACK), log 25 (links between dies), log 36 (loss
of every port), log 48 (the latencies of paths, the port that a flow moves to). -/
def Obligations.TheFabricGoesOn : Prop :=
  ∀ (s : State) (p : Nat), p < 48 →
    let x := s.port p
    (∀ fl : Flit,
      let good := x.state = 2 ∧ flitIntact fl = true ∧ fl.seq % 4096 = x.rxSeq
      let taken := fun (t : State) => (t.port p).rxSeq = (x.rxSeq + 1) % 4096 ∧ (t.port p).credit = fl.credit % 16 ∧
        (t.port p).acked = fl.ack % 4096 ∧ (∀ q, q ≠ p → t.port q = s.port q) ∧ { t with fab := s.fab } = s
      (good → (fl.typ = 1 → ∃ t, exec (.packetDataFlit p fl) s = .next t ∧ taken t ∧ (t.port p).rx = fl.payload) ∧
        (fl.typ = 3 → ∃ t, exec (.controlFlit p fl) s = .next t ∧ taken t ∧ (t.port p).rx = fl.payload) ∧
        (fl.typ = 0 → ∃ t, exec (.idleFlit p fl) s = .next t ∧ taken t ∧ (t.port p).rx = x.rx) ∧
        (fl.typ = 2 → ∀ ft, ∃ t, exec (.timeSyncFlit p fl ft) s = .next t ∧ taken t ∧ (t.port p).rx = fl.payload ∧
          t.fab.ahead = if ft + 16 < s.ftime then s.ftime - ft else 0)) ∧
      (¬ good → exec (.packetDataFlit p fl) s = .next s ∧ exec (.controlFlit p fl) s = .next s ∧
        exec (.idleFlit p fl) s = .next s ∧ ∀ ft, exec (.timeSyncFlit p fl ft) s = .next s)) ∧
    (x.state = 2 → x.retry ≠ [] → ∃ t, exec (.flitReplay p) s = .next t ∧
      t.outbox = s.outbox ++ x.retry.map (fun e => Out.flit p e.1 x.rxSeq e.2.1 x.credit e.2.2) ∧
      (t.port p).replays = Nat.min (x.replays + 1) 65535 ∧ (t.port p).retry = x.retry) ∧
    (x.state = 2 → x.retry.length < 512 →
      (x.lastSent + 400 ≤ s.ftime → ∃ t, exec (.flitIdleTimer p) s = .next t ∧
        t.outbox = s.outbox ++ [.flit p x.txSeq x.rxSeq 0 x.credit (List.replicate 228 0)] ∧
        (t.port p).txSeq = (x.txSeq + 1) % 4096 ∧ (t.port p).lastSent = s.ftime) ∧
      (s.ftime < x.lastSent + 400 → exec (.flitIdleTimer p) s = .next s) ∧
      (s.fab.joined = true → x.lastSync + 25000 ≤ s.ftime → ∃ t, exec (.timeSyncTimer p) s = .next t ∧
        t.outbox = s.outbox ++ [.flit p x.txSeq x.rxSeq 2 x.credit (bytesLE 8 s.ftime ++ List.replicate 220 0)] ∧
        (t.port p).lastSync = s.ftime)) ∧
    (x.state = 2 → ∀ err : Bool, err = true ∨ 16 ≤ (x.replayAt.filter fun t => decide (s.ftime ≤ t + 25000)).length →
      exec (.portRetrain p err) s = .next (s.onPort p fun x =>
        { x with state := 3, retrains := Nat.min (x.retrains + 1) 65535, retrainAt := s.ftime, replayAt := [] })) ∧
    (x.failed = 0 → x.state = 3 → s.ftime ≤ x.retrainAt + 30000 → ∃ t, exec (.retrainComplete p 0) s = .next t ∧
      (t.port p).state = 2 ∧ (t.port p).lanes = 2) ∧
    (x.failed = 0 → x.state = 1 → (∃ t, exec (.portTrainingComplete p 0) s = .next t ∧ (t.port p).state = 2 ∧ (t.port p).lanes = 2) ∧
      ∃ t, exec (.portTrainingComplete p 0x3) s = .next t ∧ (t.port p).state = 2 ∧ (t.port p).lanes = 1) ∧
    (x.state = 2 → s.fab.peers = [] → ∃ t, exec (.lossOfSignal p) s = .next t ∧ (t.port p).state = 0 ∧ (t.port p).retry = []) ∧
    (∀ a b : Nat, a < 4 → b < 4 → a ≠ b → s.fab.cutLinks = [] →
      exec (.d2dLinkFailure a b) s = .next { s with fab := { s.fab with cutLinks := [(a, b)] } }) ∧
    (∀ (peer : Nat) (fl : Flow), x.state = 2 → s.fab.flows = [fl] → fl.sw = p / 24 → fl.peer = peer →
      (fl.last + s.flowgapOf (p / 24) < s.ftime → exec (.flowletGapExpiry (p / 24) peer p) s =
        .next { s with fab := { s.fab with flows := [{ fl with port := p }] } }) ∧
      (s.ftime ≤ fl.last + s.flowgapOf (p / 24) → exec (.flowletGapExpiry (p / 24) peer p) s = .next s)) ∧
    1250 ≤ s.flowgapOf (p / 24) ∧
    (∀ q < 48, q / 24 = p / 24 → x.state = 2 → (s.port q).state = 2 →
      Config.pathLatency p + 64 ≤ Config.pathLatency q + s.flowgapOf (p / 24))

/-- R17, R101, R401, R412, R413, R415: the package joins on a port that is up, with the next incarnation, and its time steps
forward at most, which it cannot once work has begun; a peer's join makes its incarnation the current one; a departure marks
the peer departed and drops the translations of its pages; a packet of another domain or too old is dropped, a request of
another incarnation refused; a load or store of a current peer is served under the export table, a whole block under one GWCT;
a line that was asked for is kept when its reply arrives.
The model's choices in it: log 17 (that line), log 64 (a join after work has begun). -/
def Obligations.ThePackageJoinsAndServesPeers : Prop :=
  ∀ (s : State) (p : Nat), p < 48 →
    let x := s.port p
    (∀ id last ft : Nat, s.fab.joined = false → id < 4096 → x.state = 2 → x ∈ s.fab.ports →
      (s.ftime < ft → s.begun = true → exec (.fabricJoin id last false ft) s = .next s) ∧
      (ft ≤ s.ftime ∨ s.begun = false → ∃ t, exec (.fabricJoin id last false ft) s = .next t ∧ t.fab.id = id ∧
        t.fab.inc = (last + 1) % 256 ∧ t.fab.joined = true ∧ t.ftime = Nat.max s.ftime ft)) ∧
    (∀ peer inc : Nat, s.fab.joined = true → peer ≠ s.fab.id → s.fab.remote = [] →
      (∃ t, exec (.joinNotice peer inc) s = .next t ∧ t.current peer (inc % 256) = true) ∧
      (s.fibres = [] → (∀ w ∈ s.cairn.wls, w.tasks = []) → s.cmds = [] → ∃ t, exec (.departureNotice peer) s = .next t ∧
        t.departed peer = true ∧ ∀ e ∈ t.x.tlb, ∀ a, e.leaf.base ≠ .peer peer a)) ∧
    (∀ r : RemoteReq, s.takesPacket r.domain r.ageTicks = false → exec (.remoteRequest r) s = .next s) ∧
    (∀ r : RemoteReq, s.takesPacket r.domain r.ageTicks = true →
      let replies := fun (s : State) (o : Out) =>
        { s with outbox := s.outbox ++ [o], fab := { s.fab with flows := s.fab.usedFlows r.src s.ftime } }
      (s.current r.src r.inc = false → exec (.remoteRequest r) s = .next (replies s (.reply r.src r.tag [] 0 0 15 []))) ∧
      (∀ frame off n, s.current r.src r.inc = true → r.ask = .load frame off n → (s.exportOf frame false).cls ≠ 0 →
        exec (.remoteRequest r) s = .next (replies s (.reply r.src r.tag [] 0 0 (s.exportOf frame false).cls []))) ∧
      (∀ frame off n, s.current r.src r.inc = true → r.ask = .load frame off n → (s.exportOf frame false).cls = 0 → 0 < n →
        let e := s.exportOf frame false
        let a := Place.dram (e.pa + off)
        a.off + n ≤ 128 → s.m.poisoned .home a n = false → s.m.pendingAt .home a.line = [] →
        ∃ t until_, exec (.remoteRequest r) s = .next t ∧ until_ ≤ s.ftime + Config.leaseMax ∧
          t.outbox = s.outbox ++ [.reply r.src r.tag (s.m.homeBytes s.ftime .home a.line none e.key a.off n) 0 until_ 0 []]) ∧
      (∀ frame off bs bad pack, s.current r.src r.inc = true → r.ask = .store frame off bs bad pack →
        (s.exportOf frame true).cls = 0 →
        let e := s.exportOf frame true
        let whole := off % 256 = 0 ∧ bs.length = 256
        (whole → ∃ t g, s.peerBlock r e.key bad (e.pa + off) bs pack = (t, g) ∧
          exec (.remoteRequest r) s = .next (replies t (.reply r.src r.tag [] g 0 0 []))) ∧
        (¬ whole → ∃ t g,
          s.peerWrite r e.key (bad.map (e.pa + off + ·)) (cutLines (e.pa + off) bs.length) bs s.ftime = (t, g) ∧
          exec (.remoteRequest r) s = .next (replies t (.reply r.src r.tag [] g 0 0 []))))) ∧
    (∀ (op : RemoteOp) (rep : RemoteRep) (line : Place), s.fab.remote = [op] → op.uid = rep.req → op.host = false →
      op.peer = rep.src → s.takesPacket rep.domain rep.ageTicks = true → s.current rep.src rep.inc = true → rep.cls = 0 →
      op.why = .far line →
      exec (.remoteReply rep) s = .next { s with fab := { s.fab with
        remote := [], far := (line, rep.bytes) :: s.fab.far,
        farBad := if rep.bad = [] then s.fab.farBad else line :: s.fab.farBad } })

/-! ### Reset, and what every step keeps -/

/-- The rules that give reset values: right after reset FTIME is 0, there is no launch, team, fibre, batch, command, load
or write on its way, no fatal error, the package is not joined, the flowlet gap is 1,250, TROOT, FQCFG and TINVDONE of the
physical function, ERRBASE, and QHEAD, QTAIL and QCFG of every host queue are 0; memory lists nothing, in its canonical
form, and every byte of HBM reads 0.
The model's choices in it: log 1 (bytes that nothing has written). -/
def Obligations.ResetState : Prop :=
  let s := State.reset
  s.ftime = 0 ∧ s.launches = [] ∧ s.teams = [] ∧ s.fibres = [] ∧ s.batches = [] ∧ s.cmds = [] ∧ s.m.mem = [] ∧
    s.m.mem.wf = true ∧ s.m.pend = [] ∧ s.m.outs = [] ∧ s.m.loads = [] ∧ s.mg.fatal = false ∧ s.fab.joined = false ∧
    s.flowgapOf 0 = 1250 ∧ s.flowgapOf 1 = 1250 ∧ (s.fn 0).troot = 0 ∧ (s.fn 0).fqcfg = 0 ∧ (s.fn 0).tinvdone = 0 ∧ s.mg.errbase = 0 ∧
    (∀ q, (nth HostQueue.initial s.q.host q).head = 0 ∧ (nth HostQueue.initial s.q.host q).tail = 0 ∧
      (nth HostQueue.initial s.q.host q).cfg = 0) ∧ (∀ pa, s.byteAt pa = 0)

/-- Whatever moves next: a step from a state whose memory is in canonical form (addresses strictly rising, no entry that
reads as an unlisted address does) leaves it so.
The model's choices in it: log 1 (an unlisted byte reads 0). -/
def Obligations.EveryStepKeepsMemoryCanonical : Prop :=
  ∀ s t : State, s.m.mem.wf = true → step s = .next t → t.m.mem.wf = true

/-- R426: after a fatal error no engine and no core acts: until a module reset no step changes a fibre, a batch, a command, a
launch, a team or a task, and the module stays fatal.
The model's choices in it: log 21 (which events still happen after a fatal error). -/
def Obligations.AfterAFatalErrorNothingActs : Prop :=
  ∀ s t : State, s.mg.fatal = true → (∀ cores r, s.agenda ≠ .event (.moduleReset cores) :: r) → step s = .next t →
    t.mg.fatal = true ∧ t.fibres = s.fibres ∧ t.teams = s.teams ∧ t.batches = s.batches ∧ t.cmds = s.cmds ∧ t.launches = s.launches ∧
      t.cairn = s.cairn ∧ t.mat = s.mat

end
end

