-- ==== Sys2Proof/Laws/State.lean ====
section
/-! SUPPORT. One lemma per field per update of State and Fibre: what an update leaves alone. -/

namespace Sys2Proof.Machine

@[simp] theorem State.setFibre_ftime (s : State) (f : Fibre) : (s.setFibre f).ftime = s.ftime := rfl
@[simp] theorem State.setFibre_fresh (s : State) (f : Fibre) : (s.setFibre f).fresh = s.fresh := rfl
@[simp] theorem State.setFibre_uid (s : State) (f : Fibre) : (s.setFibre f).uid = s.uid := rfl
@[simp] theorem State.setFibre_agenda (s : State) (f : Fibre) : (s.setFibre f).agenda = s.agenda := rfl
@[simp] theorem State.setFibre_outbox (s : State) (f : Fibre) : (s.setFibre f).outbox = s.outbox := rfl
@[simp] theorem State.setFibre_teams (s : State) (f : Fibre) : (s.setFibre f).teams = s.teams := rfl
@[simp] theorem State.setFibre_launches (s : State) (f : Fibre) : (s.setFibre f).launches = s.launches := rfl
@[simp] theorem State.setFibre_batches (s : State) (f : Fibre) : (s.setFibre f).batches = s.batches := rfl
@[simp] theorem State.setFibre_icache (s : State) (f : Fibre) : (s.setFibre f).icache = s.icache := rfl
@[simp] theorem State.setFibre_cmds (s : State) (f : Fibre) : (s.setFibre f).cmds = s.cmds := rfl
@[simp] theorem State.setFibre_calendars (s : State) (f : Fibre) : (s.setFibre f).calendars = s.calendars := rfl
@[simp] theorem State.setFibre_m (s : State) (f : Fibre) : (s.setFibre f).m = s.m := rfl
@[simp] theorem State.setFibre_x (s : State) (f : Fibre) : (s.setFibre f).x = s.x := rfl
@[simp] theorem State.setFibre_q (s : State) (f : Fibre) : (s.setFibre f).q = s.q := rfl
@[simp] theorem State.setFibre_mat (s : State) (f : Fibre) : (s.setFibre f).mat = s.mat := rfl
@[simp] theorem State.setFibre_gat (s : State) (f : Fibre) : (s.setFibre f).gat = s.gat := rfl
@[simp] theorem State.setFibre_cairn (s : State) (f : Fibre) : (s.setFibre f).cairn = s.cairn := rfl
@[simp] theorem State.setFibre_fab (s : State) (f : Fibre) : (s.setFibre f).fab = s.fab := rfl
@[simp] theorem State.setFibre_mg (s : State) (f : Fibre) : (s.setFibre f).mg = s.mg := rfl

@[simp] theorem State.onFibre_ftime (s : State) (k : FKey) (g : Fibre → Fibre) : (s.onFibre k g).ftime = s.ftime := rfl
@[simp] theorem State.onFibre_fresh (s : State) (k : FKey) (g : Fibre → Fibre) : (s.onFibre k g).fresh = s.fresh := rfl
@[simp] theorem State.onFibre_uid (s : State) (k : FKey) (g : Fibre → Fibre) : (s.onFibre k g).uid = s.uid := rfl
@[simp] theorem State.onFibre_agenda (s : State) (k : FKey) (g : Fibre → Fibre) : (s.onFibre k g).agenda = s.agenda := rfl
@[simp] theorem State.onFibre_outbox (s : State) (k : FKey) (g : Fibre → Fibre) : (s.onFibre k g).outbox = s.outbox := rfl
@[simp] theorem State.onFibre_teams (s : State) (k : FKey) (g : Fibre → Fibre) : (s.onFibre k g).teams = s.teams := rfl
@[simp] theorem State.onFibre_launches (s : State) (k : FKey) (g : Fibre → Fibre) : (s.onFibre k g).launches = s.launches := rfl
@[simp] theorem State.onFibre_batches (s : State) (k : FKey) (g : Fibre → Fibre) : (s.onFibre k g).batches = s.batches := rfl
@[simp] theorem State.onFibre_icache (s : State) (k : FKey) (g : Fibre → Fibre) : (s.onFibre k g).icache = s.icache := rfl
@[simp] theorem State.onFibre_cmds (s : State) (k : FKey) (g : Fibre → Fibre) : (s.onFibre k g).cmds = s.cmds := rfl
@[simp] theorem State.onFibre_calendars (s : State) (k : FKey) (g : Fibre → Fibre) : (s.onFibre k g).calendars = s.calendars := rfl
@[simp] theorem State.onFibre_m (s : State) (k : FKey) (g : Fibre → Fibre) : (s.onFibre k g).m = s.m := rfl
@[simp] theorem State.onFibre_x (s : State) (k : FKey) (g : Fibre → Fibre) : (s.onFibre k g).x = s.x := rfl
@[simp] theorem State.onFibre_q (s : State) (k : FKey) (g : Fibre → Fibre) : (s.onFibre k g).q = s.q := rfl
@[simp] theorem State.onFibre_mat (s : State) (k : FKey) (g : Fibre → Fibre) : (s.onFibre k g).mat = s.mat := rfl
@[simp] theorem State.onFibre_gat (s : State) (k : FKey) (g : Fibre → Fibre) : (s.onFibre k g).gat = s.gat := rfl
@[simp] theorem State.onFibre_cairn (s : State) (k : FKey) (g : Fibre → Fibre) : (s.onFibre k g).cairn = s.cairn := rfl
@[simp] theorem State.onFibre_fab (s : State) (k : FKey) (g : Fibre → Fibre) : (s.onFibre k g).fab = s.fab := rfl
@[simp] theorem State.onFibre_mg (s : State) (k : FKey) (g : Fibre → Fibre) : (s.onFibre k g).mg = s.mg := rfl

@[simp] theorem State.onTeam_ftime (s : State) (l i : Nat) (g : Team → Team) : (s.onTeam l i g).ftime = s.ftime := rfl
@[simp] theorem State.onTeam_fresh (s : State) (l i : Nat) (g : Team → Team) : (s.onTeam l i g).fresh = s.fresh := rfl
@[simp] theorem State.onTeam_uid (s : State) (l i : Nat) (g : Team → Team) : (s.onTeam l i g).uid = s.uid := rfl
@[simp] theorem State.onTeam_agenda (s : State) (l i : Nat) (g : Team → Team) : (s.onTeam l i g).agenda = s.agenda := rfl
@[simp] theorem State.onTeam_outbox (s : State) (l i : Nat) (g : Team → Team) : (s.onTeam l i g).outbox = s.outbox := rfl
@[simp] theorem State.onTeam_fibres (s : State) (l i : Nat) (g : Team → Team) : (s.onTeam l i g).fibres = s.fibres := rfl
@[simp] theorem State.onTeam_launches (s : State) (l i : Nat) (g : Team → Team) : (s.onTeam l i g).launches = s.launches := rfl
@[simp] theorem State.onTeam_batches (s : State) (l i : Nat) (g : Team → Team) : (s.onTeam l i g).batches = s.batches := rfl
@[simp] theorem State.onTeam_icache (s : State) (l i : Nat) (g : Team → Team) : (s.onTeam l i g).icache = s.icache := rfl
@[simp] theorem State.onTeam_cmds (s : State) (l i : Nat) (g : Team → Team) : (s.onTeam l i g).cmds = s.cmds := rfl
@[simp] theorem State.onTeam_calendars (s : State) (l i : Nat) (g : Team → Team) : (s.onTeam l i g).calendars = s.calendars := rfl
@[simp] theorem State.onTeam_m (s : State) (l i : Nat) (g : Team → Team) : (s.onTeam l i g).m = s.m := rfl
@[simp] theorem State.onTeam_x (s : State) (l i : Nat) (g : Team → Team) : (s.onTeam l i g).x = s.x := rfl
@[simp] theorem State.onTeam_q (s : State) (l i : Nat) (g : Team → Team) : (s.onTeam l i g).q = s.q := rfl
@[simp] theorem State.onTeam_mat (s : State) (l i : Nat) (g : Team → Team) : (s.onTeam l i g).mat = s.mat := rfl
@[simp] theorem State.onTeam_gat (s : State) (l i : Nat) (g : Team → Team) : (s.onTeam l i g).gat = s.gat := rfl
@[simp] theorem State.onTeam_cairn (s : State) (l i : Nat) (g : Team → Team) : (s.onTeam l i g).cairn = s.cairn := rfl
@[simp] theorem State.onTeam_fab (s : State) (l i : Nat) (g : Team → Team) : (s.onTeam l i g).fab = s.fab := rfl
@[simp] theorem State.onTeam_mg (s : State) (l i : Nat) (g : Team → Team) : (s.onTeam l i g).mg = s.mg := rfl

@[simp] theorem State.onLaunch_ftime (s : State) (i : Nat) (g : Launch → Launch) : (s.onLaunch i g).ftime = s.ftime := rfl
@[simp] theorem State.onLaunch_fresh (s : State) (i : Nat) (g : Launch → Launch) : (s.onLaunch i g).fresh = s.fresh := rfl
@[simp] theorem State.onLaunch_uid (s : State) (i : Nat) (g : Launch → Launch) : (s.onLaunch i g).uid = s.uid := rfl
@[simp] theorem State.onLaunch_agenda (s : State) (i : Nat) (g : Launch → Launch) : (s.onLaunch i g).agenda = s.agenda := rfl
@[simp] theorem State.onLaunch_outbox (s : State) (i : Nat) (g : Launch → Launch) : (s.onLaunch i g).outbox = s.outbox := rfl
@[simp] theorem State.onLaunch_fibres (s : State) (i : Nat) (g : Launch → Launch) : (s.onLaunch i g).fibres = s.fibres := rfl
@[simp] theorem State.onLaunch_teams (s : State) (i : Nat) (g : Launch → Launch) : (s.onLaunch i g).teams = s.teams := rfl
@[simp] theorem State.onLaunch_batches (s : State) (i : Nat) (g : Launch → Launch) : (s.onLaunch i g).batches = s.batches := rfl
@[simp] theorem State.onLaunch_icache (s : State) (i : Nat) (g : Launch → Launch) : (s.onLaunch i g).icache = s.icache := rfl
@[simp] theorem State.onLaunch_cmds (s : State) (i : Nat) (g : Launch → Launch) : (s.onLaunch i g).cmds = s.cmds := rfl
@[simp] theorem State.onLaunch_calendars (s : State) (i : Nat) (g : Launch → Launch) : (s.onLaunch i g).calendars = s.calendars := rfl
@[simp] theorem State.onLaunch_m (s : State) (i : Nat) (g : Launch → Launch) : (s.onLaunch i g).m = s.m := rfl
@[simp] theorem State.onLaunch_x (s : State) (i : Nat) (g : Launch → Launch) : (s.onLaunch i g).x = s.x := rfl
@[simp] theorem State.onLaunch_q (s : State) (i : Nat) (g : Launch → Launch) : (s.onLaunch i g).q = s.q := rfl
@[simp] theorem State.onLaunch_mat (s : State) (i : Nat) (g : Launch → Launch) : (s.onLaunch i g).mat = s.mat := rfl
@[simp] theorem State.onLaunch_gat (s : State) (i : Nat) (g : Launch → Launch) : (s.onLaunch i g).gat = s.gat := rfl
@[simp] theorem State.onLaunch_cairn (s : State) (i : Nat) (g : Launch → Launch) : (s.onLaunch i g).cairn = s.cairn := rfl
@[simp] theorem State.onLaunch_fab (s : State) (i : Nat) (g : Launch → Launch) : (s.onLaunch i g).fab = s.fab := rfl
@[simp] theorem State.onLaunch_mg (s : State) (i : Nat) (g : Launch → Launch) : (s.onLaunch i g).mg = s.mg := rfl

@[simp] theorem State.onMem_ftime (s : State) (g : MemState → MemState) : (s.onMem g).ftime = s.ftime := rfl
@[simp] theorem State.onMem_fresh (s : State) (g : MemState → MemState) : (s.onMem g).fresh = s.fresh := rfl
@[simp] theorem State.onMem_uid (s : State) (g : MemState → MemState) : (s.onMem g).uid = s.uid := rfl
@[simp] theorem State.onMem_agenda (s : State) (g : MemState → MemState) : (s.onMem g).agenda = s.agenda := rfl
@[simp] theorem State.onMem_outbox (s : State) (g : MemState → MemState) : (s.onMem g).outbox = s.outbox := rfl
@[simp] theorem State.onMem_fibres (s : State) (g : MemState → MemState) : (s.onMem g).fibres = s.fibres := rfl
@[simp] theorem State.onMem_teams (s : State) (g : MemState → MemState) : (s.onMem g).teams = s.teams := rfl
@[simp] theorem State.onMem_launches (s : State) (g : MemState → MemState) : (s.onMem g).launches = s.launches := rfl
@[simp] theorem State.onMem_batches (s : State) (g : MemState → MemState) : (s.onMem g).batches = s.batches := rfl
@[simp] theorem State.onMem_icache (s : State) (g : MemState → MemState) : (s.onMem g).icache = s.icache := rfl
@[simp] theorem State.onMem_cmds (s : State) (g : MemState → MemState) : (s.onMem g).cmds = s.cmds := rfl
@[simp] theorem State.onMem_calendars (s : State) (g : MemState → MemState) : (s.onMem g).calendars = s.calendars := rfl
@[simp] theorem State.onMem_x (s : State) (g : MemState → MemState) : (s.onMem g).x = s.x := rfl
@[simp] theorem State.onMem_q (s : State) (g : MemState → MemState) : (s.onMem g).q = s.q := rfl
@[simp] theorem State.onMem_mat (s : State) (g : MemState → MemState) : (s.onMem g).mat = s.mat := rfl
@[simp] theorem State.onMem_gat (s : State) (g : MemState → MemState) : (s.onMem g).gat = s.gat := rfl
@[simp] theorem State.onMem_cairn (s : State) (g : MemState → MemState) : (s.onMem g).cairn = s.cairn := rfl
@[simp] theorem State.onMem_fab (s : State) (g : MemState → MemState) : (s.onMem g).fab = s.fab := rfl
@[simp] theorem State.onMem_mg (s : State) (g : MemState → MemState) : (s.onMem g).mg = s.mg := rfl

@[simp] theorem State.takeUid_ftime (s : State) : (s.takeUid).ftime = s.ftime := rfl
@[simp] theorem State.takeUid_fresh (s : State) : (s.takeUid).fresh = s.fresh := rfl
@[simp] theorem State.takeUid_agenda (s : State) : (s.takeUid).agenda = s.agenda := rfl
@[simp] theorem State.takeUid_outbox (s : State) : (s.takeUid).outbox = s.outbox := rfl
@[simp] theorem State.takeUid_fibres (s : State) : (s.takeUid).fibres = s.fibres := rfl
@[simp] theorem State.takeUid_teams (s : State) : (s.takeUid).teams = s.teams := rfl
@[simp] theorem State.takeUid_launches (s : State) : (s.takeUid).launches = s.launches := rfl
@[simp] theorem State.takeUid_batches (s : State) : (s.takeUid).batches = s.batches := rfl
@[simp] theorem State.takeUid_icache (s : State) : (s.takeUid).icache = s.icache := rfl
@[simp] theorem State.takeUid_cmds (s : State) : (s.takeUid).cmds = s.cmds := rfl
@[simp] theorem State.takeUid_calendars (s : State) : (s.takeUid).calendars = s.calendars := rfl
@[simp] theorem State.takeUid_m (s : State) : (s.takeUid).m = s.m := rfl
@[simp] theorem State.takeUid_x (s : State) : (s.takeUid).x = s.x := rfl
@[simp] theorem State.takeUid_q (s : State) : (s.takeUid).q = s.q := rfl
@[simp] theorem State.takeUid_mat (s : State) : (s.takeUid).mat = s.mat := rfl
@[simp] theorem State.takeUid_gat (s : State) : (s.takeUid).gat = s.gat := rfl
@[simp] theorem State.takeUid_cairn (s : State) : (s.takeUid).cairn = s.cairn := rfl
@[simp] theorem State.takeUid_fab (s : State) : (s.takeUid).fab = s.fab := rfl
@[simp] theorem State.takeUid_mg (s : State) : (s.takeUid).mg = s.mg := rfl

@[simp] theorem State.takeFresh_ftime (s : State) : (s.takeFresh).ftime = s.ftime := rfl
@[simp] theorem State.takeFresh_uid (s : State) : (s.takeFresh).uid = s.uid := rfl
@[simp] theorem State.takeFresh_agenda (s : State) : (s.takeFresh).agenda = s.agenda := rfl
@[simp] theorem State.takeFresh_outbox (s : State) : (s.takeFresh).outbox = s.outbox := rfl
@[simp] theorem State.takeFresh_fibres (s : State) : (s.takeFresh).fibres = s.fibres := rfl
@[simp] theorem State.takeFresh_teams (s : State) : (s.takeFresh).teams = s.teams := rfl
@[simp] theorem State.takeFresh_launches (s : State) : (s.takeFresh).launches = s.launches := rfl
@[simp] theorem State.takeFresh_batches (s : State) : (s.takeFresh).batches = s.batches := rfl
@[simp] theorem State.takeFresh_icache (s : State) : (s.takeFresh).icache = s.icache := rfl
@[simp] theorem State.takeFresh_cmds (s : State) : (s.takeFresh).cmds = s.cmds := rfl
@[simp] theorem State.takeFresh_calendars (s : State) : (s.takeFresh).calendars = s.calendars := rfl
@[simp] theorem State.takeFresh_m (s : State) : (s.takeFresh).m = s.m := rfl
@[simp] theorem State.takeFresh_x (s : State) : (s.takeFresh).x = s.x := rfl
@[simp] theorem State.takeFresh_q (s : State) : (s.takeFresh).q = s.q := rfl
@[simp] theorem State.takeFresh_mat (s : State) : (s.takeFresh).mat = s.mat := rfl
@[simp] theorem State.takeFresh_gat (s : State) : (s.takeFresh).gat = s.gat := rfl
@[simp] theorem State.takeFresh_cairn (s : State) : (s.takeFresh).cairn = s.cairn := rfl
@[simp] theorem State.takeFresh_fab (s : State) : (s.takeFresh).fab = s.fab := rfl
@[simp] theorem State.takeFresh_mg (s : State) : (s.takeFresh).mg = s.mg := rfl

@[simp] theorem State.onFn_ftime (s : State) (n : Nat) (g : Fn → Fn) : (s.onFn n g).ftime = s.ftime := rfl
@[simp] theorem State.onFn_fresh (s : State) (n : Nat) (g : Fn → Fn) : (s.onFn n g).fresh = s.fresh := rfl
@[simp] theorem State.onFn_uid (s : State) (n : Nat) (g : Fn → Fn) : (s.onFn n g).uid = s.uid := rfl
@[simp] theorem State.onFn_agenda (s : State) (n : Nat) (g : Fn → Fn) : (s.onFn n g).agenda = s.agenda := rfl
@[simp] theorem State.onFn_outbox (s : State) (n : Nat) (g : Fn → Fn) : (s.onFn n g).outbox = s.outbox := rfl
@[simp] theorem State.onFn_fibres (s : State) (n : Nat) (g : Fn → Fn) : (s.onFn n g).fibres = s.fibres := rfl
@[simp] theorem State.onFn_teams (s : State) (n : Nat) (g : Fn → Fn) : (s.onFn n g).teams = s.teams := rfl
@[simp] theorem State.onFn_launches (s : State) (n : Nat) (g : Fn → Fn) : (s.onFn n g).launches = s.launches := rfl
@[simp] theorem State.onFn_batches (s : State) (n : Nat) (g : Fn → Fn) : (s.onFn n g).batches = s.batches := rfl
@[simp] theorem State.onFn_icache (s : State) (n : Nat) (g : Fn → Fn) : (s.onFn n g).icache = s.icache := rfl
@[simp] theorem State.onFn_cmds (s : State) (n : Nat) (g : Fn → Fn) : (s.onFn n g).cmds = s.cmds := rfl
@[simp] theorem State.onFn_calendars (s : State) (n : Nat) (g : Fn → Fn) : (s.onFn n g).calendars = s.calendars := rfl
@[simp] theorem State.onFn_m (s : State) (n : Nat) (g : Fn → Fn) : (s.onFn n g).m = s.m := rfl
@[simp] theorem State.onFn_q (s : State) (n : Nat) (g : Fn → Fn) : (s.onFn n g).q = s.q := rfl
@[simp] theorem State.onFn_mat (s : State) (n : Nat) (g : Fn → Fn) : (s.onFn n g).mat = s.mat := rfl
@[simp] theorem State.onFn_gat (s : State) (n : Nat) (g : Fn → Fn) : (s.onFn n g).gat = s.gat := rfl
@[simp] theorem State.onFn_cairn (s : State) (n : Nat) (g : Fn → Fn) : (s.onFn n g).cairn = s.cairn := rfl
@[simp] theorem State.onFn_fab (s : State) (n : Nat) (g : Fn → Fn) : (s.onFn n g).fab = s.fab := rfl
@[simp] theorem State.onFn_mg (s : State) (n : Nat) (g : Fn → Fn) : (s.onFn n g).mg = s.mg := rfl

@[simp] theorem State.onWl_ftime (s : State) (n : Nat) (g : Worklist → Worklist) : (s.onWl n g).ftime = s.ftime := rfl
@[simp] theorem State.onWl_fresh (s : State) (n : Nat) (g : Worklist → Worklist) : (s.onWl n g).fresh = s.fresh := rfl
@[simp] theorem State.onWl_uid (s : State) (n : Nat) (g : Worklist → Worklist) : (s.onWl n g).uid = s.uid := rfl
@[simp] theorem State.onWl_agenda (s : State) (n : Nat) (g : Worklist → Worklist) : (s.onWl n g).agenda = s.agenda := rfl
@[simp] theorem State.onWl_outbox (s : State) (n : Nat) (g : Worklist → Worklist) : (s.onWl n g).outbox = s.outbox := rfl
@[simp] theorem State.onWl_fibres (s : State) (n : Nat) (g : Worklist → Worklist) : (s.onWl n g).fibres = s.fibres := rfl
@[simp] theorem State.onWl_teams (s : State) (n : Nat) (g : Worklist → Worklist) : (s.onWl n g).teams = s.teams := rfl
@[simp] theorem State.onWl_launches (s : State) (n : Nat) (g : Worklist → Worklist) : (s.onWl n g).launches = s.launches := rfl
@[simp] theorem State.onWl_batches (s : State) (n : Nat) (g : Worklist → Worklist) : (s.onWl n g).batches = s.batches := rfl
@[simp] theorem State.onWl_icache (s : State) (n : Nat) (g : Worklist → Worklist) : (s.onWl n g).icache = s.icache := rfl
@[simp] theorem State.onWl_cmds (s : State) (n : Nat) (g : Worklist → Worklist) : (s.onWl n g).cmds = s.cmds := rfl
@[simp] theorem State.onWl_calendars (s : State) (n : Nat) (g : Worklist → Worklist) : (s.onWl n g).calendars = s.calendars := rfl
@[simp] theorem State.onWl_m (s : State) (n : Nat) (g : Worklist → Worklist) : (s.onWl n g).m = s.m := rfl
@[simp] theorem State.onWl_x (s : State) (n : Nat) (g : Worklist → Worklist) : (s.onWl n g).x = s.x := rfl
@[simp] theorem State.onWl_q (s : State) (n : Nat) (g : Worklist → Worklist) : (s.onWl n g).q = s.q := rfl
@[simp] theorem State.onWl_mat (s : State) (n : Nat) (g : Worklist → Worklist) : (s.onWl n g).mat = s.mat := rfl
@[simp] theorem State.onWl_gat (s : State) (n : Nat) (g : Worklist → Worklist) : (s.onWl n g).gat = s.gat := rfl
@[simp] theorem State.onWl_fab (s : State) (n : Nat) (g : Worklist → Worklist) : (s.onWl n g).fab = s.fab := rfl
@[simp] theorem State.onWl_mg (s : State) (n : Nat) (g : Worklist → Worklist) : (s.onWl n g).mg = s.mg := rfl

@[simp] theorem State.addResult_ftime (s : State) (f : Fibre) (d : Nat) (v fl : Word) : (s.addResult f d v fl).ftime = s.ftime := rfl
@[simp] theorem State.addResult_fresh (s : State) (f : Fibre) (d : Nat) (v fl : Word) : (s.addResult f d v fl).fresh = s.fresh := rfl
@[simp] theorem State.addResult_agenda (s : State) (f : Fibre) (d : Nat) (v fl : Word) : (s.addResult f d v fl).agenda = s.agenda := rfl
@[simp] theorem State.addResult_outbox (s : State) (f : Fibre) (d : Nat) (v fl : Word) : (s.addResult f d v fl).outbox = s.outbox := rfl
@[simp] theorem State.addResult_fibres (s : State) (f : Fibre) (d : Nat) (v fl : Word) : (s.addResult f d v fl).fibres = s.fibres := rfl
@[simp] theorem State.addResult_teams (s : State) (f : Fibre) (d : Nat) (v fl : Word) : (s.addResult f d v fl).teams = s.teams := rfl
@[simp] theorem State.addResult_launches (s : State) (f : Fibre) (d : Nat) (v fl : Word) : (s.addResult f d v fl).launches = s.launches := rfl
@[simp] theorem State.addResult_batches (s : State) (f : Fibre) (d : Nat) (v fl : Word) : (s.addResult f d v fl).batches = s.batches := rfl
@[simp] theorem State.addResult_icache (s : State) (f : Fibre) (d : Nat) (v fl : Word) : (s.addResult f d v fl).icache = s.icache := rfl
@[simp] theorem State.addResult_cmds (s : State) (f : Fibre) (d : Nat) (v fl : Word) : (s.addResult f d v fl).cmds = s.cmds := rfl
@[simp] theorem State.addResult_calendars (s : State) (f : Fibre) (d : Nat) (v fl : Word) : (s.addResult f d v fl).calendars = s.calendars := rfl
@[simp] theorem State.addResult_x (s : State) (f : Fibre) (d : Nat) (v fl : Word) : (s.addResult f d v fl).x = s.x := rfl
@[simp] theorem State.addResult_q (s : State) (f : Fibre) (d : Nat) (v fl : Word) : (s.addResult f d v fl).q = s.q := rfl
@[simp] theorem State.addResult_mat (s : State) (f : Fibre) (d : Nat) (v fl : Word) : (s.addResult f d v fl).mat = s.mat := rfl
@[simp] theorem State.addResult_gat (s : State) (f : Fibre) (d : Nat) (v fl : Word) : (s.addResult f d v fl).gat = s.gat := rfl
@[simp] theorem State.addResult_cairn (s : State) (f : Fibre) (d : Nat) (v fl : Word) : (s.addResult f d v fl).cairn = s.cairn := rfl
@[simp] theorem State.addResult_fab (s : State) (f : Fibre) (d : Nat) (v fl : Word) : (s.addResult f d v fl).fab = s.fab := rfl
@[simp] theorem State.addResult_mg (s : State) (f : Fibre) (d : Nat) (v fl : Word) : (s.addResult f d v fl).mg = s.mg := rfl

@[simp] theorem State.rotateBatches_ftime (s : State) : (s.rotateBatches).ftime = s.ftime := rfl
@[simp] theorem State.rotateBatches_fresh (s : State) : (s.rotateBatches).fresh = s.fresh := rfl
@[simp] theorem State.rotateBatches_uid (s : State) : (s.rotateBatches).uid = s.uid := rfl
@[simp] theorem State.rotateBatches_agenda (s : State) : (s.rotateBatches).agenda = s.agenda := rfl
@[simp] theorem State.rotateBatches_outbox (s : State) : (s.rotateBatches).outbox = s.outbox := rfl
@[simp] theorem State.rotateBatches_fibres (s : State) : (s.rotateBatches).fibres = s.fibres := rfl
@[simp] theorem State.rotateBatches_teams (s : State) : (s.rotateBatches).teams = s.teams := rfl
@[simp] theorem State.rotateBatches_launches (s : State) : (s.rotateBatches).launches = s.launches := rfl
@[simp] theorem State.rotateBatches_cmds (s : State) : (s.rotateBatches).cmds = s.cmds := rfl
@[simp] theorem State.rotateBatches_calendars (s : State) : (s.rotateBatches).calendars = s.calendars := rfl
@[simp] theorem State.rotateBatches_m (s : State) : (s.rotateBatches).m = s.m := rfl
@[simp] theorem State.rotateBatches_x (s : State) : (s.rotateBatches).x = s.x := rfl
@[simp] theorem State.rotateBatches_q (s : State) : (s.rotateBatches).q = s.q := rfl
@[simp] theorem State.rotateBatches_mat (s : State) : (s.rotateBatches).mat = s.mat := rfl
@[simp] theorem State.rotateBatches_gat (s : State) : (s.rotateBatches).gat = s.gat := rfl
@[simp] theorem State.rotateBatches_cairn (s : State) : (s.rotateBatches).cairn = s.cairn := rfl
@[simp] theorem State.rotateBatches_fab (s : State) : (s.rotateBatches).fab = s.fab := rfl
@[simp] theorem State.rotateBatches_mg (s : State) : (s.rotateBatches).mg = s.mg := rfl

@[simp] theorem State.dropFar_ftime (s : State) (ls : List Place) : (s.dropFar ls).ftime = s.ftime := rfl
@[simp] theorem State.dropFar_fresh (s : State) (ls : List Place) : (s.dropFar ls).fresh = s.fresh := rfl
@[simp] theorem State.dropFar_uid (s : State) (ls : List Place) : (s.dropFar ls).uid = s.uid := rfl
@[simp] theorem State.dropFar_agenda (s : State) (ls : List Place) : (s.dropFar ls).agenda = s.agenda := rfl
@[simp] theorem State.dropFar_outbox (s : State) (ls : List Place) : (s.dropFar ls).outbox = s.outbox := rfl
@[simp] theorem State.dropFar_fibres (s : State) (ls : List Place) : (s.dropFar ls).fibres = s.fibres := rfl
@[simp] theorem State.dropFar_teams (s : State) (ls : List Place) : (s.dropFar ls).teams = s.teams := rfl
@[simp] theorem State.dropFar_launches (s : State) (ls : List Place) : (s.dropFar ls).launches = s.launches := rfl
@[simp] theorem State.dropFar_batches (s : State) (ls : List Place) : (s.dropFar ls).batches = s.batches := rfl
@[simp] theorem State.dropFar_icache (s : State) (ls : List Place) : (s.dropFar ls).icache = s.icache := rfl
@[simp] theorem State.dropFar_cmds (s : State) (ls : List Place) : (s.dropFar ls).cmds = s.cmds := rfl
@[simp] theorem State.dropFar_calendars (s : State) (ls : List Place) : (s.dropFar ls).calendars = s.calendars := rfl
@[simp] theorem State.dropFar_m (s : State) (ls : List Place) : (s.dropFar ls).m = s.m := rfl
@[simp] theorem State.dropFar_x (s : State) (ls : List Place) : (s.dropFar ls).x = s.x := rfl
@[simp] theorem State.dropFar_q (s : State) (ls : List Place) : (s.dropFar ls).q = s.q := rfl
@[simp] theorem State.dropFar_mat (s : State) (ls : List Place) : (s.dropFar ls).mat = s.mat := rfl
@[simp] theorem State.dropFar_gat (s : State) (ls : List Place) : (s.dropFar ls).gat = s.gat := rfl
@[simp] theorem State.dropFar_cairn (s : State) (ls : List Place) : (s.dropFar ls).cairn = s.cairn := rfl
@[simp] theorem State.dropFar_mg (s : State) (ls : List Place) : (s.dropFar ls).mg = s.mg := rfl

@[simp] theorem State.onCmd_ftime (s : State) (u : Nat) (g : Cmd → Cmd) : (s.onCmd u g).ftime = s.ftime := rfl
@[simp] theorem State.onCmd_fresh (s : State) (u : Nat) (g : Cmd → Cmd) : (s.onCmd u g).fresh = s.fresh := rfl
@[simp] theorem State.onCmd_uid (s : State) (u : Nat) (g : Cmd → Cmd) : (s.onCmd u g).uid = s.uid := rfl
@[simp] theorem State.onCmd_agenda (s : State) (u : Nat) (g : Cmd → Cmd) : (s.onCmd u g).agenda = s.agenda := rfl
@[simp] theorem State.onCmd_outbox (s : State) (u : Nat) (g : Cmd → Cmd) : (s.onCmd u g).outbox = s.outbox := rfl
@[simp] theorem State.onCmd_fibres (s : State) (u : Nat) (g : Cmd → Cmd) : (s.onCmd u g).fibres = s.fibres := rfl
@[simp] theorem State.onCmd_teams (s : State) (u : Nat) (g : Cmd → Cmd) : (s.onCmd u g).teams = s.teams := rfl
@[simp] theorem State.onCmd_launches (s : State) (u : Nat) (g : Cmd → Cmd) : (s.onCmd u g).launches = s.launches := rfl
@[simp] theorem State.onCmd_batches (s : State) (u : Nat) (g : Cmd → Cmd) : (s.onCmd u g).batches = s.batches := rfl
@[simp] theorem State.onCmd_icache (s : State) (u : Nat) (g : Cmd → Cmd) : (s.onCmd u g).icache = s.icache := rfl
@[simp] theorem State.onCmd_calendars (s : State) (u : Nat) (g : Cmd → Cmd) : (s.onCmd u g).calendars = s.calendars := rfl
@[simp] theorem State.onCmd_m (s : State) (u : Nat) (g : Cmd → Cmd) : (s.onCmd u g).m = s.m := rfl
@[simp] theorem State.onCmd_x (s : State) (u : Nat) (g : Cmd → Cmd) : (s.onCmd u g).x = s.x := rfl
@[simp] theorem State.onCmd_q (s : State) (u : Nat) (g : Cmd → Cmd) : (s.onCmd u g).q = s.q := rfl
@[simp] theorem State.onCmd_mat (s : State) (u : Nat) (g : Cmd → Cmd) : (s.onCmd u g).mat = s.mat := rfl
@[simp] theorem State.onCmd_gat (s : State) (u : Nat) (g : Cmd → Cmd) : (s.onCmd u g).gat = s.gat := rfl
@[simp] theorem State.onCmd_cairn (s : State) (u : Nat) (g : Cmd → Cmd) : (s.onCmd u g).cairn = s.cairn := rfl
@[simp] theorem State.onCmd_fab (s : State) (u : Nat) (g : Cmd → Cmd) : (s.onCmd u g).fab = s.fab := rfl
@[simp] theorem State.onCmd_mg (s : State) (u : Nat) (g : Cmd → Cmd) : (s.onCmd u g).mg = s.mg := rfl

@[simp] theorem State.dropCmd_ftime (s : State) (u : Nat) : (s.dropCmd u).ftime = s.ftime := rfl
@[simp] theorem State.dropCmd_fresh (s : State) (u : Nat) : (s.dropCmd u).fresh = s.fresh := rfl
@[simp] theorem State.dropCmd_uid (s : State) (u : Nat) : (s.dropCmd u).uid = s.uid := rfl
@[simp] theorem State.dropCmd_agenda (s : State) (u : Nat) : (s.dropCmd u).agenda = s.agenda := rfl
@[simp] theorem State.dropCmd_outbox (s : State) (u : Nat) : (s.dropCmd u).outbox = s.outbox := rfl
@[simp] theorem State.dropCmd_fibres (s : State) (u : Nat) : (s.dropCmd u).fibres = s.fibres := rfl
@[simp] theorem State.dropCmd_teams (s : State) (u : Nat) : (s.dropCmd u).teams = s.teams := rfl
@[simp] theorem State.dropCmd_launches (s : State) (u : Nat) : (s.dropCmd u).launches = s.launches := rfl
@[simp] theorem State.dropCmd_batches (s : State) (u : Nat) : (s.dropCmd u).batches = s.batches := rfl
@[simp] theorem State.dropCmd_icache (s : State) (u : Nat) : (s.dropCmd u).icache = s.icache := rfl
@[simp] theorem State.dropCmd_calendars (s : State) (u : Nat) : (s.dropCmd u).calendars = s.calendars := rfl
@[simp] theorem State.dropCmd_m (s : State) (u : Nat) : (s.dropCmd u).m = s.m := rfl
@[simp] theorem State.dropCmd_x (s : State) (u : Nat) : (s.dropCmd u).x = s.x := rfl
@[simp] theorem State.dropCmd_q (s : State) (u : Nat) : (s.dropCmd u).q = s.q := rfl
@[simp] theorem State.dropCmd_mat (s : State) (u : Nat) : (s.dropCmd u).mat = s.mat := rfl
@[simp] theorem State.dropCmd_gat (s : State) (u : Nat) : (s.dropCmd u).gat = s.gat := rfl
@[simp] theorem State.dropCmd_cairn (s : State) (u : Nat) : (s.dropCmd u).cairn = s.cairn := rfl
@[simp] theorem State.dropCmd_fab (s : State) (u : Nat) : (s.dropCmd u).fab = s.fab := rfl
@[simp] theorem State.dropCmd_mg (s : State) (u : Nat) : (s.dropCmd u).mg = s.mg := rfl

@[simp] theorem State.onPort_ftime (s : State) (p : Nat) (g : Port → Port) : (s.onPort p g).ftime = s.ftime := rfl
@[simp] theorem State.onPort_fresh (s : State) (p : Nat) (g : Port → Port) : (s.onPort p g).fresh = s.fresh := rfl
@[simp] theorem State.onPort_uid (s : State) (p : Nat) (g : Port → Port) : (s.onPort p g).uid = s.uid := rfl
@[simp] theorem State.onPort_agenda (s : State) (p : Nat) (g : Port → Port) : (s.onPort p g).agenda = s.agenda := rfl
@[simp] theorem State.onPort_outbox (s : State) (p : Nat) (g : Port → Port) : (s.onPort p g).outbox = s.outbox := rfl
@[simp] theorem State.onPort_fibres (s : State) (p : Nat) (g : Port → Port) : (s.onPort p g).fibres = s.fibres := rfl
@[simp] theorem State.onPort_teams (s : State) (p : Nat) (g : Port → Port) : (s.onPort p g).teams = s.teams := rfl
@[simp] theorem State.onPort_launches (s : State) (p : Nat) (g : Port → Port) : (s.onPort p g).launches = s.launches := rfl
@[simp] theorem State.onPort_batches (s : State) (p : Nat) (g : Port → Port) : (s.onPort p g).batches = s.batches := rfl
@[simp] theorem State.onPort_icache (s : State) (p : Nat) (g : Port → Port) : (s.onPort p g).icache = s.icache := rfl
@[simp] theorem State.onPort_cmds (s : State) (p : Nat) (g : Port → Port) : (s.onPort p g).cmds = s.cmds := rfl
@[simp] theorem State.onPort_calendars (s : State) (p : Nat) (g : Port → Port) : (s.onPort p g).calendars = s.calendars := rfl
@[simp] theorem State.onPort_m (s : State) (p : Nat) (g : Port → Port) : (s.onPort p g).m = s.m := rfl
@[simp] theorem State.onPort_x (s : State) (p : Nat) (g : Port → Port) : (s.onPort p g).x = s.x := rfl
@[simp] theorem State.onPort_q (s : State) (p : Nat) (g : Port → Port) : (s.onPort p g).q = s.q := rfl
@[simp] theorem State.onPort_mat (s : State) (p : Nat) (g : Port → Port) : (s.onPort p g).mat = s.mat := rfl
@[simp] theorem State.onPort_gat (s : State) (p : Nat) (g : Port → Port) : (s.onPort p g).gat = s.gat := rfl
@[simp] theorem State.onPort_cairn (s : State) (p : Nat) (g : Port → Port) : (s.onPort p g).cairn = s.cairn := rfl
@[simp] theorem State.onPort_mg (s : State) (p : Nat) (g : Port → Port) : (s.onPort p g).mg = s.mg := rfl

@[simp] theorem State.onQueue_ftime (s : State) (n : Nat) (g : HostQueue → HostQueue) : (s.onQueue n g).ftime = s.ftime := rfl
@[simp] theorem State.onQueue_fresh (s : State) (n : Nat) (g : HostQueue → HostQueue) : (s.onQueue n g).fresh = s.fresh := rfl
@[simp] theorem State.onQueue_uid (s : State) (n : Nat) (g : HostQueue → HostQueue) : (s.onQueue n g).uid = s.uid := rfl
@[simp] theorem State.onQueue_agenda (s : State) (n : Nat) (g : HostQueue → HostQueue) : (s.onQueue n g).agenda = s.agenda := rfl
@[simp] theorem State.onQueue_outbox (s : State) (n : Nat) (g : HostQueue → HostQueue) : (s.onQueue n g).outbox = s.outbox := rfl
@[simp] theorem State.onQueue_fibres (s : State) (n : Nat) (g : HostQueue → HostQueue) : (s.onQueue n g).fibres = s.fibres := rfl
@[simp] theorem State.onQueue_teams (s : State) (n : Nat) (g : HostQueue → HostQueue) : (s.onQueue n g).teams = s.teams := rfl
@[simp] theorem State.onQueue_launches (s : State) (n : Nat) (g : HostQueue → HostQueue) : (s.onQueue n g).launches = s.launches := rfl
@[simp] theorem State.onQueue_batches (s : State) (n : Nat) (g : HostQueue → HostQueue) : (s.onQueue n g).batches = s.batches := rfl
@[simp] theorem State.onQueue_icache (s : State) (n : Nat) (g : HostQueue → HostQueue) : (s.onQueue n g).icache = s.icache := rfl
@[simp] theorem State.onQueue_cmds (s : State) (n : Nat) (g : HostQueue → HostQueue) : (s.onQueue n g).cmds = s.cmds := rfl
@[simp] theorem State.onQueue_calendars (s : State) (n : Nat) (g : HostQueue → HostQueue) : (s.onQueue n g).calendars = s.calendars := rfl
@[simp] theorem State.onQueue_m (s : State) (n : Nat) (g : HostQueue → HostQueue) : (s.onQueue n g).m = s.m := rfl
@[simp] theorem State.onQueue_x (s : State) (n : Nat) (g : HostQueue → HostQueue) : (s.onQueue n g).x = s.x := rfl
@[simp] theorem State.onQueue_mat (s : State) (n : Nat) (g : HostQueue → HostQueue) : (s.onQueue n g).mat = s.mat := rfl
@[simp] theorem State.onQueue_gat (s : State) (n : Nat) (g : HostQueue → HostQueue) : (s.onQueue n g).gat = s.gat := rfl
@[simp] theorem State.onQueue_cairn (s : State) (n : Nat) (g : HostQueue → HostQueue) : (s.onQueue n g).cairn = s.cairn := rfl
@[simp] theorem State.onQueue_fab (s : State) (n : Nat) (g : HostQueue → HostQueue) : (s.onQueue n g).fab = s.fab := rfl
@[simp] theorem State.onQueue_mg (s : State) (n : Nat) (g : HostQueue → HostQueue) : (s.onQueue n g).mg = s.mg := rfl
@[simp] theorem Fibre.endRun_key (f : Fibre) (pc : Word) (now : Time) : (f.endRun pc now).key = f.key := rfl
@[simp] theorem Fibre.endRun_core (f : Fibre) (pc : Word) (now : Time) : (f.endRun pc now).core = f.core := rfl
@[simp] theorem Fibre.endRun_part (f : Fibre) (pc : Word) (now : Time) : (f.endRun pc now).part = f.part := rfl
@[simp] theorem Fibre.endRun_role (f : Fibre) (pc : Word) (now : Time) : (f.endRun pc now).role = f.role := rfl
@[simp] theorem Fibre.endRun_window (f : Fibre) (pc : Word) (now : Time) : (f.endRun pc now).window = f.window := rfl
@[simp] theorem Fibre.endRun_spc (f : Fibre) (pc : Word) (now : Time) : (f.endRun pc now).spc = f.spc := rfl
@[simp] theorem Fibre.endRun_pw (f : Fibre) (pc : Word) (now : Time) : (f.endRun pc now).pw = f.pw := rfl
@[simp] theorem Fibre.endRun_g (f : Fibre) (pc : Word) (now : Time) : (f.endRun pc now).g = f.g := rfl
@[simp] theorem Fibre.endRun_notReady (f : Fibre) (pc : Word) (now : Time) : (f.endRun pc now).notReady = f.notReady := rfl
@[simp] theorem Fibre.endRun_slotTeam (f : Fibre) (pc : Word) (now : Time) : (f.endRun pc now).slotTeam = f.slotTeam := rfl
@[simp] theorem Fibre.endRun_slotSys (f : Fibre) (pc : Word) (now : Time) : (f.endRun pc now).slotSys = f.slotSys := rfl
@[simp] theorem Fibre.endRun_fst (f : Fibre) (pc : Word) (now : Time) : (f.endRun pc now).fst = f.fst := rfl
@[simp] theorem Fibre.endRun_ft (f : Fibre) (pc : Word) (now : Time) : (f.endRun pc now).ft = f.ft := rfl
@[simp] theorem Fibre.endRun_gwmax (f : Fibre) (pc : Word) (now : Time) : (f.endRun pc now).gwmax = f.gwmax := rfl
@[simp] theorem Fibre.endRun_rstack (f : Fibre) (pc : Word) (now : Time) : (f.endRun pc now).rstack = f.rstack := rfl
@[simp] theorem Fibre.endRun_depth (f : Fibre) (pc : Word) (now : Time) : (f.endRun pc now).depth = f.depth := rfl
@[simp] theorem Fibre.endRun_rstart (f : Fibre) (pc : Word) (now : Time) : (f.endRun pc now).rstart = f.rstart := rfl
@[simp] theorem Fibre.endRun_rstartDepth (f : Fibre) (pc : Word) (now : Time) : (f.endRun pc now).rstartDepth = f.rstartDepth := rfl
@[simp] theorem Fibre.endRun_region (f : Fibre) (pc : Word) (now : Time) : (f.endRun pc now).region = f.region := rfl
@[simp] theorem Fibre.endRun_tpc (f : Fibre) (pc : Word) (now : Time) : (f.endRun pc now).tpc = f.tpc := rfl
@[simp] theorem Fibre.endRun_tcause (f : Fibre) (pc : Word) (now : Time) : (f.endRun pc now).tcause = f.tcause := rfl
@[simp] theorem Fibre.endRun_tval (f : Fibre) (pc : Word) (now : Time) : (f.endRun pc now).tval = f.tval := rfl
@[simp] theorem Fibre.endRun_ir (f : Fibre) (pc : Word) (now : Time) : (f.endRun pc now).ir = f.ir := rfl
@[simp] theorem Fibre.endRun_status (f : Fibre) (pc : Word) (now : Time) : (f.endRun pc now).status = f.status := rfl
@[simp] theorem Fibre.endRun_passes (f : Fibre) (pc : Word) (now : Time) : (f.endRun pc now).passes = f.passes := rfl
@[simp] theorem Fibre.endRun_seq (f : Fibre) (pc : Word) (now : Time) : (f.endRun pc now).seq = f.seq := rfl
@[simp] theorem Fibre.endRun_posted (f : Fibre) (pc : Word) (now : Time) : (f.endRun pc now).posted = f.posted := rfl
@[simp] theorem Fibre.endRun_serving (f : Fibre) (pc : Word) (now : Time) : (f.endRun pc now).serving = f.serving := rfl
@[simp] theorem Fibre.endRun_acqHold (f : Fibre) (pc : Word) (now : Time) : (f.endRun pc now).acqHold = f.acqHold := rfl
@[simp] theorem Fibre.endRun_relHold (f : Fibre) (pc : Word) (now : Time) : (f.endRun pc now).relHold = f.relHold := rfl
@[simp] theorem Fibre.endRun_task (f : Fibre) (pc : Word) (now : Time) : (f.endRun pc now).task = f.task := rfl
@[simp] theorem Fibre.endRun_keptTask (f : Fibre) (pc : Word) (now : Time) : (f.endRun pc now).keptTask = f.keptTask := rfl
@[simp] theorem Fibre.endRun_arrivedStep (f : Fibre) (pc : Word) (now : Time) : (f.endRun pc now).arrivedStep = f.arrivedStep := rfl
@[simp] theorem Fibre.endRun_arrivedRope (f : Fibre) (pc : Word) (now : Time) : (f.endRun pc now).arrivedRope = f.arrivedRope := rfl
@[simp] theorem Fibre.endRun_tableWord (f : Fibre) (pc : Word) (now : Time) : (f.endRun pc now).tableWord = f.tableWord := rfl
@[simp] theorem Fibre.endRun_afterCommit (f : Fibre) (pc : Word) (now : Time) : (f.endRun pc now).afterCommit = f.afterCommit := rfl
@[simp] theorem Fibre.endRun_nextSafe (f : Fibre) (pc : Word) (now : Time) : (f.endRun pc now).nextSafe = f.nextSafe := rfl
@[simp] theorem Fibre.endRun_saved (f : Fibre) (pc : Word) (now : Time) : (f.endRun pc now).saved = f.saved := rfl

@[simp] theorem Fibre.shift_key (f : Fibre) (v : Option Word) : (f.shift v).key = f.key := rfl
@[simp] theorem Fibre.shift_core (f : Fibre) (v : Option Word) : (f.shift v).core = f.core := rfl
@[simp] theorem Fibre.shift_part (f : Fibre) (v : Option Word) : (f.shift v).part = f.part := rfl
@[simp] theorem Fibre.shift_role (f : Fibre) (v : Option Word) : (f.shift v).role = f.role := rfl
@[simp] theorem Fibre.shift_window (f : Fibre) (v : Option Word) : (f.shift v).window = f.window := rfl
@[simp] theorem Fibre.shift_pc (f : Fibre) (v : Option Word) : (f.shift v).pc = f.pc := rfl
@[simp] theorem Fibre.shift_spc (f : Fibre) (v : Option Word) : (f.shift v).spc = f.spc := rfl
@[simp] theorem Fibre.shift_pw (f : Fibre) (v : Option Word) : (f.shift v).pw = f.pw := rfl
@[simp] theorem Fibre.shift_g (f : Fibre) (v : Option Word) : (f.shift v).g = f.g := rfl
@[simp] theorem Fibre.shift_notReady (f : Fibre) (v : Option Word) : (f.shift v).notReady = f.notReady := rfl
@[simp] theorem Fibre.shift_slotTeam (f : Fibre) (v : Option Word) : (f.shift v).slotTeam = f.slotTeam := rfl
@[simp] theorem Fibre.shift_slotSys (f : Fibre) (v : Option Word) : (f.shift v).slotSys = f.slotSys := rfl
@[simp] theorem Fibre.shift_fst (f : Fibre) (v : Option Word) : (f.shift v).fst = f.fst := rfl
@[simp] theorem Fibre.shift_ft (f : Fibre) (v : Option Word) : (f.shift v).ft = f.ft := rfl
@[simp] theorem Fibre.shift_gwmax (f : Fibre) (v : Option Word) : (f.shift v).gwmax = f.gwmax := rfl
@[simp] theorem Fibre.shift_rstack (f : Fibre) (v : Option Word) : (f.shift v).rstack = f.rstack := rfl
@[simp] theorem Fibre.shift_depth (f : Fibre) (v : Option Word) : (f.shift v).depth = f.depth := rfl
@[simp] theorem Fibre.shift_rstart (f : Fibre) (v : Option Word) : (f.shift v).rstart = f.rstart := rfl
@[simp] theorem Fibre.shift_rstartDepth (f : Fibre) (v : Option Word) : (f.shift v).rstartDepth = f.rstartDepth := rfl
@[simp] theorem Fibre.shift_region (f : Fibre) (v : Option Word) : (f.shift v).region = f.region := rfl
@[simp] theorem Fibre.shift_tpc (f : Fibre) (v : Option Word) : (f.shift v).tpc = f.tpc := rfl
@[simp] theorem Fibre.shift_tcause (f : Fibre) (v : Option Word) : (f.shift v).tcause = f.tcause := rfl
@[simp] theorem Fibre.shift_tval (f : Fibre) (v : Option Word) : (f.shift v).tval = f.tval := rfl
@[simp] theorem Fibre.shift_hints (f : Fibre) (v : Option Word) : (f.shift v).hints = f.hints := rfl
@[simp] theorem Fibre.shift_runCount (f : Fibre) (v : Option Word) : (f.shift v).runCount = f.runCount := rfl
@[simp] theorem Fibre.shift_ir (f : Fibre) (v : Option Word) : (f.shift v).ir = f.ir := rfl
@[simp] theorem Fibre.shift_yieldAtEnd (f : Fibre) (v : Option Word) : (f.shift v).yieldAtEnd = f.yieldAtEnd := rfl
@[simp] theorem Fibre.shift_boostAtEnd (f : Fibre) (v : Option Word) : (f.shift v).boostAtEnd = f.boostAtEnd := rfl
@[simp] theorem Fibre.shift_status (f : Fibre) (v : Option Word) : (f.shift v).status = f.status := rfl
@[simp] theorem Fibre.shift_age (f : Fibre) (v : Option Word) : (f.shift v).age = f.age := rfl
@[simp] theorem Fibre.shift_passes (f : Fibre) (v : Option Word) : (f.shift v).passes = f.passes := rfl
@[simp] theorem Fibre.shift_boost (f : Fibre) (v : Option Word) : (f.shift v).boost = f.boost := rfl
@[simp] theorem Fibre.shift_seq (f : Fibre) (v : Option Word) : (f.shift v).seq = f.seq := rfl
@[simp] theorem Fibre.shift_posted (f : Fibre) (v : Option Word) : (f.shift v).posted = f.posted := rfl
@[simp] theorem Fibre.shift_serving (f : Fibre) (v : Option Word) : (f.shift v).serving = f.serving := rfl
@[simp] theorem Fibre.shift_acqHold (f : Fibre) (v : Option Word) : (f.shift v).acqHold = f.acqHold := rfl
@[simp] theorem Fibre.shift_relHold (f : Fibre) (v : Option Word) : (f.shift v).relHold = f.relHold := rfl
@[simp] theorem Fibre.shift_task (f : Fibre) (v : Option Word) : (f.shift v).task = f.task := rfl
@[simp] theorem Fibre.shift_keptTask (f : Fibre) (v : Option Word) : (f.shift v).keptTask = f.keptTask := rfl
@[simp] theorem Fibre.shift_arrivedStep (f : Fibre) (v : Option Word) : (f.shift v).arrivedStep = f.arrivedStep := rfl
@[simp] theorem Fibre.shift_arrivedRope (f : Fibre) (v : Option Word) : (f.shift v).arrivedRope = f.arrivedRope := rfl
@[simp] theorem Fibre.shift_tableWord (f : Fibre) (v : Option Word) : (f.shift v).tableWord = f.tableWord := rfl
@[simp] theorem Fibre.shift_afterCommit (f : Fibre) (v : Option Word) : (f.shift v).afterCommit = f.afterCommit := rfl
@[simp] theorem Fibre.shift_nextSafe (f : Fibre) (v : Option Word) : (f.shift v).nextSafe = f.nextSafe := rfl
@[simp] theorem Fibre.shift_saved (f : Fibre) (v : Option Word) : (f.shift v).saved = f.saved := rfl

@[simp] theorem Fibre.await_key (f : Fibre) (d u : Nat) : (f.await d u).key = f.key := rfl
@[simp] theorem Fibre.await_core (f : Fibre) (d u : Nat) : (f.await d u).core = f.core := rfl
@[simp] theorem Fibre.await_part (f : Fibre) (d u : Nat) : (f.await d u).part = f.part := rfl
@[simp] theorem Fibre.await_role (f : Fibre) (d u : Nat) : (f.await d u).role = f.role := rfl
@[simp] theorem Fibre.await_window (f : Fibre) (d u : Nat) : (f.await d u).window = f.window := rfl
@[simp] theorem Fibre.await_pc (f : Fibre) (d u : Nat) : (f.await d u).pc = f.pc := rfl
@[simp] theorem Fibre.await_spc (f : Fibre) (d u : Nat) : (f.await d u).spc = f.spc := rfl
@[simp] theorem Fibre.await_pw (f : Fibre) (d u : Nat) : (f.await d u).pw = f.pw := rfl
@[simp] theorem Fibre.await_g (f : Fibre) (d u : Nat) : (f.await d u).g = f.g := rfl
@[simp] theorem Fibre.await_lat (f : Fibre) (d u : Nat) : (f.await d u).lat = f.lat := rfl
@[simp] theorem Fibre.await_slotTeam (f : Fibre) (d u : Nat) : (f.await d u).slotTeam = f.slotTeam := rfl
@[simp] theorem Fibre.await_slotSys (f : Fibre) (d u : Nat) : (f.await d u).slotSys = f.slotSys := rfl
@[simp] theorem Fibre.await_fst (f : Fibre) (d u : Nat) : (f.await d u).fst = f.fst := rfl
@[simp] theorem Fibre.await_ft (f : Fibre) (d u : Nat) : (f.await d u).ft = f.ft := rfl
@[simp] theorem Fibre.await_gwmax (f : Fibre) (d u : Nat) : (f.await d u).gwmax = f.gwmax := rfl
@[simp] theorem Fibre.await_rstack (f : Fibre) (d u : Nat) : (f.await d u).rstack = f.rstack := rfl
@[simp] theorem Fibre.await_depth (f : Fibre) (d u : Nat) : (f.await d u).depth = f.depth := rfl
@[simp] theorem Fibre.await_rstart (f : Fibre) (d u : Nat) : (f.await d u).rstart = f.rstart := rfl
@[simp] theorem Fibre.await_rstartDepth (f : Fibre) (d u : Nat) : (f.await d u).rstartDepth = f.rstartDepth := rfl
@[simp] theorem Fibre.await_region (f : Fibre) (d u : Nat) : (f.await d u).region = f.region := rfl
@[simp] theorem Fibre.await_tpc (f : Fibre) (d u : Nat) : (f.await d u).tpc = f.tpc := rfl
@[simp] theorem Fibre.await_tcause (f : Fibre) (d u : Nat) : (f.await d u).tcause = f.tcause := rfl
@[simp] theorem Fibre.await_tval (f : Fibre) (d u : Nat) : (f.await d u).tval = f.tval := rfl
@[simp] theorem Fibre.await_hints (f : Fibre) (d u : Nat) : (f.await d u).hints = f.hints := rfl
@[simp] theorem Fibre.await_runCount (f : Fibre) (d u : Nat) : (f.await d u).runCount = f.runCount := rfl
@[simp] theorem Fibre.await_ir (f : Fibre) (d u : Nat) : (f.await d u).ir = f.ir := rfl
@[simp] theorem Fibre.await_yieldAtEnd (f : Fibre) (d u : Nat) : (f.await d u).yieldAtEnd = f.yieldAtEnd := rfl
@[simp] theorem Fibre.await_boostAtEnd (f : Fibre) (d u : Nat) : (f.await d u).boostAtEnd = f.boostAtEnd := rfl
@[simp] theorem Fibre.await_status (f : Fibre) (d u : Nat) : (f.await d u).status = f.status := rfl
@[simp] theorem Fibre.await_age (f : Fibre) (d u : Nat) : (f.await d u).age = f.age := rfl
@[simp] theorem Fibre.await_passes (f : Fibre) (d u : Nat) : (f.await d u).passes = f.passes := rfl
@[simp] theorem Fibre.await_boost (f : Fibre) (d u : Nat) : (f.await d u).boost = f.boost := rfl
@[simp] theorem Fibre.await_seq (f : Fibre) (d u : Nat) : (f.await d u).seq = f.seq := rfl
@[simp] theorem Fibre.await_posted (f : Fibre) (d u : Nat) : (f.await d u).posted = f.posted := rfl
@[simp] theorem Fibre.await_serving (f : Fibre) (d u : Nat) : (f.await d u).serving = f.serving := rfl
@[simp] theorem Fibre.await_acqHold (f : Fibre) (d u : Nat) : (f.await d u).acqHold = f.acqHold := rfl
@[simp] theorem Fibre.await_relHold (f : Fibre) (d u : Nat) : (f.await d u).relHold = f.relHold := rfl
@[simp] theorem Fibre.await_task (f : Fibre) (d u : Nat) : (f.await d u).task = f.task := rfl
@[simp] theorem Fibre.await_keptTask (f : Fibre) (d u : Nat) : (f.await d u).keptTask = f.keptTask := rfl
@[simp] theorem Fibre.await_arrivedStep (f : Fibre) (d u : Nat) : (f.await d u).arrivedStep = f.arrivedStep := rfl
@[simp] theorem Fibre.await_arrivedRope (f : Fibre) (d u : Nat) : (f.await d u).arrivedRope = f.arrivedRope := rfl
@[simp] theorem Fibre.await_tableWord (f : Fibre) (d u : Nat) : (f.await d u).tableWord = f.tableWord := rfl
@[simp] theorem Fibre.await_afterCommit (f : Fibre) (d u : Nat) : (f.await d u).afterCommit = f.afterCommit := rfl
@[simp] theorem Fibre.await_nextSafe (f : Fibre) (d u : Nat) : (f.await d u).nextSafe = f.nextSafe := rfl
@[simp] theorem Fibre.await_saved (f : Fibre) (d u : Nat) : (f.await d u).saved = f.saved := rfl

@[simp] theorem Fibre.setFlags_key (f : Fibre) (fl : Word) : (f.setFlags fl).key = f.key := rfl
@[simp] theorem Fibre.setFlags_core (f : Fibre) (fl : Word) : (f.setFlags fl).core = f.core := rfl
@[simp] theorem Fibre.setFlags_part (f : Fibre) (fl : Word) : (f.setFlags fl).part = f.part := rfl
@[simp] theorem Fibre.setFlags_role (f : Fibre) (fl : Word) : (f.setFlags fl).role = f.role := rfl
@[simp] theorem Fibre.setFlags_window (f : Fibre) (fl : Word) : (f.setFlags fl).window = f.window := rfl
@[simp] theorem Fibre.setFlags_pc (f : Fibre) (fl : Word) : (f.setFlags fl).pc = f.pc := rfl
@[simp] theorem Fibre.setFlags_spc (f : Fibre) (fl : Word) : (f.setFlags fl).spc = f.spc := rfl
@[simp] theorem Fibre.setFlags_pw (f : Fibre) (fl : Word) : (f.setFlags fl).pw = f.pw := rfl
@[simp] theorem Fibre.setFlags_g (f : Fibre) (fl : Word) : (f.setFlags fl).g = f.g := rfl
@[simp] theorem Fibre.setFlags_notReady (f : Fibre) (fl : Word) : (f.setFlags fl).notReady = f.notReady := rfl
@[simp] theorem Fibre.setFlags_lat (f : Fibre) (fl : Word) : (f.setFlags fl).lat = f.lat := rfl
@[simp] theorem Fibre.setFlags_slotTeam (f : Fibre) (fl : Word) : (f.setFlags fl).slotTeam = f.slotTeam := rfl
@[simp] theorem Fibre.setFlags_slotSys (f : Fibre) (fl : Word) : (f.setFlags fl).slotSys = f.slotSys := rfl
@[simp] theorem Fibre.setFlags_ft (f : Fibre) (fl : Word) : (f.setFlags fl).ft = f.ft := rfl
@[simp] theorem Fibre.setFlags_gwmax (f : Fibre) (fl : Word) : (f.setFlags fl).gwmax = f.gwmax := rfl
@[simp] theorem Fibre.setFlags_rstack (f : Fibre) (fl : Word) : (f.setFlags fl).rstack = f.rstack := rfl
@[simp] theorem Fibre.setFlags_depth (f : Fibre) (fl : Word) : (f.setFlags fl).depth = f.depth := rfl
@[simp] theorem Fibre.setFlags_rstart (f : Fibre) (fl : Word) : (f.setFlags fl).rstart = f.rstart := rfl
@[simp] theorem Fibre.setFlags_rstartDepth (f : Fibre) (fl : Word) : (f.setFlags fl).rstartDepth = f.rstartDepth := rfl
@[simp] theorem Fibre.setFlags_region (f : Fibre) (fl : Word) : (f.setFlags fl).region = f.region := rfl
@[simp] theorem Fibre.setFlags_tpc (f : Fibre) (fl : Word) : (f.setFlags fl).tpc = f.tpc := rfl
@[simp] theorem Fibre.setFlags_tcause (f : Fibre) (fl : Word) : (f.setFlags fl).tcause = f.tcause := rfl
@[simp] theorem Fibre.setFlags_tval (f : Fibre) (fl : Word) : (f.setFlags fl).tval = f.tval := rfl
@[simp] theorem Fibre.setFlags_hints (f : Fibre) (fl : Word) : (f.setFlags fl).hints = f.hints := rfl
@[simp] theorem Fibre.setFlags_runCount (f : Fibre) (fl : Word) : (f.setFlags fl).runCount = f.runCount := rfl
@[simp] theorem Fibre.setFlags_ir (f : Fibre) (fl : Word) : (f.setFlags fl).ir = f.ir := rfl
@[simp] theorem Fibre.setFlags_yieldAtEnd (f : Fibre) (fl : Word) : (f.setFlags fl).yieldAtEnd = f.yieldAtEnd := rfl
@[simp] theorem Fibre.setFlags_boostAtEnd (f : Fibre) (fl : Word) : (f.setFlags fl).boostAtEnd = f.boostAtEnd := rfl
@[simp] theorem Fibre.setFlags_status (f : Fibre) (fl : Word) : (f.setFlags fl).status = f.status := rfl
@[simp] theorem Fibre.setFlags_age (f : Fibre) (fl : Word) : (f.setFlags fl).age = f.age := rfl
@[simp] theorem Fibre.setFlags_passes (f : Fibre) (fl : Word) : (f.setFlags fl).passes = f.passes := rfl
@[simp] theorem Fibre.setFlags_boost (f : Fibre) (fl : Word) : (f.setFlags fl).boost = f.boost := rfl
@[simp] theorem Fibre.setFlags_seq (f : Fibre) (fl : Word) : (f.setFlags fl).seq = f.seq := rfl
@[simp] theorem Fibre.setFlags_posted (f : Fibre) (fl : Word) : (f.setFlags fl).posted = f.posted := rfl
@[simp] theorem Fibre.setFlags_serving (f : Fibre) (fl : Word) : (f.setFlags fl).serving = f.serving := rfl
@[simp] theorem Fibre.setFlags_acqHold (f : Fibre) (fl : Word) : (f.setFlags fl).acqHold = f.acqHold := rfl
@[simp] theorem Fibre.setFlags_relHold (f : Fibre) (fl : Word) : (f.setFlags fl).relHold = f.relHold := rfl
@[simp] theorem Fibre.setFlags_task (f : Fibre) (fl : Word) : (f.setFlags fl).task = f.task := rfl
@[simp] theorem Fibre.setFlags_keptTask (f : Fibre) (fl : Word) : (f.setFlags fl).keptTask = f.keptTask := rfl
@[simp] theorem Fibre.setFlags_arrivedStep (f : Fibre) (fl : Word) : (f.setFlags fl).arrivedStep = f.arrivedStep := rfl
@[simp] theorem Fibre.setFlags_arrivedRope (f : Fibre) (fl : Word) : (f.setFlags fl).arrivedRope = f.arrivedRope := rfl
@[simp] theorem Fibre.setFlags_tableWord (f : Fibre) (fl : Word) : (f.setFlags fl).tableWord = f.tableWord := rfl
@[simp] theorem Fibre.setFlags_afterCommit (f : Fibre) (fl : Word) : (f.setFlags fl).afterCommit = f.afterCommit := rfl
@[simp] theorem Fibre.setFlags_nextSafe (f : Fibre) (fl : Word) : (f.setFlags fl).nextSafe = f.nextSafe := rfl
@[simp] theorem Fibre.setFlags_saved (f : Fibre) (fl : Word) : (f.setFlags fl).saved = f.saved := rfl

@[simp] theorem Fibre.holdAcq_key (f : Fibre) (b : Bool) : (f.holdAcq b).key = f.key := rfl
@[simp] theorem Fibre.holdAcq_core (f : Fibre) (b : Bool) : (f.holdAcq b).core = f.core := rfl
@[simp] theorem Fibre.holdAcq_part (f : Fibre) (b : Bool) : (f.holdAcq b).part = f.part := rfl
@[simp] theorem Fibre.holdAcq_role (f : Fibre) (b : Bool) : (f.holdAcq b).role = f.role := rfl
@[simp] theorem Fibre.holdAcq_window (f : Fibre) (b : Bool) : (f.holdAcq b).window = f.window := rfl
@[simp] theorem Fibre.holdAcq_pc (f : Fibre) (b : Bool) : (f.holdAcq b).pc = f.pc := rfl
@[simp] theorem Fibre.holdAcq_spc (f : Fibre) (b : Bool) : (f.holdAcq b).spc = f.spc := rfl
@[simp] theorem Fibre.holdAcq_pw (f : Fibre) (b : Bool) : (f.holdAcq b).pw = f.pw := rfl
@[simp] theorem Fibre.holdAcq_g (f : Fibre) (b : Bool) : (f.holdAcq b).g = f.g := rfl
@[simp] theorem Fibre.holdAcq_notReady (f : Fibre) (b : Bool) : (f.holdAcq b).notReady = f.notReady := rfl
@[simp] theorem Fibre.holdAcq_lat (f : Fibre) (b : Bool) : (f.holdAcq b).lat = f.lat := rfl
@[simp] theorem Fibre.holdAcq_slotTeam (f : Fibre) (b : Bool) : (f.holdAcq b).slotTeam = f.slotTeam := rfl
@[simp] theorem Fibre.holdAcq_slotSys (f : Fibre) (b : Bool) : (f.holdAcq b).slotSys = f.slotSys := rfl
@[simp] theorem Fibre.holdAcq_fst (f : Fibre) (b : Bool) : (f.holdAcq b).fst = f.fst := rfl
@[simp] theorem Fibre.holdAcq_ft (f : Fibre) (b : Bool) : (f.holdAcq b).ft = f.ft := rfl
@[simp] theorem Fibre.holdAcq_gwmax (f : Fibre) (b : Bool) : (f.holdAcq b).gwmax = f.gwmax := rfl
@[simp] theorem Fibre.holdAcq_rstack (f : Fibre) (b : Bool) : (f.holdAcq b).rstack = f.rstack := rfl
@[simp] theorem Fibre.holdAcq_depth (f : Fibre) (b : Bool) : (f.holdAcq b).depth = f.depth := rfl
@[simp] theorem Fibre.holdAcq_rstart (f : Fibre) (b : Bool) : (f.holdAcq b).rstart = f.rstart := rfl
@[simp] theorem Fibre.holdAcq_rstartDepth (f : Fibre) (b : Bool) : (f.holdAcq b).rstartDepth = f.rstartDepth := rfl
@[simp] theorem Fibre.holdAcq_region (f : Fibre) (b : Bool) : (f.holdAcq b).region = f.region := rfl
@[simp] theorem Fibre.holdAcq_tpc (f : Fibre) (b : Bool) : (f.holdAcq b).tpc = f.tpc := rfl
@[simp] theorem Fibre.holdAcq_tcause (f : Fibre) (b : Bool) : (f.holdAcq b).tcause = f.tcause := rfl
@[simp] theorem Fibre.holdAcq_tval (f : Fibre) (b : Bool) : (f.holdAcq b).tval = f.tval := rfl
@[simp] theorem Fibre.holdAcq_hints (f : Fibre) (b : Bool) : (f.holdAcq b).hints = f.hints := rfl
@[simp] theorem Fibre.holdAcq_runCount (f : Fibre) (b : Bool) : (f.holdAcq b).runCount = f.runCount := rfl
@[simp] theorem Fibre.holdAcq_ir (f : Fibre) (b : Bool) : (f.holdAcq b).ir = f.ir := rfl
@[simp] theorem Fibre.holdAcq_yieldAtEnd (f : Fibre) (b : Bool) : (f.holdAcq b).yieldAtEnd = f.yieldAtEnd := rfl
@[simp] theorem Fibre.holdAcq_boostAtEnd (f : Fibre) (b : Bool) : (f.holdAcq b).boostAtEnd = f.boostAtEnd := rfl
@[simp] theorem Fibre.holdAcq_status (f : Fibre) (b : Bool) : (f.holdAcq b).status = f.status := rfl
@[simp] theorem Fibre.holdAcq_age (f : Fibre) (b : Bool) : (f.holdAcq b).age = f.age := rfl
@[simp] theorem Fibre.holdAcq_passes (f : Fibre) (b : Bool) : (f.holdAcq b).passes = f.passes := rfl
@[simp] theorem Fibre.holdAcq_boost (f : Fibre) (b : Bool) : (f.holdAcq b).boost = f.boost := rfl
@[simp] theorem Fibre.holdAcq_seq (f : Fibre) (b : Bool) : (f.holdAcq b).seq = f.seq := rfl
@[simp] theorem Fibre.holdAcq_posted (f : Fibre) (b : Bool) : (f.holdAcq b).posted = f.posted := rfl
@[simp] theorem Fibre.holdAcq_serving (f : Fibre) (b : Bool) : (f.holdAcq b).serving = f.serving := rfl
@[simp] theorem Fibre.holdAcq_relHold (f : Fibre) (b : Bool) : (f.holdAcq b).relHold = f.relHold := rfl
@[simp] theorem Fibre.holdAcq_task (f : Fibre) (b : Bool) : (f.holdAcq b).task = f.task := rfl
@[simp] theorem Fibre.holdAcq_keptTask (f : Fibre) (b : Bool) : (f.holdAcq b).keptTask = f.keptTask := rfl
@[simp] theorem Fibre.holdAcq_arrivedStep (f : Fibre) (b : Bool) : (f.holdAcq b).arrivedStep = f.arrivedStep := rfl
@[simp] theorem Fibre.holdAcq_arrivedRope (f : Fibre) (b : Bool) : (f.holdAcq b).arrivedRope = f.arrivedRope := rfl
@[simp] theorem Fibre.holdAcq_tableWord (f : Fibre) (b : Bool) : (f.holdAcq b).tableWord = f.tableWord := rfl
@[simp] theorem Fibre.holdAcq_afterCommit (f : Fibre) (b : Bool) : (f.holdAcq b).afterCommit = f.afterCommit := rfl
@[simp] theorem Fibre.holdAcq_nextSafe (f : Fibre) (b : Bool) : (f.holdAcq b).nextSafe = f.nextSafe := rfl
@[simp] theorem Fibre.holdAcq_saved (f : Fibre) (b : Bool) : (f.holdAcq b).saved = f.saved := rfl

@[simp] theorem Fibre.pastWord_key (f : Fibre) (x : Bool) : (f.pastWord x).key = f.key := by cases x <;> rfl
@[simp] theorem Fibre.pastWord_core (f : Fibre) (x : Bool) : (f.pastWord x).core = f.core := by cases x <;> rfl
@[simp] theorem Fibre.pastWord_part (f : Fibre) (x : Bool) : (f.pastWord x).part = f.part := by cases x <;> rfl
@[simp] theorem Fibre.pastWord_role (f : Fibre) (x : Bool) : (f.pastWord x).role = f.role := by cases x <;> rfl
@[simp] theorem Fibre.pastWord_window (f : Fibre) (x : Bool) : (f.pastWord x).window = f.window := by cases x <;> rfl
@[simp] theorem Fibre.pastWord_spc (f : Fibre) (x : Bool) : (f.pastWord x).spc = f.spc := by cases x <;> rfl
@[simp] theorem Fibre.pastWord_pw (f : Fibre) (x : Bool) : (f.pastWord x).pw = f.pw := by cases x <;> rfl
@[simp] theorem Fibre.pastWord_g (f : Fibre) (x : Bool) : (f.pastWord x).g = f.g := by cases x <;> rfl
@[simp] theorem Fibre.pastWord_notReady (f : Fibre) (x : Bool) : (f.pastWord x).notReady = f.notReady := by cases x <;> rfl
@[simp] theorem Fibre.pastWord_lat (f : Fibre) (x : Bool) : (f.pastWord x).lat = f.lat := by cases x <;> rfl
@[simp] theorem Fibre.pastWord_slotTeam (f : Fibre) (x : Bool) : (f.pastWord x).slotTeam = f.slotTeam := by cases x <;> rfl
@[simp] theorem Fibre.pastWord_slotSys (f : Fibre) (x : Bool) : (f.pastWord x).slotSys = f.slotSys := by cases x <;> rfl
@[simp] theorem Fibre.pastWord_fst (f : Fibre) (x : Bool) : (f.pastWord x).fst = f.fst := by cases x <;> rfl
@[simp] theorem Fibre.pastWord_ft (f : Fibre) (x : Bool) : (f.pastWord x).ft = f.ft := by cases x <;> rfl
@[simp] theorem Fibre.pastWord_gwmax (f : Fibre) (x : Bool) : (f.pastWord x).gwmax = f.gwmax := by cases x <;> rfl
@[simp] theorem Fibre.pastWord_rstack (f : Fibre) (x : Bool) : (f.pastWord x).rstack = f.rstack := by cases x <;> rfl
@[simp] theorem Fibre.pastWord_depth (f : Fibre) (x : Bool) : (f.pastWord x).depth = f.depth := by cases x <;> rfl
@[simp] theorem Fibre.pastWord_rstart (f : Fibre) (x : Bool) : (f.pastWord x).rstart = f.rstart := by cases x <;> rfl
@[simp] theorem Fibre.pastWord_rstartDepth (f : Fibre) (x : Bool) : (f.pastWord x).rstartDepth = f.rstartDepth := by cases x <;> rfl
@[simp] theorem Fibre.pastWord_region (f : Fibre) (x : Bool) : (f.pastWord x).region = f.region := by cases x <;> rfl
@[simp] theorem Fibre.pastWord_tpc (f : Fibre) (x : Bool) : (f.pastWord x).tpc = f.tpc := by cases x <;> rfl
@[simp] theorem Fibre.pastWord_tcause (f : Fibre) (x : Bool) : (f.pastWord x).tcause = f.tcause := by cases x <;> rfl
@[simp] theorem Fibre.pastWord_tval (f : Fibre) (x : Bool) : (f.pastWord x).tval = f.tval := by cases x <;> rfl
@[simp] theorem Fibre.pastWord_ir (f : Fibre) (x : Bool) : (f.pastWord x).ir = f.ir := by cases x <;> rfl
@[simp] theorem Fibre.pastWord_status (f : Fibre) (x : Bool) : (f.pastWord x).status = f.status := by cases x <;> rfl
@[simp] theorem Fibre.pastWord_age (f : Fibre) (x : Bool) : (f.pastWord x).age = f.age := by cases x <;> rfl
@[simp] theorem Fibre.pastWord_passes (f : Fibre) (x : Bool) : (f.pastWord x).passes = f.passes := by cases x <;> rfl
@[simp] theorem Fibre.pastWord_boost (f : Fibre) (x : Bool) : (f.pastWord x).boost = f.boost := by cases x <;> rfl
@[simp] theorem Fibre.pastWord_seq (f : Fibre) (x : Bool) : (f.pastWord x).seq = f.seq := by cases x <;> rfl
@[simp] theorem Fibre.pastWord_posted (f : Fibre) (x : Bool) : (f.pastWord x).posted = f.posted := by cases x <;> rfl
@[simp] theorem Fibre.pastWord_serving (f : Fibre) (x : Bool) : (f.pastWord x).serving = f.serving := by cases x <;> rfl
@[simp] theorem Fibre.pastWord_acqHold (f : Fibre) (x : Bool) : (f.pastWord x).acqHold = f.acqHold := by cases x <;> rfl
@[simp] theorem Fibre.pastWord_relHold (f : Fibre) (x : Bool) : (f.pastWord x).relHold = f.relHold := by cases x <;> rfl
@[simp] theorem Fibre.pastWord_task (f : Fibre) (x : Bool) : (f.pastWord x).task = f.task := by cases x <;> rfl
@[simp] theorem Fibre.pastWord_keptTask (f : Fibre) (x : Bool) : (f.pastWord x).keptTask = f.keptTask := by cases x <;> rfl
@[simp] theorem Fibre.pastWord_arrivedStep (f : Fibre) (x : Bool) : (f.pastWord x).arrivedStep = f.arrivedStep := by cases x <;> rfl
@[simp] theorem Fibre.pastWord_arrivedRope (f : Fibre) (x : Bool) : (f.pastWord x).arrivedRope = f.arrivedRope := by cases x <;> rfl
@[simp] theorem Fibre.pastWord_tableWord (f : Fibre) (x : Bool) : (f.pastWord x).tableWord = f.tableWord := by cases x <;> rfl
@[simp] theorem Fibre.pastWord_afterCommit (f : Fibre) (x : Bool) : (f.pastWord x).afterCommit = f.afterCommit := by cases x <;> rfl
@[simp] theorem Fibre.pastWord_nextSafe (f : Fibre) (x : Bool) : (f.pastWord x).nextSafe = f.nextSafe := by cases x <;> rfl
@[simp] theorem Fibre.pastWord_saved (f : Fibre) (x : Bool) : (f.pastWord x).saved = f.saved := by cases x <;> rfl
@[simp] theorem Fibre.pastWord_pc (f : Fibre) (x : Bool) : (f.pastWord x).pc = f.pc + 4 := by cases x <;> rfl
@[simp] theorem Fibre.pastWord_hints (f : Fibre) (x : Bool) : (f.pastWord x).hints = Hints.none := by cases x <;> rfl

end Sys2Proof.Machine
end

