-- ==== Sys2Proof/Laws/Frame.lean ====
section
/-! SUPPORT. What the frame of a word does: the fibre it leaves, the batches, and that everything else stays; the checks
of operands when every operand is fine. -/

namespace Sys2Proof.Machine

/-! ### Finding fibres -/

theorem find_key_eq {l : List Fibre} {k : FKey} {f : Fibre} (h : l.find? (fun x => decide (x.key = k)) = some f) :
    f.key = k := by
  have := List.find?_some h
  simpa using this

theorem State.fibre?_key {s : State} {k : FKey} {f : Fibre} (h : s.fibre? k = some f) : f.key = k := find_key_eq h

theorem State.cur_fibre? {s : State} {f : Fibre} (h : s.cur = some f) : s.fibre? f.key = some f := by
  unfold State.cur at h
  split at h
  · cases h
  · rename_i b r hb
    cases hm : b.members.head? with
    | none => simp [hm] at h
    | some k =>
      simp [hm] at h
      rw [State.fibre?_key h]; exact h

theorem find_map_same (l : List Fibre) (g : Fibre) (h : (l.find? fun x => decide (x.key = g.key)).isSome) :
    (l.map fun x => if x.key = g.key then g else x).find? (fun x => decide (x.key = g.key)) = some g := by
  induction l with
  | nil => simp at h
  | cons x r ih =>
    by_cases hx : x.key = g.key
    · simp [hx]
    · simp only [List.find?_cons, hx, decide_false, List.map_cons, if_false] at h ⊢
      exact ih h

theorem find_map_other (l : List Fibre) (g : Fibre) (k : FKey) (hk : k ≠ g.key) :
    (l.map fun x => if x.key = g.key then g else x).find? (fun x => decide (x.key = k)) =
      l.find? (fun x => decide (x.key = k)) := by
  induction l with
  | nil => rfl
  | cons x r ih =>
    by_cases hx : x.key = g.key
    · have h1 : ¬ g.key = k := fun e => hk e.symm
      have h2 : ¬ x.key = k := fun e => hk (e ▸ hx.symm ▸ rfl)
      simp only [List.map_cons, hx, if_true, List.find?_cons, h1, decide_false]
      rw [ih]
    · simp only [List.map_cons, hx, if_false, List.find?_cons]
      split
      · rfl
      · exact ih

/-- The fibre that replaces another of its key is found under it. -/
theorem State.setFibre_same (s : State) (g : Fibre) (h : (s.fibre? g.key).isSome) :
    (s.setFibre g).fibre? g.key = some g := find_map_same _ _ h

/-- No other fibre is changed. -/
theorem State.setFibre_other (s : State) (g : Fibre) (k : FKey) (hk : k ≠ g.key) :
    (s.setFibre g).fibre? k = s.fibre? k := find_map_other _ _ _ hk

/-! ### Batches -/

@[simp] theorem State.leaveBatch_fibre? (s : State) (k k' : FKey) (b : Bool) : (s.leaveBatch k b).fibre? k' = s.fibre? k' := by
  unfold State.leaveBatch; split <;> rfl

@[simp] theorem State.nextMember_fibre? (s : State) (k' : FKey) : s.nextMember.fibre? k' = s.fibre? k' := by
  unfold State.nextMember; split <;> rfl

theorem State.leaveBatch_eq (s : State) (k : FKey) (b : Bool) : s.leaveBatch k b = { s with batches := (s.leaveBatch k b).batches } := by
  unfold State.leaveBatch; split <;> rfl

theorem State.nextMember_eq (s : State) : s.nextMember = { s with batches := s.nextMember.batches } := by
  unfold State.nextMember; split <;> rfl

theorem State.leaveBatch_batches (s : State) (g : Fibre) (k : FKey) (b : Bool) :
    ((s.setFibre g).leaveBatch k b).batches = (s.leaveBatch k b).batches := by
  simp only [State.leaveBatch, State.setFibre_batches]; split <;> rfl

theorem State.nextMember_batches (s : State) (g : Fibre) : (s.setFibre g).nextMember.batches = s.nextMember.batches := by
  simp only [State.nextMember, State.setFibre_batches]; split <;> rfl

theorem SameBytes.of_eq {s t : State} (hm : t.m = s.m) (ht : t.ftime = s.ftime) : SameBytes s t := by
  intro pa; simp only [State.byteAt, hm, ht]

/-- What the end of a word that goes on leaves. -/
theorem finish_next (s' : State) (f' : Fibre) (e : Bool) (k : FKey) (hk : f'.key = k) (hs : (s'.fibre? k).isSome) :
    ∃ g, FibreOf s' (s'.finish e k (.next s' (f'.pastWord true))) k g ∧
      (s'.finish e k (.next s' (f'.pastWord true))).batches = turned s' k e ∧ Moved f' g e ∧
      (s'.finish e k (.next s' (f'.pastWord true))).m = s'.m ∧
      (s'.finish e k (.next s' (f'.pastWord true))).ftime = s'.ftime := by
  subst hk
  cases e
  · refine ⟨f'.pastWord true, ⟨?_, ?_, ?_⟩, ?_, ⟨rfl, rfl, rfl, rfl⟩, ?_, ?_⟩
    · simp only [State.finish, Bool.false_eq_true, if_false, State.nextMember_fibre?]
      exact State.setFibre_same _ _ hs
    · intro k' hk'
      simp only [State.finish, Bool.false_eq_true, if_false, State.nextMember_fibre?]
      exact State.setFibre_other _ _ _ hk'
    · simp only [State.finish, Bool.false_eq_true, if_false]
      rw [State.nextMember_eq]; rfl
    · simp only [State.finish, Bool.false_eq_true, if_false, turned, State.nextMember_batches]
    · simp only [State.finish, Bool.false_eq_true, if_false]
      rw [State.nextMember_eq]; rfl
    · simp only [State.finish, Bool.false_eq_true, if_false]
      rw [State.nextMember_eq]; rfl
  · refine ⟨(f'.pastWord true).endRun (f'.pastWord true).pc s'.ftime, ⟨?_, ?_, ?_⟩, ?_, ⟨rfl, rfl, rfl, rfl⟩, ?_, ?_⟩
    · simp only [State.finish, if_true, State.leaveBatch_fibre?]
      exact State.setFibre_same s' ((f'.pastWord true).endRun (f'.pastWord true).pc s'.ftime) hs
    · intro k' hk'
      simp only [State.finish, if_true, State.leaveBatch_fibre?]
      exact State.setFibre_other s' ((f'.pastWord true).endRun (f'.pastWord true).pc s'.ftime) _ hk'
    · simp only [State.finish, if_true]
      rw [State.leaveBatch_eq]; rfl
    · simp only [State.finish, if_true, turned, State.leaveBatch_batches]
    · simp only [State.finish, if_true]
      rw [State.leaveBatch_eq]; rfl
    · simp only [State.finish, if_true]
      rw [State.leaveBatch_eq]; rfl

theorem State.finish_irrel (s s' : State) (e : Bool) (k : FKey) (f : Fibre) :
    s.finish e k (.next s' f) = s'.finish e k (.next s' f) := rfl

/-- A word that goes on, in the frame: what a statement `Does` needs of the word's own action. -/
theorem does_next {i : Instr} {s s' : State} {f f' : Fibre} {e : Bool} {pg : BitVec 3} {pn fixed : Bool}
    {act : State → Fibre → WordOut} (hx : exec i s = runWord e pg pn fixed act s) (hi : Issues s f pg pn)
    (ha : act s f = .next s' f') (hk : f'.key = f.key) (hs : (s'.fibre? f.key).isSome)
    (hb : ∀ t : State, t.m = s'.m → t.ftime = s'.ftime → SameBytes s t) : Does i s f e s' f' := by
  obtain ⟨hc, hg⟩ := hi
  obtain ⟨g, h1, h2, h3, h4, h5⟩ := finish_next s' f' e f.key hk hs
  refine ⟨_, g, ?_, h1, h2, h3, hb _ h4 h5⟩
  rw [hx]; simp only [runWord, hc, hg, if_true, ha]; rfl

/-- A word that changes nothing of the machine but its fibre. -/
theorem does_fibre {i : Instr} {s : State} {f f' : Fibre} {e : Bool} {pg : BitVec 3} {pn fixed : Bool}
    {act : State → Fibre → WordOut} (hx : exec i s = runWord e pg pn fixed act s) (hi : Issues s f pg pn)
    (ha : act s f = .next s f') (hk : f'.key = f.key) : Does i s f e s f' :=
  does_next hx hi ha hk (by rw [State.cur_fibre? hi.1]; rfl) fun _ hm ht => SameBytes.of_eq hm ht

/-! ### The i-cache (R71) -/

/-- An eviction of the i-cache changes only its lines and the counter of free values. -/
theorem evictCode_eq (s : State) (core : Nat) :
    s.evictCode core = { s with icache := (s.evictCode core).icache, fresh := (s.evictCode core).fresh } := by
  unfold State.evictCode; split <;> rfl

/-- A fill of it that needs no line of elsewhere changes only its lines, and drops the lines fetched for it. -/
theorem fillCode_eq {s t : State} {f : Fibre} {l : Launch} {pc : Word} (h : s.fillCode f l pc = .ok t) :
    t = { s with icache := t.icache, fab := t.fab } := by
  unfold State.fillCode at h
  split at h
  · cases h; rfl
  · cases e : s.lineMarks l (dieOfCore f.core) ((pc.toNat / 128 * 128 - l.text) / 4) 32 <;> simp only [e, Except.map] at h <;> cases h
    rfl

/-- So do the two fills of a word. -/
theorem withMarks_eq {s t : State} {f : Fibre} (h : s.withMarks f = .ok t) : t = { s with icache := t.icache, fab := t.fab } := by
  unfold State.withMarks at h
  split at h
  · cases h; rfl
  · rename_i l _
    cases e : s.fillCode f l f.pc <;> simp only [e, Except.bind] at h
    · cases h
    · rw [fillCode_eq h, fillCode_eq e]

/-! ### Operands -/

theorem leastField_map_none {l : List Opd} {p : Opd → Bool} (h : ∀ o ∈ l, p o = false) :
    leastField ((l.filter p).map (·.field)) = none := by
  have : l.filter p = [] := List.filter_eq_nil_iff.2 fun o ho => by simp [h o ho]
  simp [this, leastField]

/-- With every operand fine the checks of R54 pass. -/
theorem checkOpds_ok {f : Fibre} {opds : List Opd} {bad : List Nat} (h : Ready f opds bad) : checkOpds f opds bad = .ok := by
  obtain ⟨hb, ho⟩ := h
  subst hb
  simp only [checkOpds, List.nil_append, leastField_map_none (fun o h => (ho o h).1),
    leastField_map_none (fun o h => (ho o h).2.1)]
  have : opds.any (fun o => o.notReady f) = false := by
    simp only [List.any_eq_false]; intro o h'; simp [(ho o h').2.2]
  simp [this]

theorem withOpds_ok {f : Fibre} {opds : List Opd} {bad : List Nat} {act : State → Fibre → WordOut} {s : State}
    (h : Ready f opds bad) : withOpds opds bad act s f = act s f := by
  simp only [withOpds, checkOpds_ok h]

/-- The fixed-latency result as the statements write it. -/
theorem writeFixed_holding (f : Fibre) (d : BitVec 6) (v : Word) : f.writeFixed d v = f.holding d v := by
  unfold Fibre.writeFixed Fibre.holding isLatch Fibre.writeG Fibre.shift
  by_cases h : 60 ≤ d.toNat
  · simp [h]
  · by_cases h0 : d.toNat = 0 <;> simp [h, h0]

theorem holding_key (f : Fibre) (d : BitVec 6) (v : Word) : (f.holding d v).key = f.key := rfl

end Sys2Proof.Machine
end

