-- ==== Sys2Proof/Laws/Memory.lean ====
section
/-! SUPPORT. Memory: every operation keeps the canonical form; what a byte reads as after a write; when the bytes of
global memory are the same. -/

namespace Sys2Proof.Machine

/-! ### The canonical form -/

theorem wfFrom_mono {lo hi : Nat} {m : Memory} (h : lo ≤ hi) (w : Memory.wfFrom hi m = true) : Memory.wfFrom lo m = true := by
  cases m with
  | nil => rfl
  | cons p r =>
    obtain ⟨k, v⟩ := p
    simp only [Memory.wfFrom, Bool.and_eq_true, decide_eq_true_eq] at w ⊢
    exact ⟨⟨Nat.le_trans h w.1.1, w.1.2⟩, w.2⟩

theorem memPut_wfFrom (m : Memory) (lo a : Nat) (b : Byte) (h : lo ≤ a) (w : Memory.wfFrom lo m = true) :
    Memory.wfFrom lo (memPut m a b) = true := by
  induction m generalizing lo with
  | nil =>
    unfold memPut
    split
    · rfl
    · rename_i hb; simp only [Memory.wfFrom, Bool.and_eq_true, decide_eq_true_eq, bne_iff_ne]; exact ⟨⟨h, hb⟩, trivial⟩
  | cons p r ih =>
    obtain ⟨k, v⟩ := p
    simp only [Memory.wfFrom, Bool.and_eq_true, decide_eq_true_eq] at w
    obtain ⟨⟨hk, hv⟩, hr⟩ := w
    unfold memPut
    split
    · split
      · simp only [Memory.wfFrom, Bool.and_eq_true, decide_eq_true_eq]; exact ⟨⟨hk, hv⟩, hr⟩
      · rename_i hak hb
        simp only [Memory.wfFrom, Bool.and_eq_true, decide_eq_true_eq, bne_iff_ne]
        exact ⟨⟨h, hb⟩, ⟨hak, by simpa using hv⟩, hr⟩
    · split
      · split
        · exact wfFrom_mono (by omega) hr
        · rename_i he hb
          simp only [Memory.wfFrom, Bool.and_eq_true, decide_eq_true_eq, bne_iff_ne]
          exact ⟨⟨h, hb⟩, he ▸ hr⟩
      · simp only [Memory.wfFrom, Bool.and_eq_true, decide_eq_true_eq]
        exact ⟨⟨hk, hv⟩, ih (k + 1) (by omega) hr⟩

/-- A byte written keeps the canonical form. -/
theorem memPut_wf {m : Memory} (a : Nat) (b : Byte) (w : m.wf = true) : (memPut m a b).wf = true :=
  memPut_wfFrom m 0 a b (Nat.zero_le _) w

/-- Bytes written keep it. -/
theorem memPutAll_wf (bs : List (Nat × Byte)) {m : Memory} (w : m.wf = true) : (memPutAll m bs).wf = true := by
  induction bs generalizing m with
  | nil => exact w
  | cons p r ih => exact ih (memPut_wf p.1 p.2 w)

theorem memWrite_wf (a : Nat) (bs : List Byte) {m : Memory} (w : m.wf = true) : (memWrite m a bs).wf = true :=
  memPutAll_wf _ w

/-- A sector that takes another key keeps it. -/
theorem rekey_wf (key x : Nat) {m : MemState} (w : m.mem.wf = true) : (m.rekey key x).mem.wf = true := by
  unfold MemState.rekey
  by_cases h : lookupD 0 m.keys x = key
  · rw [if_pos h]; exact w
  · rw [if_neg h]; dsimp only; exact memPutAll_wf _ w

theorem foldl_rekey_wf (key : Nat) (l : List Nat) {m : MemState} (w : m.mem.wf = true) :
    (l.foldl (fun m x => m.rekey key x) m).mem.wf = true := by
  induction l generalizing m with
  | nil => exact w
  | cons x r ih => exact ih (rekey_wf key x w)

/-- What a write makes of memory when it takes effect keeps it. -/
theorem store_wf (key : Nat) (bs : List (Nat × Byte)) {m : MemState} (w : m.mem.wf = true) : (m.store key bs).mem.wf = true :=
  memPutAll_wf _ (foldl_rekey_wf key _ w)

/-- A scrambled range changes no stored byte. -/
@[simp] theorem scramble_mem (m : MemState) (pa n id : Nat) : (m.scramble pa n id).mem = m.mem := rfl

/-! Bytes sent back to a home, from an L1 or an L2, only start on their way: the stored bytes stay. -/

@[simp] theorem onMem_m (s : State) (g : MemState → MemState) : (s.onMem g).m = g s.m := rfl
@[simp] theorem sendOut_mem (s : State) (o : OutWrite) : (s.sendOut o).m.mem = s.m.mem := rfl
@[simp] theorem dropL1_mem (m : MemState) (c : Nat) (line : Place) : (m.dropL1 c line).mem = m.mem := rfl
@[simp] theorem dropL2_mem (m : MemState) (d : Nat) (line : Place) : (m.dropL2 d line).mem = m.mem := rfl

@[simp] theorem pushDieAs_mem (s : State) (u c : Nat) (line : Place) (k : WriteKind) (fs : List FKey) (cs : List Nat) :
    (s.pushDieAs u c line k fs cs).m.mem = s.m.mem := by
  unfold State.pushDieAs; dsimp only; split <;> rfl

@[simp] theorem pushDieBytes_mem (s : State) (c : Nat) (line : Place) (k : WriteKind) (fs : List FKey) (cs : List Nat) :
    (s.pushDieBytes c line k fs cs).m.mem = s.m.mem := by
  unfold State.pushDieBytes; split
  · rfl
  · exact pushDieAs_mem _ _ _ _ _ _ _

@[simp] theorem pushTeamBytes_mem (s : State) (c : Nat) (lv : Level) (line : Place) (k : WriteKind) (fs : List FKey)
    (cs : List Nat) : (s.pushTeamBytes c lv line k fs cs).m.mem = s.m.mem := by
  unfold State.pushTeamBytes; split
  · rfl
  · dsimp only; split <;> rfl

@[simp] theorem evictL1_mem (s : State) (c : Nat) (line : Place) : (s.evictL1 c line).m.mem = s.m.mem := by
  unfold State.evictL1; dsimp only; rw [pushTeamBytes_mem]; split
  · exact pushDieBytes_mem _ _ _ _ _ _
  · rfl

theorem foldl_mem {α : Type} (l : List α) (g : State → α → State) (h : ∀ s a, (g s a).m.mem = s.m.mem) (s : State) :
    (l.foldl g s).m.mem = s.m.mem := by
  induction l generalizing s with
  | nil => rfl
  | cons a r ih => exact (ih (g s a)).trans (h s a)

/-- The write-backs of a fence change no stored byte. -/
@[simp] theorem writeBacks_mem (s : State) (core scope : Nat) (fs : List FKey) (cs : List Nat) :
    (s.writeBacks core scope fs cs).m.mem = s.m.mem := by
  unfold State.writeBacks; split
  · rfl
  · dsimp only; rw [foldl_mem _ _ fun s l => pushTeamBytes_mem _ _ _ _ _ _ _]; split
    · exact foldl_mem _ _ (fun s l => pushDieBytes_mem _ _ _ _ _ _) _
    · rfl

/-- Room made in an L2 changes no stored byte. -/
@[simp] theorem roomL2_mem (s : State) (d : Nat) (line : Place) : (s.roomL2 d line).m.mem = s.m.mem := by
  unfold State.roomL2; split
  · rfl
  · dsimp only; split
    · exact pushDieAs_mem _ _ _ _ _ _ _
    · rfl

@[simp] theorem putL2_mem (s : State) (d : Nat) (line : Place) (bs : List Byte) (e : Time) (key : Nat) :
    (s.putL2 d line bs e key).m.mem = s.m.mem := by
  unfold State.putL2; dsimp only [onMem_m, dropL2_mem]; split
  · rfl
  · exact roomL2_mem _ _ _

/-- A pending write that takes effect keeps the canonical form. -/
theorem settle_wf (p : Pending) {m : MemState} (w : m.mem.wf = true) : (m.settle p).mem.wf = true := store_wf _ _ w

theorem settlePending_wf {s : State} (p : Pending) (w : s.m.mem.wf = true) : (s.settlePending p).m.mem.wf = true := by
  unfold State.settlePending
  split
  · dsimp only [onMem_m, dropL2_mem]
    split
    · exact w
    · rw [roomL2_mem]; exact w
  · exact w
  · split
    · exact w
    · exact settle_wf p w

/-- The word placed for the next step keeps it. -/
theorem withFetchWord_wf {s : State} (nbits x : Nat) (w : s.m.mem.wf = true) : (s.withFetchWord nbits x).m.mem.wf = true := by
  unfold State.withFetchWord
  dsimp only
  exact memPutAll_wf _ w

/-- Memory after reset has it. -/
theorem reset_wf : State.reset.m.mem.wf = true := rfl

/-! ### Reading -/

/-- Below the bound of a canonical memory nothing is listed. -/
theorem memGet_below {m : Memory} {lo a : Nat} (w : Memory.wfFrom lo m = true) (h : a < lo) : memGet m a = 0 := by
  cases m with
  | nil => rfl
  | cons p r =>
    obtain ⟨k, v⟩ := p
    simp only [Memory.wfFrom, Bool.and_eq_true, decide_eq_true_eq] at w
    unfold memGet
    rw [if_neg (by omega), if_pos (by omega)]

theorem memGet_memPutFrom (m : Memory) (lo a x : Nat) (b : Byte) (w : Memory.wfFrom lo m = true) :
    memGet (memPut m a b) x = if x = a then b else memGet m x := by
  induction m generalizing lo with
  | nil =>
    by_cases hb : b = 0
    · simp [memPut, hb, memGet]
    · simp only [memPut, if_neg hb, memGet]
      by_cases h : x = a
      · simp [h]
      · simp only [h, if_false, Ne.symm h]; split <;> rfl
  | cons p r ih =>
    obtain ⟨k, v⟩ := p
    simp only [Memory.wfFrom, Bool.and_eq_true, decide_eq_true_eq] at w
    obtain ⟨⟨hk, hv⟩, hr⟩ := w
    unfold memPut
    split
    · rename_i hak
      split
      · rename_i hb
        by_cases h : x = a
        · subst h; rw [if_pos rfl, hb, memGet, if_neg (by omega), if_pos hak]
        · rw [if_neg h]
      · by_cases h : x = a
        · subst h; simp [memGet]
        · rw [if_neg h, memGet, if_neg (Ne.symm h)]
          split
          · rename_i hx; rw [memGet, if_neg (by omega), if_pos (by omega)]
          · rfl
    · rename_i hak
      split
      · rename_i he
        subst he
        split
        · rename_i hb
          by_cases h : x = a
          · subst h; rw [if_pos rfl, hb]; exact memGet_below hr (by omega)
          · rw [if_neg h, memGet, if_neg (Ne.symm h)]
            split
            · exact memGet_below hr (by omega)
            · rfl
        · by_cases h : x = a
          · subst h; simp [memGet]
          · rw [if_neg h, memGet, memGet, if_neg (Ne.symm h), if_neg (Ne.symm h)]
      · rename_i hne
        by_cases h : k = x
        · subst h; rw [memGet, if_pos rfl, if_neg (Ne.symm hne), memGet, if_pos rfl]
        · rw [memGet, if_neg h, memGet, if_neg h]
          split
          · rw [if_neg (by omega)]
          · exact ih (k + 1) hr

/-- A read after a write: the byte written at its address, and what was there elsewhere. -/
theorem memGet_memPut {m : Memory} (w : m.wf = true) (a x : Nat) (b : Byte) :
    memGet (memPut m a b) x = if x = a then b else memGet m x := memGet_memPutFrom m 0 a x b w

/-- Bytes that are not written read as before. -/
theorem memGet_memPutAll_other (bs : List (Nat × Byte)) {m : Memory} (w : m.wf = true) (x : Nat)
    (h : ∀ p ∈ bs, p.1 ≠ x) : memGet (memPutAll m bs) x = memGet m x := by
  induction bs generalizing m with
  | nil => rfl
  | cons p r ih =>
    have h1 : x ≠ p.1 := fun e => h p List.mem_cons_self e.symm
    rw [memPutAll, ih (memPut_wf p.1 p.2 w) (fun q hq => h q (List.mem_cons_of_mem _ hq)), memGet_memPut w, if_neg h1]

/-- Bytes written, no address twice, read as they were written. -/
theorem memGet_memPutAll_same (bs : List (Nat × Byte)) {m : Memory} (w : m.wf = true) (n : (bs.map (·.1)).Nodup)
    {x : Nat} {b : Byte} (h : (x, b) ∈ bs) : memGet (memPutAll m bs) x = b := by
  induction bs generalizing m with
  | nil => cases h
  | cons p r ih =>
    rw [List.map_cons, List.nodup_cons] at n
    rw [memPutAll]
    rcases List.mem_cons.1 h with h | h
    · subst h
      rw [memGet_memPutAll_other r (memPut_wf _ _ w) x (fun q hq e => n.1 (List.mem_map.2 ⟨q, hq, e⟩)), memGet_memPut w,
        if_pos rfl]
    · exact ih (memPut_wf _ _ w) n.2 h

/-! ### Bytes of global memory -/

theorem pendingAt_home (m : MemState) (line : Place) :
    m.pendingAt .home line = (m.pend.filter fun p => decide (p.level = .home)).filter fun p => decide (p.line = line) := by
  unfold MemState.pendingAt
  rw [List.filter_filter]
  congr 1; funext p; rw [Bool.and_comm]

/-- Every byte reads as before when stored bytes, keys, the writes on their way to the homes and the time are as before. -/
theorem SameBytes.of_parts {s t : State} (hm : t.m.mem = s.m.mem) (hk : t.m.keys = s.m.keys)
    (hp : (t.m.pend.filter fun p => decide (p.level = .home)) = s.m.pend.filter fun p => decide (p.level = .home))
    (ht : t.ftime = s.ftime) : SameBytes s t := by
  intro pa
  unfold State.byteAt MemState.homeByte
  rw [pendingAt_home, pendingAt_home, hp, ht]
  simp only [MemState.stored, MemState.keyAt, hm, hk]

/-- It is an equality of what is read, so it can be chained. -/
theorem SameBytes.chain {s t u : State} (h : SameBytes s t) (k : SameBytes t u) : SameBytes s u :=
  fun pa => (k pa).trans (h pa)

end Sys2Proof.Machine
end

