-- ==== Sys2Proof/Tests/Slice0.lean ====
section
/-! SUPPORT. The tests of this model: ill-formed terms that are refused, words written out field by field from the
encoding chapter and what they decode to, and for each statement states that meet its hypotheses. A theorem named
`witness_…` takes the statement as its hypothesis and applies it to a concrete state, every premise decided. -/

set_option Elab.async false

noncomputable section

namespace Sys2Proof.Tests

open Sys2Proof Sys2Proof.Machine

/-- An answer that is there. -/
theorem gotE {α β : Type} {x : Except α β} (h : x.toOption.isSome = true) : x = .ok (x.toOption.get h) := by
  cases x with
  | ok _ => rfl
  | error _ => cases h

theorem okE {ε α : Type} {x : Except ε α} {a : α} (h : x.toOption = some a) : x = .ok a := by
  cases x with
  | error _ => cases h
  | ok y => exact congrArg _ (Option.some.inj h)

/-! ### Ill-formed terms are refused -/

theorem test_wf_combine_rule : (Instr.cmpEq ⟨false, 0, false⟩ 1 4 5 6).wf = false := by decide
theorem test_wf_combine_rule_imm : (Instr.cmpiTst ⟨false, 0, false⟩ 1 7 5 6).wf = false := by decide
theorem test_wf_sign_that_waits_ends_its_run : (Instr.sign ⟨false, 0, false⟩ 3 true 4 5).wf = false := by decide
theorem test_wf_redadd_that_waits_ends_its_run : (Instr.redadd ⟨false, 0, false⟩ 3 true 4 5).wf = false := by decide
theorem test_wf_wpop_that_blocks_ends_its_run : (Instr.wpop ⟨false, 0, false⟩ 1 5 true).wf = false := by decide
theorem test_wf_vec_negates_a_predicate : (Instr.hintVec 0 true 0 false false 0).wf = false := by decide
theorem test_wf_cache_policy : (Instr.hintMemo 3 true false 3).wf = false := by decide
theorem test_wf_core : (Instr.aballocGrant 264).wf = false := by decide
theorem test_wf_part : (Instr.runSelection 3 12 0 0).wf = false := by decide
theorem test_wf_function : (Instr.tinvcmd 64 0).wf = false := by decide
theorem test_wf_queue : (Instr.qcfgWrite 3 64 0).wf = false := by decide
theorem test_wf_device_queue : (Instr.deviceQueueHeadTake 8).wf = false := by decide
theorem test_wf_home : (Instr.msePartService 9 12).wf = false := by decide
theorem test_wf_worklist : (Instr.terminationSweep 8).wf = false := by decide
theorem test_wf_port : (Instr.lossOfSignal 48).wf = false := by decide
theorem test_wf_switch_die : (Instr.flowletGapExpiry 2 7 3).wf = false := by decide
theorem test_wf_link : (Instr.d2dLinkFailure 1 1).wf = false := by decide
theorem test_wf_package : (Instr.joinNotice 4096 1).wf = false := by decide
theorem test_wf_key_slot : (Instr.keyset 8192 ⟨5, true⟩).wf = false := by decide
theorem test_wf_stack : (Instr.hbmRowRemap 12 1 0).wf = false := by decide
theorem test_wf_die : (Instr.thermalTrip 4).wf = false := by decide

/-! ### Words written out from the encoding chapter (R35, R37, R45, R47) -/

/-- A word from its fields, most significant first: width and value. -/
def word (fields : List (Nat × Nat)) : W32 := BitVec.ofNat 32 (fields.foldl (fun w f => w * 2 ^ f.1 + f.2) 0)

/-- A body after MAJ, E, PG and PN. -/
def body (maj e pg pn : Nat) (rest : List (Nat × Nat)) : W32 := word ((6, maj) :: (1, e) :: (3, pg) :: (1, pn) :: rest)

/-- Formats A, I and M: FN, D, SA, SB. -/
def fmtA (maj e pg pn fn d a b : Nat) : W32 := body maj e pg pn [(3, fn), (6, d), (6, a), (6, b)]
/-- Format P: FN, PD, CB, SA, SB. -/
def fmtP (maj e pg pn fn p cb a b : Nat) : W32 := body maj e pg pn [(3, fn), (3, p), (3, cb), (6, a), (6, b)]
/-- Format L of BR and CALL. -/
def fmtL (maj e pg pn i : Nat) : W32 := body maj e pg pn [(21, i)]
/-- Format Y: FN, BL, W, SA, D. -/
def fmtY (maj e pg pn fn bl w a d : Nat) : W32 := body maj e pg pn [(3, fn), (5, bl), (1, w), (6, a), (6, d)]
/-- Format X: SCOPE, ORD, FN, SA, SB. -/
def fmtX (maj e pg pn sc o fn a b : Nat) : W32 := body maj e pg pn [(3, sc), (2, o), (4, fn), (6, a), (6, b)]
/-- Format T: BL, RU, FN, SA, SB. -/
def fmtT (maj e pg pn bl ru fn a b : Nat) : W32 := body maj e pg pn [(5, bl), (1, ru), (3, fn), (6, a), (6, b)]
/-- Format W: FN, WL, two bits of 0, D or SA, SB. -/
def fmtW (maj e pg pn fn wl a b : Nat) : W32 := body maj e pg pn [(4, fn), (3, wl), (2, 0), (6, a), (6, b)]
/-- A hint: KIND and its payload. -/
def hint (kind : Nat) (rest : List (Nat × Nat)) : W32 := word ((6, 0x3F) :: (4, kind) :: rest)

theorem test_decode_int : decodeWord (fmtA 0x01 0 0 0 0 6 4 60) = .ok (.add ⟨false, 0, false⟩ 6 4 60) :=
  okE (by decide +kernel)
theorem test_decode_inti : decodeWord (fmtA 0x02 0 2 0 0 4 5 0x24) = .ok (.intiAdd ⟨false, 2, false⟩ 4 5 0x24) :=
  okE (by decide +kernel)
theorem test_decode_shift : decodeWord (fmtA 0x05 0 0 0 0 5 1 3) = .ok (.shiftiShl ⟨false, 0, false⟩ 5 1 3) :=
  okE (by decide +kernel)
theorem test_decode_lea : decodeWord (fmtA 0x07 1 3 1 3 9 8 7) = .ok (.lea3 ⟨true, 3, true⟩ 9 8 7) := okE
    (by decide +kernel)
theorem test_decode_cmp : decodeWord (fmtP 0x08 0 1 0 2 7 3 4 5) = .ok (.cmpLt ⟨false, 1, false⟩ 7 3 4 5) :=
  okE (by decide +kernel)
theorem test_decode_cmpi : decodeWord (fmtP 0x09 0 0 0 0 2 0 7 0) = .ok (.cmpiEq ⟨false, 0, false⟩ 2 0 7 0) :=
  okE (by decide +kernel)
theorem test_decode_cmp_combine_4_is_illegal : (decodeWord (fmtP 0x08 0 1 0 2 7 4 4 5)).toOption = none := by decide +kernel
theorem test_decode_pred : decodeWord (fmtP 0x0A 0 0 0 1 0 7 3 2) = .ok (.por ⟨false, 0, false⟩ 7 3 2) :=
  okE (by decide +kernel)
theorem test_decode_li : decodeWord (body 0x0B 0 0 0 [(6, 12), (15, 0x7FFE)]) = .ok (.li ⟨false, 0, false⟩ 12 0x7FFE) :=
  okE (by decide +kernel)
theorem test_decode_sel : decodeWord (fmtA 0x0C 0 0 0 6 3 4 5) = .ok (.sel ⟨false, 0, false⟩ 6 3 4 5) :=
  okE (by decide +kernel)
theorem test_decode_setsr : decodeWord (fmtA 0x0D 0 0 0 1 0 7 8) = .ok (.setsr ⟨false, 0, false⟩ 7 8) :=
  okE (by decide +kernel)
theorem test_decode_setsr_reserved_d : (decodeWord (fmtA 0x0D 0 0 0 1 1 7 8)).toOption = none := by decide +kernel
theorem test_decode_fmul : decodeWord (fmtA 0x19 0 0 0 0 6 4 5) = .ok (.mulS2 ⟨false, 0, false⟩ 6 4 5) :=
  okE (by decide +kernel)
theorem test_decode_fma : decodeWord (fmtA 0x19 0 0 0 3 8 9 10) = .ok (.fmaS2 ⟨false, 0, false⟩ 8 9 10) :=
  okE (by decide +kernel)
theorem test_decode_cvt : decodeWord (fmtA 0x1C 1 0 0 4 7 60 8) = .ok (.cvtE4m3S2 ⟨true, 0, false⟩ 7 60 8) :=
  okE (by decide +kernel)
theorem test_decode_sfu_reserved_sb : (decodeWord (fmtA 0x1E 0 0 0 0 7 6 1)).toOption = none := by decide +kernel
theorem test_decode_expr : decodeWord (fmtA 0x1F 1 0 0 2 9 4 5) = .ok (.expr ⟨true, 0, false⟩ 2 9 4 5) :=
  okE (by decide +kernel)
theorem test_decode_br : decodeWord (fmtL 0x20 1 2 0 1) = .ok (.br ⟨2, false⟩ 1) := okE (by decide +kernel)
theorem test_decode_br_without_end : (decodeWord (fmtL 0x20 0 2 0 1)).toOption = none := by decide +kernel
theorem test_decode_ctl : decodeWord (fmtA 0x22 1 0 0 3 0 0x12 0x34) = .ok (.trap ⟨0, false⟩ 0x4B4) :=
  okE (by decide +kernel)
theorem test_decode_end : decodeWord (fmtA 0x23 1 0 0 2 0 0 3) = .ok (.endFibre ⟨0, false⟩ 0 3) := okE (by decide +kernel)
theorem test_decode_nop : decodeWord (fmtA 0x23 1 0 0 7 0 0 0) = .ok (.nop ⟨true, 0, false⟩) := okE (by decide +kernel)
theorem test_decode_fence : decodeWord (fmtA 0x24 1 0 0 0 0 0 4) = .ok (.fenceRel ⟨0, false⟩ 4) := okE (by decide +kernel)
theorem test_decode_ldaq : decodeWord (fmtA 0x24 0 0 0 3 5 6 2) = .ok (.ldaq ⟨false, 0, false⟩ 5 6 2) :=
  okE (by decide +kernel)
theorem test_decode_load : decodeWord (fmtA 0x28 1 0 0 6 6 61 1) = .ok (.ldd ⟨true, 0, false⟩ 6 61 1) :=
  okE (by decide +kernel)
theorem test_decode_store : decodeWord (fmtA 0x29 1 0 0 3 7 6 1) = .ok (.std ⟨true, 0, false⟩ 7 6 1) :=
  okE (by decide +kernel)
theorem test_decode_store_size_5 : (decodeWord (fmtA 0x29 1 0 0 5 7 6 1)).toOption = none := by decide +kernel
theorem test_decode_local_load : decodeWord (fmtA 0x2A 0 0 0 0 7 6 0x3F) = .ok (.ldbL ⟨false, 0, false⟩ 7 6 0x3F) :=
  okE (by decide +kernel)
theorem test_decode_local_store : decodeWord (fmtA 0x2B 0 0 0 4 8 6 0) = .ok (.stqL ⟨false, 0, false⟩ 8 6 0) :=
  okE (by decide +kernel)
theorem test_decode_atomic : decodeWord (fmtA 0x2C 0 0 0 1 8 4 5) = .ok (.amax ⟨false, 0, false⟩ 8 4 5) :=
  okE (by decide +kernel)
theorem test_decode_cas : decodeWord (fmtA 0x2E 0 0 0 0 8 4 5) = .ok (.cas ⟨false, 0, false⟩ 8 4 5) :=
  okE (by decide +kernel)
theorem test_decode_local_atomic : decodeWord (fmtA 0x2F 0 0 0 3 8 4 5) = .ok (.amaxuL ⟨false, 0, false⟩ 8 4 5) :=
  okE (by decide +kernel)
theorem test_decode_sign : decodeWord (fmtY 0x30 1 0 0 1 31 1 4 9) = .ok (.sign ⟨true, 0, false⟩ 31 true 4 9) :=
  okE (by decide +kernel)
theorem test_decode_sign_without_end : (decodeWord (fmtY 0x30 0 0 0 1 31 1 4 9)).toOption = none := by decide +kernel
theorem test_decode_mma : decodeWord (fmtT 0x31 1 0 0 0 0 2 41 45) = .ok (.mmaH ⟨true, 0, false⟩ 0 false 41 45) :=
  okE (by decide +kernel)
theorem test_decode_tile : decodeWord (fmtA 0x32 1 0 0 2 17 48 0) = .ok (.drain ⟨0, false⟩ 17 48 0) :=
  okE (by decide +kernel)
theorem test_decode_copy : decodeWord (fmtX 0x38 1 0 0 3 3 3 8 0) = .ok (.cpyfp ⟨0, false⟩ 3 3 8 0) :=
  okE (by decide +kernel)
theorem test_decode_gather : decodeWord (fmtX 0x39 1 0 0 3 0 0 8 9) = .ok (.gather ⟨0, false⟩ 3 0 8 9) :=
  okE (by decide +kernel)
theorem test_decode_work : decodeWord (fmtW 0x3A 1 0 0 1 0 0 28) = .ok (.wpushs ⟨0, false⟩ 0 0 28) := okE
    (by decide +kernel)
theorem test_decode_wpop : decodeWord (fmtW 0x3A 0 0 0 2 2 6 0) = .ok (.wpop ⟨false, 0, false⟩ 2 6 false) :=
  okE (by decide +kernel)
theorem test_decode_launch : decodeWord (fmtX 0x3B 1 0 0 3 1 0 8 0) = .ok (.launch ⟨0, false⟩ 3 1 8) :=
  okE (by decide +kernel)
theorem test_decode_evsig : decodeWord (fmtX 0x3B 1 0 0 3 2 1 4 5) = .ok (.evsig ⟨0, false⟩ 3 2 4 5) :=
  okE (by decide +kernel)
theorem test_decode_guard : decodeWord (fmtA 0x3C 1 0 0 0 5 0 63) = .ok (.gset ⟨0, false⟩ 5 63) := okE (by decide +kernel)
theorem test_decode_lit : decodeWord (hint 0 [(22, 1)]) = .ok (.hintLit 1) := okE (by decide +kernel)
theorem test_decode_vec : decodeWord (hint 2 [(3, 5), (1, 0), (2, 0), (1, 1), (1, 0), (6, 0), (8, 0)]) =
    .ok (.hintVec 5 false 0 true false 0) := okE (by decide +kernel)
theorem test_decode_memo : decodeWord (hint 3 [(3, 3), (1, 1), (1, 0), (2, 0), (15, 0)]) = .ok (.hintMemo 3 true false 0) :=
  okE (by decide +kernel)
theorem test_decode_memo_policy_3 : (decodeWord (hint 3 [(3, 3), (1, 1), (1, 0), (2, 3), (15, 0)])).toOption = none := by
  decide +kernel
theorem test_decode_hint_kind_7 : (decodeWord (hint 7 [(22, 0)])).toOption = none := by decide +kernel
theorem test_decode_reserved_major : (decodeWord (fmtA 0x0E 0 0 0 0 0 0 0)).toOption = none := by decide +kernel
theorem test_decode_of_nothing : (decode []).toOption = none := by decide +kernel

/-! ### Encodings give the words back -/

theorem test_encode_vec : encode (.hintVec 5 false 0 true false 0) = some 0xFCA88000 := by decide +kernel
theorem test_encode_ldd : encode (.ldd ⟨true, 0, false⟩ 6 61 1) = some 0xA2186F41 := by decide +kernel
theorem test_encode_event_has_no_word : encode (.lossOfSignal 3) = none := by decide +kernel

/-! ### States for the witnesses -/

/-- The instruction runs to a next state. -/
def Completes (i : Instr) (s : State) : Prop := ∃ t, exec i s = .next t

theorem does_completes {i s f e s' f' b} (h : Does i s f e s' f' b) : Completes i s := h.elim fun t h => h.elim fun _ h =>
    ⟨t, h.1⟩
theorem goes_completes {i s f w s' f' b} (h : Goes i s f w s' f' b) : Completes i s := h.elim fun t h => h.elim fun _ h =>
    ⟨t, h.1⟩
theorem blocks_completes {i s f w s' f' b} (h : Blocks i s f w s' f' b) : Completes i s :=
  h.elim fun t h => h.elim fun _ h => ⟨t, h.1⟩
theorem waits_completes {i s f w s' f' b} (h : WaitsInSlot i s f w s' f' b) : Completes i s :=
  h.elim fun t h => h.elim fun _ h => ⟨t, h.1⟩
theorem traps_completes {i s s' f c v t} (h : Traps i s s' f c v t) : Completes i s := ⟨_, h⟩
theorem next_completes {i s t} (h : exec i s = .next t) : Completes i s := ⟨t, h⟩
theorem some_completes {i s} {p : State → Prop} (h : ∃ t, exec i s = .next t ∧ p t) : Completes i s := h.elim fun t h =>
    ⟨t, h.1⟩

/-- The pieces of a translation that succeeds. -/
def piecesOf : XlatAll → List Piece
  | .ok ps => ps
  | _ => []

def isOk : XlatAll → Bool
  | .ok _ => true
  | _ => false

theorem okP {x : XlatAll} (h : isOk x = true) : x = .ok (piecesOf x) := by cases x <;> first | rfl | cases h

def leafOf : Xlat → Option Leaf
  | .ok l => some l
  | _ => none

theorem gotLeaf {x : Xlat} (h : (leafOf x).isSome = true) : x = .ok ((leafOf x).get h) := by
  cases x with
  | ok _ => rfl
  | _ => cases h

def walkOf : Xlat → Option (Nat × Nat × Bool)
  | .walk p f w => some (p, f, w)
  | _ => none

theorem gotWalk {x : Xlat} (h : (walkOf x).isSome = true) :
    x = .walk ((walkOf x).get h).1 ((walkOf x).get h).2.1 ((walkOf x).get h).2.2 := by
  cases x with
  | walk _ _ _ => rfl
  | _ => cases h

def isFault : Xlat → Bool
  | .ok _ => false
  | .walk _ _ _ => false
  | _ => true

theorem gotFault {x : Xlat} (h : isFault x = true) : (∀ l, x ≠ .ok l) ∧ ∀ p f w, x ≠ .walk p f w := by
  cases x with
  | ok _ => cases h
  | walk _ _ _ => cases h
  | _ => exact ⟨fun _ e => (nomatch e), fun _ _ _ e => (nomatch e)⟩

theorem got {α β : Type} {o : Option (α × β)} (h : o.isSome = true) : o = some ((o.get h).1, (o.get h).2) := by
  cases o with
  | none => cases h
  | some x => rfl

theorem got1 {α : Type} {o : Option α} (h : o.isSome = true) : o = some (o.get h) := by
  cases o with
  | none => cases h
  | some x => rfl

theorem mem_at {α : Type} (l : List α) (i : Nat) (h : i < l.length) : l[i] ∈ l := List.getElem_mem h

def violationOf : XlatAll → Option (Nat × Nat × Nat)
  | .violation a c e => some (a, c, e)
  | _ => none

theorem gotV {x : XlatAll} (h : (violationOf x).isSome = true) :
    x = .violation ((violationOf x).get h).1 ((violationOf x).get h).2.1 ((violationOf x).get h).2.2 := by
  cases x with
  | violation _ _ _ => rfl
  | _ => cases h

def pieceOf (x : XlatAll) : Piece := (piecesOf x).headD ⟨.dram 0, 0, ⟨.dram 0, false, 0, 0⟩, 0⟩

theorem okP1 {x : XlatAll} (h : (isOk x && (piecesOf x).length == 1) = true) : x = .ok [pieceOf x] := by
  cases x with
  | ok ps => match ps, h with
    | [p], _ => rfl
  | page _ _ => cases h
  | walk _ _ _ => cases h
  | violation _ _ _ => cases h

def isRepl : Place → Bool
  | .repl _ => true
  | _ => false

theorem noRepl {p : Place} (h : isRepl p = false) (pa : Nat) : p ≠ .repl pa := by rintro rfl; cases h

theorem noRepls {ps : List Piece} (h : (ps.any fun q => isRepl q.leaf.base) = false) :
    ∀ q ∈ ps, ∀ pa, q.leaf.base ≠ .repl pa := fun q hq =>
  noRepl (by simpa using List.any_eq_false.1 h q hq)

theorem noRepls2 {ps : List (Nat × Leaf)} (h : (ps.any fun q => isRepl q.2.base) = false) :
    ∀ q ∈ ps, ∀ pa, q.2.base ≠ .repl pa := fun q hq => noRepl (by simpa using List.any_eq_false.1 h q hq)

/-- The demands of a command that has them. -/
def demandsOf : Except Place (Option (List Demand)) → Option (List Demand)
  | .ok o => o
  | .error _ => none

theorem gotD {x : Except Place (Option (List Demand))} (h : (demandsOf x).isSome = true) : x = .ok (some
    ((demandsOf x).get h)) := by
  cases x with
  | error _ => cases h
  | ok o => exact congrArg _ (got1 h)

theorem gotC {α : Type} {l : List α} {a : α} (h : l.head? = some a) : l = a :: l.tail := by
  cases l with
  | nil => cases h
  | cons _ _ => simp at h; simp [h]

/-- The status with which a check fails a launch without a fault of translation. -/
def failOf {α : Type} : Look α → Option Nat
  | .fail st 0 0 => some st
  | _ => none

theorem gotF {α : Type} {x : Look α} {st : Nat} (h : failOf x = some st) : x = .fail st 0 0 := by
  unfold failOf at h
  split at h
  · cases h; rfl
  · cases h

def goodOf : Look Image → Option Image
  | .ok i => some i
  | _ => none

theorem gotI {x : Look Image} (h : (goodOf x).isSome = true) : x = .ok ((goodOf x).get h) := by
  cases x with
  | ok _ => rfl
  | _ => cases h

def pageOf {α : Type} : Look α → Option (Nat × Nat × Nat)
  | .page a c st => some (a, c, st)
  | _ => none

theorem gotPage {α : Type} {x : Look α} (h : (pageOf x).isSome = true) : x = .page ((pageOf x).get h).1
    ((pageOf x).get h).2.1 ((pageOf x).get h).2.2 := by
  cases x with
  | page _ _ _ => rfl
  | _ => cases h

/-- Sixty registers of which those listed are not zero. -/
def regsOf (l : List (Nat × Nat)) : List Word := (upFrom 0 60).map fun i => BitVec.ofNat 64 (lookupD 0 l i)

/-- The machine with one launch of one fibre, whose text is 4 KiB at 0x10000, in a page that may be written; the page after
it may be written too. -/
def base : State :=
  let s := State.reset.withFetchWord 32 0
  { s with launches := [{ placedLaunch with textSize := 0x1000 }],
           m := { s.m with mem := memWrite s.m.mem 0x20010 (bytesLE 8 (4 * 2 ^ 26 + 0xF)) } }

/-- Its fibre, with an aligned address of global memory in g4, a small number in g5, an offset of scratchpad in g6. -/
def fib : Fibre :=
  { newFibre ⟨0, 0, 0⟩ 0 0 0 60 0x10000 0 0 with g := regsOf [(4, 0x11100), (5, 7), (6, 0x100)], ir := 0x12345678 }

/-- The machine with the fibre in some other condition. -/
def S (f : Fibre) : State := base.setFibre f

def hd : Hdr := ⟨true, 0, false⟩
def gd : Gd := ⟨0, false⟩

/-- Bytes of which those listed are not zero. -/
def withBytes (l : List (Nat × Nat)) (n : Nat) : List Byte := (upFrom 0 n).map fun i => BitVec.ofNat 8 (lookupD 0 l i)

/-- The launch of the witnesses, with bytes of its descriptor changed. -/
def launchWith (l : List (Nat × Nat)) : Launch :=
  { placedLaunch with textSize := 0x1000,
                      desc := (upFrom 0 256).map fun i => BitVec.ofNat 8 (lookupD (nth 0 placedDesc i).toNat l i) }

/-- A machine with a second team of the same rope in the cluster. -/
def R (f : Fibre) : State :=
  { S f with launches := [launchWith [(40, 2), (44, 2)]], teams := (S f).teams ++ [newTeam placedLaunch 1 1] }

/-- The fibre with the address of a rope-mate's scratchpad in g6. -/
def mate : Fibre := { fib with g := regsOf [(4, 0x11100), (5, 7), (6, 0x4100100)] }

/-- The fibre in trap mode (the system vector). -/
def sysf : Fibre := { fib with fst := 0x200 }

/-- The fibre with a MEMO hint that releases at scope 3. -/
def relf : Fibre := { fib with hints := { fib.hints with memo := some ⟨3, false, true, 0⟩ } }

/-- The fibre with a full region buffer. -/
def fullf : Fibre := { fib with region := List.replicate 16 (.clwb 0 none 0) }

/-- The fibre with a store in its region buffer. -/
def someSt : RegionEnt := .store 0x11100 [⟨.dram 0x31100, 8, ⟨.dram 0x30000, true, 0, 0⟩, 0x11100⟩] (bytesLE 8 9) 0 0
def bufd : Fibre := { fib with region := [someSt] }
def matet : Fibre := { mate with fst := 0x200 }

/-- Fibres with return stacks: some entries, one spilled, a full stack. The spill area is at k16. -/
def deep (n : Nat) : Fibre :=
  { fib with g := regsOf [(4, 0x10100), (5, 7)], depth := n, rstack := List.replicate (Nat.min n 8) 0x10200#64 }

/-- The machine with k16 the address of a page that may be written. -/
def K (f : Fibre) : State := (S f).onTeam 0 0 fun t => { t with k := setNth 0 t.k 16 0x12000 }

/-- The fibre in its team's handler, with a break enabled, with TPC in .text. -/
def teamf : Fibre := { fib with fst := 0x80, tpc := 0x10040, slotTeam := ⟨some 1, none, some 2, none⟩ }
def brkf : Fibre := { fib with fst := 0x400 }

/-- The machine with a fibre of two, the second one ended, of a launch of two fibres a team. -/
def two (f g : Fibre) : State :=
  { S f with launches := [launchWith [(24, 2)]], fibres := [f, { g with key := ⟨0, 0, 1⟩ }] }
def endedf : Fibre := { fib with status := .ended }

/-- The fibre with a target in .text in g4. -/
def tof : Fibre := { bufd with g := regsOf [(4, 0x10100), (5, 1), (6, 0x10102), (7, 0x20000)] }

/-- The fibre that has arrived at STEP, and at ROPEBAR. -/
def arrf : Fibre := { fib with status := .blocked .step, arrivedStep := true }
def arrr : Fibre := { fib with status := .blocked .ropebar, arrivedRope := true }

def rttf : Fibre := { fib with fst := 0x680, tpc := 0x10040, slotSys := ⟨some 1, none, some 2, none⟩ }
/-- The machine whose team has no handler in .text. -/
def nohand (f : Fibre) : State := (S f).onTeam 0 0 fun t => { t with tvec := 0x40 }
/-- The machine that has lost the fibre's rope. -/
def lostS (f : Fibre) : State := { S f with launches := [{ launchWith [] with lost := [⟨0, 0, 0, false, false, false⟩] }] }

/-! Belays. -/

/-- The fibre with a configuration word in g4 (of `kind`, one member with FID 0; sixteen for kind 1). -/
def cfgw (kind : Nat) : Nat := (if kind = 1 then 0x110 else 0x101) + kind * 2 ^ 26
def cfgf (kind : Nat) : Fibre := { fib with g := regsOf [(4, cfgw kind), (5, 7), (6, 2 ^ 63)] }

/-- The machine with belay 3 armed with a kind, perhaps with a sign, and pattern table 0 loaded. -/
def A (kind : Nat) (armed : Bool) (signs : List Sign) (f : Fibre) : State :=
  let s := { S f with launches := [launchWith [(24, 16)]] }
  s.onTeam 0 0 fun t => ({ t with patterns := setNth none t.patterns 0 (some (List.replicate 256 255)) }).setBelay 3
    { Belay.initial with config := BitVec.ofNat 64 (cfgw kind), armed := armed, signed := signs }

def aSign : Sign := ⟨1, 1, 5, 9, 8, 0, false⟩

/-- A generation of two members that have both signed. -/
def gen2 (op : Nat) : Belay := { Belay.initial with armed := true, op := op, signed := [⟨1, 1, 5, 9, 8, 0, false⟩, ⟨0, 0, 6, 4, 9, 0, false⟩] }

/-! Banks, descriptors and tables. -/

/-- A descriptor of a 16 by 16 matrix of format 5 at offset 0 of scratchpad, and of a table of 4-byte rows. -/
def mdesc : List Byte := withBytes [(9, 5), (10, 16), (12, 16), (16, 16), (20, 64)] 64
def tdesc : List Byte := withBytes [(2, 1), (8, 1), (9, 0x40), (10, 4), (12, 16), (17, 1), (20, 1), (22, 1)] 66

/-- The fibre with a parameter word in g4: descriptor 2, tile 0; an aligned address in g7. -/
def matf : Fibre := { fib with g := regsOf [(4, 0x2000000), (6, 0x100), (7, 0x11100)] }

/-- The machine whose team holds bank 3, has descriptor 2 loaded, and has it in scratchpad at 0x100. -/
def M (f : Fibre) : State :=
  let s := S f
  { s with mat := { s.mat with holds := [⟨0, 0, 0, [3], false⟩] } }.onTeam 0 0 fun t =>
    { t with tds := setNth none (setNth none t.tds 2 (some mdesc)) 5 (some tdesc), spad := memWrite [] 0x100 mdesc,
             exprs := setNth none t.exprs 1 (some 1) }

/-- The fibre with the 8 bytes of an expression entry read. -/
def tblf (e : Word) : Fibre := { matf with tableWord := some e }

/-! Engine commands and guards. -/

/-- The fibre with operands of a copy in g8 to g10 and g5, a launch descriptor's address in g4, and those of a GATHER in
g6, g7. -/
def copyf : Fibre :=
  { fib with g := regsOf [(4, 0x11100), (5, 64), (6, 0x500100100), (7, 0xFFFFF00200), (8, 0x11100), (9, 0x22000), (11, 64 + 2 ^ 26), (12, 0x11100), (13, 0x300)] }

/-- The same under a guard on slot 7, and with that slot FALSE. -/
def guardf : Fibre := { copyf with hints := { copyf.hints with guard := some (7, false) } }
def slotS (v : Slot) (f : Fibre) : State := (M f).onTeam 0 0 fun t => { t with guards := setNth .unresolved t.guards 7 v }

/-- The machine whose team has poison at offset 0x100 of its scratchpad; the one whose page 4 lies at a peer that must walk. -/
def badS (f : Fibre) : State := (S f).onTeam 0 0 fun t => { t with bad := [32, 34] }
def farf : Fibre := { fib with g := regsOf [(4, 0x22000)] }
def farS (f : Fibre) : State :=
  { S f with m := { (S f).m with mem := memWrite (S f).m.mem 0x20010 (bytesLE 8 ((9 * 2 ^ 26 + 2) * 2 ^ 26 + 0x8F)) } }

/-! Worklists. -/

/-- A worklist with a task queued at core 0 and a handler, bound to the launch. -/
def wl0 : Worklist :=
  { Worklist.initial with bound := some 0, handlers := [0, 16], horizon := some 9, tasks := [⟨77, 3, 1, 55, 0, .queued 0⟩],
                          accepted := 1 }

/-- The machine with it, or some other, as worklist 0. -/
def L (w : Worklist) (f : Fibre) : State :=
  let s := S f
  { s with launches := [launchWith [(39, 2), (126, 0)]], cairn := { s.cairn with wls := setNth Worklist.initial s.cairn.wls 0 w } }

/-- The fibre with a handler's ENTRY and a PRIO in g4, an ENTRY outside the table in g6, and one that holds a task. -/
def pushf : Fibre := { fib with g := regsOf [(4, 0x100000005), (5, 10), (6, 0x500000005)] }
def taskf : Fibre := { pushf with task := some ⟨0, 77, 3, 1, 55, 8, false⟩ }

/-! What happens to worklists, commands and launches of themselves. -/

/-- A push of the fibre on its way, its fibre blocked; the machine with it. -/
def push0 (accepted : Bool) : Push := ⟨90, 0, ⟨0, 0, 0⟩, 0, 3, 1, 55, 0, true, accepted, 0, none, false⟩
def P (ps : List Push) (w : Worklist) (f : Fibre) : State := { L w f with cairn := { (L w f).cairn with pushes := ps } }
def at_ (w : Status) : Fibre := { fib with status := w }
def quietWl (sweep : Option (Nat × Nat)) : Worklist :=
  { wl0 with tasks := [], accepted := 1, completed := 1, sweep := sweep, sweptAt := 0 }
def later (s : State) : State := { s with ftime := 5000 }

/-! Engine commands under way. -/

/-- A FILL of scratchpad, a CPY between global pages, an EVSIG, of the fibre. -/
def fill0 : Cmd :=
  { uid := 40, engine := 1, unit := 0, issuer := ⟨0, 0, 0⟩, core := 0, fn := 0, ticket := 0, form := 2,
    regs := [0x300, 7, 0, 64 + 2 ^ 26], scope := 2, ord := 0, guard := none, resolver := none, state := .presented, arrival := 5,
    acqWait := 0, tEnd := 0, pct := 0, src := .none, dst := .spad 0 0x300, leaves := [], far := false, asked := false,
    missed := false, due := 0, buf := [], dq := 0, gather := none, grants := [],
    stale := [], bad := [], todo := [], got := [], gotBad := [], out := [], probing := false, plan := none }
def done0 : Cmd := { fill0 with state := .accepted, asked := true }
def done1 : Cmd := { done0 with out := done0.toWrite }
def evsig0 : Cmd :=
  { fill0 with engine := 4, form := 1, regs := [0x22040, 7], src := .global 0x22040, dst := .none, state := .accepted,
               leaves := [(2, ⟨.dram 0x40000, true, 0, 0⟩)] }
def C (cs : List Cmd) (f : Fibre) : State := { S f with cmds := cs }
def evf (v : Nat) : Fibre := at_ (.blocked (.evwait 0x22040 (BitVec.ofNat 64 v) true none false))

/-! The fault service. -/

/-- A fault request; function 0 with it, its ring at 0x22000 enabled or not; an invalidation. -/
def fr (posted : Bool) : FaultReq := ⟨9, 5, 1, 0, 0, 0, posted⟩
def inv0 : Inval := ⟨5, 2, some 0, []⟩
def F0 (cfg : Nat) (rs : List FaultReq) (ivs : List Inval) (f : Fibre) : State :=
  (S f).onFn 0 fun x => { x with fqcfg := BitVec.ofNat 64 cfg, fqbase := 0x22000, faults := rs, invals := ivs, tinvva := 0x50000 }
def parkf : Fibre := at_ (.parked 0 5)
/-- A lease granted to peer 3 on frame 5 and a translation of its frame 5 held, both at their end. -/
def leased (s : State) : State :=
  { s with x := { s.x with leases := [⟨3, 5, 0, true⟩], peers := [⟨3, 5, 0, true, 0, true, false, 0⟩],
                           tlb := [⟨.core 0, 0, 5, ⟨.peer 3 0x50000, true, 0, 0⟩, 8⟩] } }
def bare : State := { State.reset with fibres := [] }
def full0 (f : Fibre) : State := (F0 0x10004 [fr false] [] f).onFn 0 fun x => { x with fqtail := 16, fqhead := 0 }

/-- The machine with no batch, later, with a result waiting. -/
def idle (f : Fibre) : State := { S f with batches := [], ftime := 50 }
def res0 : Result := ⟨30, ⟨0, 0, 0⟩, [(8, 99)], 4⟩
def resS (f : Fibre) : State := { S f with m := { (S f).m with results := [res0] } }
def endAtom : AtomReq := ⟨0, ⟨0, 0, 0⟩, 0, .level .home (.dram 0x42040), 8, .add, 1, 0, false, none, 3, 0, 0x22040, false, 0⟩
/-- The machine with a write of the fibre on its way. -/
def out0 (fibres : List FKey) : OutWrite :=
  { uid := 20, core := 0, level := .home, line := .dram 0x42000, bytes := [(0x40, 5)], scope := 3, policy := 0, kind := .store,
    issuer := .core 0, fibres := fibres, cmds := [], cmp := 0, key := 0, release := false, born := 0, open_ := false, vas := [],
    pushOn := none, backFor := [], backCmds := [] }
def outS (f : Fibre) : State := { idle f with m := { (idle f).m with outs := [out0 [⟨0, 0, 0⟩]] } }
def two2 (f g : Fibre) : State := { two f g with batches := [] }

/-! Launches. -/

/-- Only core 0 is present, and the launch takes all its scratchpad; another waits; and with the launch in some phase. -/
def big (phase : Phase) : Launch := { launchWith [(36, 0), (37, 1), (57, 0x20), (58, 2)] with phase := phase }
def waiter : Launch := { launchWith [(36, 0), (37, 1)] with id := 1, phase := .checked, prio := 3, queue := .host 1 }
def G (l : Launch) (f : Fibre) : State :=
  let s := S f
  { s with launches := [l, waiter], mg := { s.mg with absent := upFrom 1 255 } }
/-- The one launch in a phase, with its fibre in some condition; its descriptor changed. -/
def G1 (l : Launch) (f : Fibre) : State := { S f with launches := [l] }
def phased (p : Phase) (l : List (Nat × Nat)) : Launch := { launchWith l with phase := p }
/-- The missed promise's command is accepted. -/
def cmdS : State := C [done0] fib
def acceptedFar : State := C [{ done0 with far := true }] fib
def departC : Cmd := { done0 with leaves := [(2, ⟨.peer 9 0, true, 0, 0⟩)] }
def departS : State := { C [departC] fib with fab := { (C [departC] fib).fab with peers := [⟨9, 4, some 7⟩] } }
def place0 : List TeamPlace := [⟨0, 5, [3]⟩]
def lostRope (at_ : Nat) : Launch := { launchWith [(40, 1)] with lost := [⟨0, at_, 0, false, false, false⟩] }
def queued0 : Launch := phased .queued [(0, 0), (2, 1)]
/-- A machine ready to take launches from host queue 5, with a slot's 256 bytes at 0x22000. -/
def H0 : State :=
  let s := S fib
  { s with launches := [], mg := { s.mg with ready := true },
           q := { s.q with host := setNth HostQueue.initial s.q.host 5 ⟨0x22000, 0x10304, 0, 1, none, 0⟩,
                           device := setNth [] s.q.device 2 [(0, 4, placedDesc)] } }
def startS : State := { G1 (phased .checked [(36, 2)]) fib with fibres := [], teams := [], batches := [] }
def lateR : State := { G1 (lostRope 0) fib with ftime := 30000 }
def G2 (l : Launch) (f : Fibre) : State := { S f with launches := [l, waiter] }
def movingL : Launch := { (phased .running [(46, 2), (57, 0x20), (58, 2)]) with moving := [⟨0, 70, [0]⟩] }
def quietS : State := { G1 (phased .saving []) fib with teams := [] }

/-- An image of one word with one safe point, and the machine with it at 0x22000. -/
def image0 : List Byte :=
  withBytes [(0, 0x4B), (1, 0x4C), (2, 0x55), (3, 0x50), (4, 1), (8, 128), (12, 4), (16, 80), (24, 80), (32, 136), (36, 1),
    (40, 144),
    (48, 80), (56, 80), (64, 80), (72, 152)] 156
def coded : Launch := phased .queued [(46, 1), (1, 0x20), (2, 2)]
def imageS : State :=
  let s := G1 coded fib
  { s with m := { s.m with mem := memWrite s.m.mem 0x42000 image0 } }

/-! The host and management. -/

/-- The machine with host queue 5 enabled, or not; joined to a fabric. -/
def Hq (cfg : Nat) : State :=
  { S fib with q := { (S fib).q with host := setNth HostQueue.initial (S fib).q.host 5 ⟨0x22000, BitVec.ofNat 64 cfg, 0, 1, none, 0⟩ } }
def joinedS : State := { S fib with fab := { (S fib).fab with joined := true } }
def upS : State := { Hq 0x10004 with fab := { (S fib).fab with hostUp := true } }
def mgS (g : MgmtState → MgmtState) : State := { S fib with mg := g (S fib).mg }
def staleS : State := { S endedf with launches := [], teams := [], batches := [], fibres := [] }
def portdown : State := (S fib).onPort 3 fun x => { x with state := 0, failed := 3 }
def keyed : State := mgS fun m => { m with keySlots := [(9, 77)] }
def signS : State := mgS fun m => { m with signatures := 3 }
def markedS : State := mgS fun m => { m with marked := [9], spares := setNth 0 m.spares 0 2 }
def rowS : State := mgS fun m => { m with rowCopies := [(3, 5)] }

/-- A machine that is quiet, and one after a fatal error whose dump is not yet written. -/
def quieted : State := { State.reset with mg := { State.reset.mg with quiescing := true } }
def nextOf (i : Instr) (s : State) : State := match exec i s with | .next t => t | _ => s
def fatalS : State := nextOf .powerTrip (S fib)

/-- A command of the gather engine for rows 3 and 40 of the table of descriptor 5 (16 rows), with its job and its parts. -/
def ask0 : GatherAsk := ⟨tdesc, [], [3, 40], [], []⟩
def gath0 : Cmd := { fill0 with engine := 2, form := 0, regs := [0x00500200100, 0xFFFFF00200 ||| 2 ^ 40], dst := .spad 0 0, state := .accepted, gather := some ask0 }
def row3 : GRow := ⟨3, [0], some [⟨.dram 0x3000C, 4, ⟨.dram 0x30000, false, 0, 0⟩, 0x1000C⟩], none, none, some true⟩
def part0 : GPart := ⟨0, 0, none, [row3], 0, []⟩
def job0 (stage : Nat) : GJob := ⟨40, [{ part0 with stage := stage }], [1], [], [], false⟩
def gatS (c : Cmd) (js : List GJob) (f : Fibre) : State := { C [c] f with gat := { (S f).gat with jobs := js } }
/-- The same command with a mask, and a contribution of a SCADD. -/
def gathM : Cmd := { gath0 with regs := [0x00500200100, 0x0000030000200 ||| 2 ^ 40] }
def cpiece0 : Piece := ⟨.dram 0x4000C, 4, ⟨.dram 0x40000, true, 0, 0⟩, 0x2000C⟩
def contrib0 : Contrib := ⟨61, 40, [0], 0, 0, 0, none, [cpiece0], [0, 0, 128, 63], true, false⟩
def contribS : State := { gatS gath0 [job0 3] fib with gat := { (gatS gath0 [job0 3] fib).gat with contribs := [contrib0] } }
/-- A command that waits for the grant of a peer; a package with a share for the gathers of others. -/
def peerDesc : List Byte := withBytes [(2, 1), (8, 1), (9, 0x40), (10, 4), (12, 16), (17, 1), (20, 1), (22, 1), (64, 5)] 66
def grantS : State :=
  let s := gatS { gath0 with state := .presented, gather := some { ask0 with desc := peerDesc } } [] fib
  { s with fab := { s.fab with joined := true, peers := [⟨5, 0, none⟩] } }
def head5 : PktHead := ⟨5, 0, 0, 250000⟩
def noShareS : State := { gatS gath0 [] fib with fab := { (S fib).fab with joined := true, peers := [⟨5, 0, none⟩] } }
def shareS : State := { noShareS with fab := { noShareS.fab with cfg := BitVec.ofNat 64 (5 * 2 ^ 32) } }
/-- What the inbound calendar of that package grants of some bytes, and what is left. -/
def grantOf (s : State) (bytes : Nat) : List (Nat × Nat) × Nat :=
  placeIn' (fun g => 5 * 65536 - lookupD 0 s.fab.inbound g) (s.granulesFrom s.ftime) bytes

/-- The machine whose fibre's team holds bank 3, with an entry on its first tile at the head of the matrix queue. -/
def matEnt (op : MatOp) : MatEntry := ⟨70, 0, 0, 0, [3], 0, 16, mdesc, op⟩
def Q (op : MatOp) (f : Fibre) : State :=
  { M f with mat := { (M f).mat with queue := [matEnt op], acc := [((3 * 4096), ⟨0x3F800000, 0, false⟩)] } }
def dr0 : MatOp := .drain ⟨0, 0, 0⟩ 8 0 0 0 true []
def abS : State :=
  let s := M (at_ (.blocked (.aballoc 8 2)))
  { s with mat := { s.mat with abFifo := [⟨0, ⟨0, 0, 0⟩, 2, 8⟩] } }

/-! The memory pipe. -/

/-- A machine with something changed in its memory system. -/
def memS (g : MemState → MemState) : State := { S fib with m := g (S fib).m }
def pend0 : Pending := ⟨80, .home, .dram 0x42000, [(0x40, 5), (0x41, 0)], 1, .core 0, 3, [], 0, 1, 0⟩
def pendS : State := { memS fun m => { m with pend := [pend0, { pend0 with uid := 81, bytes := [(1, 1)] }], mem := memWrite m.mem 0x42000 [1, 2, 3] } with ftime := 50 }
def landS : State := memS fun m => { m with outs := [out0 [⟨0, 0, 0⟩]], horizons := [⟨.home, .dram 0x42000, 700, 0⟩], pend := [{ pend0 with gwct := 900 }] }
def replOut : OutWrite := { out0 [⟨0, 0, 0⟩] with line := .repl 0x42000 }
def replS : State := memS fun m => { m with outs := [replOut] }
def atom1 : AtomReq := { endAtom with dst := some 8 }
def atomS : State := memS fun m => { m with atoms := [atom1] }
def mshr0 : Mshr := ⟨31, 0, .dram 0x42000, 0, 0, 0, false, none⟩
def fillS : State := memS fun m => { m with mshrs := [mshr0] }
def openS : State := memS fun m => { m with outs := [{ out0 [⟨0, 0, 0⟩] with open_ := true }, { out0 [] with uid := 21, bytes := [(1, 1)], open_ := true, born := 3 }] }
def spad0 : SpadReq := ⟨33, ⟨0, 0, 0⟩, 0, 0, 0x80, 2, [1, 2], none⟩
def spadS : State := memS fun m => { m with spads := [spad0] }
def chunk0 : Chunk := ⟨1, 0x20000, false, some ⟨0, 0, 0⟩, [], some ⟨.dram 0x40000, true, 0, 0⟩, false⟩
def chunkTeam : Team := { newTeam placedLaunch 0 0 with chunks := [chunk0] }
def chunkS : State := { S fib with teams := [chunkTeam] }

/-! The fabric. -/

/-- Port 5 changed; an intact flit of a type. -/
def portS (g : Port → Port) : State := { (S fib).onPort 5 g with ftime := 60000 }
def upPort : State := portS fun x => { x with state := 2 }
def flitWith (typ : Nat) (crc : BitVec 64) : Flit := ⟨0, 0, typ, 9, List.replicate 228 0, crc, true⟩
def flit0 (typ : Nat) : Flit := flitWith typ (crc64 (bytesLE 4 (flitHeader (flitWith typ 0)) ++ List.replicate 228 0))
def retryS : State := portS fun x => { x with state := 2, retry := [(7, 1, [1])] }
/-- The same with no launch. -/
def idleUp : State := { upPort with launches := [], fibres := [], teams := [], batches := [] }
def joinedUp : State := { upPort with fab := { upPort.fab with joined := true } }
def flow0 (last : Nat) : Flow := ⟨0, 9, 6, last⟩
def flowS (last : Nat) : State := { upPort with fab := { upPort.fab with flows := [flow0 last] } }
/-- A package of a fabric with a peer, no fibre, and frame 2 exported under the entry `e`. -/
def memberS : State :=
  let s := idle endedf
  { s with fibres := [], fab := { s.fab with joined := true, peers := [⟨9, 4, none⟩], expbase := 0x42000 },
           m := { s.m with mem := memWrite s.m.mem 0x42010 (bytesLE 8 (7 * 2 ^ 26 + 3)) } }
def req0 (inc : Nat) (ask : RemoteAsk) : RemoteReq := ⟨9, none, inc, 0, 7, 33, ask, 5⟩
def op0 : RemoteOp := ⟨4, 9, false, .load 2 0 128, .far (.peer 9 0x20000), 0⟩
def rep0 : RemoteRep := ⟨9, 4, 0, 7, 4, [1, 2], 0, 0, 0, []⟩
def askedS : State := { memberS with fab := { memberS.fab with remote := [op0] } }
theorem intactWith (typ : Nat) (c : BitVec 64) (h : c = crc64 (bytesLE 4 (flitHeader
    (flitWith typ 0)) ++ List.replicate 228 0)) :
    flitIntact (flitWith typ c) = true := by
  have e : flitHeader (flitWith typ c) = flitHeader (flitWith typ 0) := rfl
  have p : (flitWith typ c).payload = List.replicate 228 0 := rfl
  have k : (flitWith typ c).crc = c := rfl
  have o : (flitWith typ c).fecOk = true := rfl
  unfold flitIntact
  rw [e, p, k, o, ← h]
  simp only [List.length_replicate, beq_self_eq_true, Bool.and_true]
theorem intact (typ : Nat) : flitIntact (flit0 typ) = true := intactWith typ _ rfl

/-! Operands and fetching. -/

/-- A fibre with a window of 20 and a register not ready, one with latches, hints, and the machine with a word placed. -/
def winf : Fibre := { fib with window := 20, notReady := [(9, 3)], lat := ⟨some 1, some 2, none, none⟩ }
def hintf : Fibre := { fib with hints := { fib.hints with lit := some 5, lith := some 9, ksrc := some (7, true) } }
def placed (w : Nat) : State := State.reset.withFetchWord 32 w
def takenS : State := ({ placed 0x0400513C with agenda := [] }).frontBatch 0 0 0
def placedFib : Fibre := newFibre ⟨0, 0, 0⟩ 0 0 0 60 0x10000 0 0

def stepOf (s : State) : State := match step s with | .next t => t | _ => s
def goesOn (s : State) : Bool := match step s with | .next _ => true | _ => false
theorem stepsTo {s : State} (h : goesOn s = true) : step s = .next (stepOf s) := by
  unfold goesOn at h; unfold stepOf; cases e : step s <;> simp [e] at h ⊢

/-! IntegerWordsWriteTheirResult -/

theorem witness_add (H : Obligations.IntegerWordsWriteTheirResult) :
    Completes (.add hd 5 4 6) (S fib) :=
  does_completes (H _ (mem_at abTable 0 (by decide +kernel)) hd 5 4 6 (S fib) fib (by decide +kernel) (by decide +kernel))

/-! ImmediateAndUnaryIntegerWords -/

theorem witness_addi (H : Obligations.ImmediateAndUnaryIntegerWords) :
    Completes (.intiAdd hd 5 4 6) (S fib) :=
  does_completes ((H hd 5 4 6 (S fib) fib (by decide +kernel) (by decide +kernel)).1 _ (mem_at aiTable 0
    (by decide +kernel)))
theorem witness_shlwi (H : Obligations.ImmediateAndUnaryIntegerWords) :
    Completes (.shiftiShlw hd 5 4 31) (S fib) :=
  does_completes ((H hd 5 4 31 (S fib) fib (by decide +kernel) (by decide +kernel)).2.1 _ (mem_at shiTable 4
    (by decide +kernel)) (by decide +kernel))
theorem witness_shlwi_trap (H : Obligations.ImmediateAndUnaryIntegerWords) :
    Completes (.shiftiShlw hd 5 4 32) (S fib) :=
  traps_completes ((H hd 5 4 32 (S fib) fib (by decide +kernel) (by decide +kernel)).2.2.1 _ (mem_at shiTable 4
    (by decide +kernel)) (by decide +kernel) (by decide +kernel))
theorem witness_clz (H : Obligations.ImmediateAndUnaryIntegerWords) :
    Completes (.clz hd 5 4) (S fib) :=
  does_completes ((H hd 5 4 32 (S fib) fib (by decide +kernel) (by decide +kernel)).2.2.2 _ (mem_at unTable 0
    (by decide +kernel)))

/-! DivisionsOweTheirResult -/

theorem witness_div (H : Obligations.DivisionsOweTheirResult) :
    Completes (.div hd 5 4 0) (S fib) :=
  does_completes (H _ (mem_at divTable 0 (by decide +kernel)) hd 5 4 0 (S fib) fib (by decide +kernel) (by decide +kernel))

/-! ComparisonsWriteAPredicate -/

theorem witness_cmp (H : Obligations.ComparisonsWriteAPredicate) :
    Completes (.cmpLt hd 1 3 4 6) (S fib) :=
  does_completes ((H.1 _ (mem_at cmpTable 2 (by decide +kernel)) hd 1 3 4 6 (S fib) fib (by decide +kernel)
    (by decide +kernel)).1 (by decide +kernel))
theorem witness_cmpi (H : Obligations.ComparisonsWriteAPredicate) :
    Completes (.cmpiLt hd 0 2 4 6) (S fib) :=
  does_completes ((H.1 _ (mem_at cmpTable 2 (by decide +kernel)) hd 0 2 4 6 (S fib) fib (by decide +kernel)
    (by decide +kernel)).2 (by decide +kernel))
theorem witness_cmp_off (H : Obligations.ComparisonsWriteAPredicate) :
    Completes (.cmpLt ⟨true, 0, true⟩ 1 3 4 6) (S fib) :=
  does_completes ((H.2.1 _ (mem_at cmpTable 2 (by decide +kernel)) ⟨true, 0, true⟩ 1 3 4 6 (S fib) fib (by decide +kernel)
    (by decide +kernel)).1)
theorem witness_cmpi_word (H : Obligations.ComparisonsWriteAPredicate) :
    encode (.cmpiNtst hd 1 3 4 6) = some 0x261CB106 :=
  (fun h => h.2.trans (by decide +kernel)) (H.2.2 _ (mem_at (cmpTable.zipIdx) 7 (by decide +kernel)) hd 1 3 4 6)

/-! PredicateMovesAndSelection -/

theorem witness_por (H : Obligations.PredicateMovesAndSelection) :
    Completes (.por hd 7 0 1) (S fib) :=
  does_completes (((H hd (S fib) fib (by decide +kernel)).1 7 0 1).2.1)
theorem witness_pwget (H : Obligations.PredicateMovesAndSelection) :
    Completes (.pwget hd 8) (S fib) :=
  does_completes (((H hd (S fib) fib (by decide +kernel)).2.1 8 (by decide +kernel)).1)
theorem witness_li (H : Obligations.PredicateMovesAndSelection) :
    Completes (.li hd 8 0x7fff) (S fib) :=
  does_completes (((H hd (S fib) fib (by decide +kernel)).2.1 8 (by decide +kernel)).2 0x7fff)
theorem witness_pwset (H : Obligations.PredicateMovesAndSelection) :
    Completes (.pwset hd 4) (S fib) :=
  does_completes ((H hd (S fib) fib (by decide +kernel)).2.2.1 4 (by decide +kernel))
theorem witness_sel (H : Obligations.PredicateMovesAndSelection) :
    Completes (.sel hd 1 8 4 5) (S fib) :=
  does_completes (((H hd (S fib) fib (by decide +kernel)).2.2.2 1 8 4 5).1 (by decide +kernel))
theorem witness_sel_word (H : Obligations.PredicateMovesAndSelection) :
    encode (.sel hd 1 8 4 5) = some 0x32048105 :=
  (fun h => h.2.trans (by decide +kernel)) (((H hd (S fib) fib (by decide +kernel)).2.2.2 1 8 4 5).2)

/-! SpecialAndTeamRegisters -/

theorem witness_getsr (H : Obligations.SpecialAndTeamRegisters) :
    Completes (.getsr hd 8 9) (S fib) :=
  does_completes ((H hd (S fib) fib _ _ (by decide +kernel) (got1 (by decide +kernel)) (got1
    (by decide +kernel))).1 8 9 fib.tpc (by decide +kernel) (by decide +kernel) (by decide +kernel) (by decide +kernel))
theorem witness_setsr_fst (H : Obligations.SpecialAndTeamRegisters) :
    Completes (.setsr hd 7 4) (S fib) :=
  does_completes (((H hd (S fib) fib _ _ (by decide +kernel) (got1 (by decide +kernel)) (got1 (by decide +kernel))).2.1 4
    (by decide +kernel)).1 (by decide +kernel))
theorem witness_setsr_tpc (H : Obligations.SpecialAndTeamRegisters) :
    Completes (.setsr hd 9 4) (S fib) :=
  does_completes (((H hd (S fib) fib _ _ (by decide +kernel) (got1 (by decide +kernel)) (got1 (by decide +kernel))).2.1 4
    (by decide +kernel)).2.1)
theorem witness_setsr_tvec (H : Obligations.SpecialAndTeamRegisters) :
    Completes (.setsr hd 12 4) (S fib) :=
  does_completes (((H hd (S fib) fib _ _ (by decide +kernel) (got1 (by decide +kernel)) (got1 (by decide +kernel))).2.1 4
    (by decide +kernel)).2.2)
theorem witness_getk (H : Obligations.SpecialAndTeamRegisters) :
    Completes (.getk hd 8 383) (S fib) :=
  does_completes ((H hd (S fib) fib _ _ (by decide +kernel) (got1 (by decide +kernel)) (got1
    (by decide +kernel))).2.2.1 8 383 (by decide +kernel) (by decide +kernel))
theorem witness_putk (H : Obligations.SpecialAndTeamRegisters) :
    Completes (.putk hd 4 383) (S fib) :=
  does_completes ((H hd (S fib) fib _ _ (by decide +kernel) (got1 (by decide +kernel)) (got1
    (by decide +kernel))).2.2.2 4 383 (by decide +kernel) (by decide +kernel))

/-! GlobalLoadsAskForTheirLines -/

theorem witness_ldb (H : Obligations.GlobalLoadsAskForTheirLines) :
    Completes (.ldb hd 8 4 63) (S fib) :=
  does_completes ((H _ (mem_at loadTable 0 (by decide +kernel)) hd 8 4 63 (S fib) _ fib _ _ (by decide +kernel)
    (by decide +kernel) (by decide +kernel) (okP (by decide +kernel)) (got (by decide +kernel))).2)
theorem witness_ldq (H : Obligations.GlobalLoadsAskForTheirLines) :
    Completes (.ldq hd 8 4 7) (S fib) :=
  does_completes ((H _ (mem_at loadTable 7 (by decide +kernel)) hd 8 4 7 (S fib) _ fib _ _ (by decide +kernel)
    (by decide +kernel) (by decide +kernel) (okP (by decide +kernel)) (got (by decide +kernel))).2)

/-! ScratchpadLoads -/

theorem witness_ldb_l (H : Obligations.ScratchpadLoads) :
    Completes (.ldbL hd 8 6 63) (S fib) :=
  does_completes ((H _ (mem_at loadTable 0 (by decide +kernel)) hd 8 6 63 (S fib) fib _ 0 0xff (by decide +kernel)
    (by decide +kernel) (by decide +kernel) (got1 (by decide +kernel)) (by decide +kernel) (by decide +kernel)).1
    (by decide +kernel) (by decide +kernel))
theorem witness_ldq_l (H : Obligations.ScratchpadLoads) :
    Completes (.ldqL hd 8 6 1) (S fib) :=
  does_completes ((H _ (mem_at loadTable 7 (by decide +kernel)) hd 8 6 1 (S fib) fib _ 0 0x110 (by decide +kernel)
    (by decide +kernel) (by decide +kernel) (got1 (by decide +kernel)) (by decide +kernel) (by decide +kernel)).1
    (by decide +kernel) (by decide +kernel))
theorem witness_ldw_l_mate (H : Obligations.ScratchpadLoads) :
    Completes (.ldwL hd 8 6 1) (R mate) :=
  (fun h => h.elim fun _ h => does_completes h.2.2.2) ((H _ (mem_at loadTable 4 (by decide +kernel)) hd 8 6 1
    (R mate) mate _ 1 0x104
    (by decide +kernel) (by decide +kernel) (by decide +kernel) (got1 (by decide +kernel)) (by decide +kernel)
      (by decide +kernel)).2 (.inl (by decide +kernel)))
theorem witness_ldq_l_poisoned (H : Obligations.ScratchpadLoads) :
    Completes (.ldqL hd 8 6 1) (badS fib) :=
  (fun h => h.elim fun _ h => does_completes h.2.2.2) ((H _ (mem_at loadTable 7 (by decide +kernel)) hd 8 6 1
    (badS fib) fib _ 0 0x110
    (by decide +kernel) (by decide +kernel) (by decide +kernel) (got1 (by decide +kernel)) (by decide +kernel)
      (by decide +kernel)).2 (.inr (by decide +kernel)))

/-! GlobalStoresAreBuffered -/

theorem witness_stb (H : Obligations.GlobalStoresAreBuffered) :
    Completes (.stb hd 5 4 63) (S fib) :=
  does_completes ((H _ (mem_at storeTable 0 (by decide +kernel)) hd 5 4 63 (S fib) fib _ (by decide +kernel)
    (by decide +kernel) (okP (by decide +kernel))).1 (by decide +kernel) (by decide +kernel) (by decide +kernel))
theorem witness_stq (H : Obligations.GlobalStoresAreBuffered) :
    Completes (.stq hd 4 4 7) (S bufd) :=
  does_completes ((H _ (mem_at storeTable 4 (by decide +kernel)) hd 4 4 7 (S bufd) bufd _ (by decide +kernel)
    (by decide +kernel) (okP (by decide +kernel))).1 (by decide +kernel) (by decide +kernel) (by decide +kernel))
theorem witness_std_full (H : Obligations.GlobalStoresAreBuffered) :
    Completes (.std hd 4 4 7) (S fullf) :=
  next_completes ((H _ (mem_at storeTable 3 (by decide +kernel)) hd 4 4 7 (S fullf) fullf _ (by decide +kernel)
    (by decide +kernel) (okP (by decide +kernel))).2.1 (by decide +kernel) (by decide +kernel) (by decide +kernel))
theorem witness_std_trap (H : Obligations.GlobalStoresAreBuffered) :
    Completes (.std hd 4 4 7) (S sysf) :=
  does_completes ((H _ (mem_at storeTable 3 (by decide +kernel)) hd 4 4 7 (S sysf) sysf _ (by decide +kernel)
    (by decide +kernel) (okP (by decide +kernel))).2.2.1 (by decide +kernel) (by decide +kernel) (by decide +kernel)
    (by decide +kernel))
theorem witness_std_rel (H : Obligations.GlobalStoresAreBuffered) :
    Completes (.std hd 4 4 7) (S relf) :=
  does_completes ((H _ (mem_at storeTable 3 (by decide +kernel)) hd 4 4 7 (S relf) relf _ (by decide +kernel)
    (by decide +kernel) (okP (by decide +kernel))).2.2.2 (by decide +kernel) (by decide +kernel) (by decide +kernel)
    (by decide +kernel))

/-! ScratchpadStores -/

theorem witness_stb_l (H : Obligations.ScratchpadStores) :
    Completes (.stbL hd 5 6 63) (S fib) :=
  does_completes ((H _ (mem_at storeTable 0 (by decide +kernel)) hd 5 6 63 (S fib) fib 0 0xff (by decide +kernel)
    (by decide +kernel) (by decide +kernel) (by decide +kernel)).1 (by decide +kernel) (by decide +kernel))
theorem witness_std_l_trap (H : Obligations.ScratchpadStores) :
    Completes (.stdL hd 5 6 63) (S sysf) :=
  does_completes ((H _ (mem_at storeTable 3 (by decide +kernel)) hd 5 6 63 (S sysf) sysf 0 0xf8 (by decide +kernel)
    (by decide +kernel) (by decide +kernel) (by decide +kernel)).2.1 (by decide +kernel) (by decide +kernel)
    (by decide +kernel))
theorem witness_std_l_mate (H : Obligations.ScratchpadStores) :
    Completes (.stdL hd 5 6 1) (R matet) :=
  does_completes ((H _ (mem_at storeTable 3 (by decide +kernel)) hd 5 6 1 (R matet) matet 1 0x108 (by decide +kernel)
    (by decide +kernel) (by decide +kernel) (by decide +kernel)).2.2.1 (by decide +kernel) (by decide +kernel)
    (by decide +kernel))

/-! GlobalAtomicsLeaveTheirCore -/

theorem witness_aor (H : Obligations.GlobalAtomicsLeaveTheirCore) :
    Completes (.aor hd 8 4 5) (S fib) :=
  does_completes ((H _ (mem_at atomTable 4 (by decide +kernel)) hd 8 4 5 (S fib) _ fib _ _ (by decide +kernel)
    (by decide +kernel) (by decide +kernel) (okP1 (by decide +kernel)) (by decide +kernel) (by decide +kernel)
    (by decide +kernel) (got (by decide +kernel)) (by decide +kernel)).1
    (by decide +kernel) (by decide +kernel))
theorem witness_aor_overlap (H : Obligations.GlobalAtomicsLeaveTheirCore) :
    Completes (.aor hd 8 4 5) (S bufd) :=
  does_completes ((H _ (mem_at atomTable 4 (by decide +kernel)) hd 8 4 5 (S bufd) _ bufd _ _ (by decide +kernel)
    (by decide +kernel) (by decide +kernel) (okP1 (by decide +kernel)) (by decide +kernel) (by decide +kernel)
    (by decide +kernel) (got (by decide +kernel))
    (by decide +kernel)).1
    (by decide +kernel) (by decide +kernel))
theorem witness_aadd (H : Obligations.GlobalAtomicsLeaveTheirCore) :
    Completes (.aadd hd 8 4 5) (S bufd) :=
  does_completes ((H _ (mem_at atomTable 6 (by decide +kernel)) hd 8 4 5 (S bufd) _ bufd _ _ (by decide +kernel)
    (by decide +kernel) (by decide +kernel) (okP1 (by decide +kernel)) (by decide +kernel) (by decide +kernel)
    (by decide +kernel) (got (by decide +kernel))
    (by decide +kernel)).1
    (by decide +kernel) (by decide +kernel))
theorem witness_casw (H : Obligations.GlobalAtomicsLeaveTheirCore) :
    Completes (.casw hd 8 4 5) (S sysf) :=
  does_completes ((H _ (mem_at atomTable 17 (by decide +kernel)) hd 8 4 5 (S sysf) _ sysf _ _ (by decide +kernel)
    (by decide +kernel) (by decide +kernel) (okP1 (by decide +kernel)) (by decide +kernel) (by decide +kernel)
    (by decide +kernel) (got (by decide +kernel))
    (by decide +kernel)).1
    (by decide +kernel) (by decide +kernel))
theorem witness_fadd_rel (H : Obligations.GlobalAtomicsLeaveTheirCore) :
    Completes (.faddS hd 8 4 5) (S relf) :=
  does_completes ((H _ (mem_at atomTable 18 (by decide +kernel)) hd 8 4 5 (S relf) _ relf _ _ (by decide +kernel)
    (by decide +kernel) (by decide +kernel) (okP1 (by decide +kernel)) (by decide +kernel) (by decide +kernel)
    (by decide +kernel) (got (by decide +kernel))
    (by decide +kernel)).2
    (by decide +kernel) (by decide +kernel))

/-! ScratchpadAtomics -/

theorem witness_amax_l (H : Obligations.ScratchpadAtomics) :
    Completes (.amaxL hd 8 6 5) (S fib) := by
  refine does_completes (((H _ (mem_at atomLTable 1 (by decide +kernel)) hd 8 6 5 (S fib) _ fib _ _ 0 0x100 ?_ ?_ ?_ ?_ ?_
    ?_).2 ?_ ?_ ?_ (got (by decide +kernel)) (got1 (by decide +kernel))).2.1 ?_ ?_ ?_) <;> decide +kernel
theorem witness_aor_l_same (H : Obligations.ScratchpadAtomics) :
    Completes (.aorL hd 8 6 0) (S fib) := by
  refine does_completes (((H _ (mem_at atomLTable 4 (by decide +kernel)) hd 8 6 0 (S fib) _ fib _ _ 0 0x100 ?_ ?_ ?_ ?_ ?_
    ?_).2 ?_ ?_ ?_ (got (by decide +kernel)) (got1 (by decide +kernel))).1 ?_ ?_ ?_) <;> decide +kernel
theorem witness_aadd_l_mate (H : Obligations.ScratchpadAtomics) :
    Completes (.aaddL hd 8 6 5) (R mate) := by
  refine does_completes (((H _ (mem_at atomLTable 6 (by decide +kernel)) hd 8 6 5 (R mate) _ mate _ _ 1 0x100 ?_ ?_ ?_ ?_ ?_
    ?_).2 ?_ ?_ ?_ (got (by decide +kernel)) (got1 (by decide +kernel))).2.2 (.inl ?_)) <;> decide +kernel
theorem witness_aadd_l_poisoned (H : Obligations.ScratchpadAtomics) :
    Completes (.aaddL hd 8 6 5) (badS fib) := by
  refine does_completes (((H _ (mem_at atomLTable 6 (by decide +kernel)) hd 8 6 5 (badS fib) _ fib _ _ 0 0x100 ?_ ?_ ?_ ?_ ?_
    ?_).2 ?_ ?_ ?_ (got (by decide +kernel)) (got1 (by decide +kernel))).2.2 (.inr ?_)) <;> decide +kernel
/-- The machine whose team's scratchpad has its chunk 0 mapped to memory of the host, filled. -/
def hostChunkS (f : Fibre) : State :=
  (S f).onTeam 0 0 fun t => { t with chunks := [⟨0, 0x20000, true, none, [], some ⟨.host 0x40000, true, 0, 0⟩, false⟩] }
theorem witness_aadd_l_host (H : Obligations.ScratchpadAtomics) :
    Completes (.aaddL hd 8 6 5) (hostChunkS fib) := by
  refine traps_completes ((H _ (mem_at atomLTable 6 (by decide +kernel)) hd 8 6 5 (hostChunkS fib) (hostChunkS fib) fib fib
    (newTeam placedLaunch 0 0) 0 0x100 ?_ ?_ ?_ ?_ ?_ ?_).1 ?_) <;> decide +kernel

/-! FencesAndWaits -/

theorem witness_fence_rel (H : Obligations.FencesAndWaits) :
    Completes (.fenceRel gd 4) (S bufd) :=
  waits_completes (((H.1 gd (S bufd) bufd (by decide +kernel) (by decide +kernel)).1 4 (by decide +kernel)
    (by decide +kernel) (by decide +kernel)).1)
theorem witness_fence_ar (H : Obligations.FencesAndWaits) :
    Completes (.fenceAr gd 0) (S sysf) :=
  waits_completes (((H.1 gd (S sysf) sysf (by decide +kernel) (by decide +kernel)).1 0 (by decide +kernel)
    (by decide +kernel) (by decide +kernel)).2)
theorem witness_waitg (H : Obligations.FencesAndWaits) :
    Completes (.waitg gd 8) (S bufd) :=
  waits_completes ((H.1 gd (S bufd) bufd (by decide +kernel) (by decide +kernel)).2.1 8 (by decide +kernel)
    (by decide +kernel))
theorem witness_fence_acq (H : Obligations.FencesAndWaits) :
    Completes (.fenceAcq hd 2) (S fib) :=
  does_completes ((H.1 gd (S fib) fib (by decide +kernel) (by decide +kernel)).2.2 true 2 (by decide +kernel))
theorem witness_evwait (H : Obligations.FencesAndWaits) :
    Completes (.evwait gd 2 1 4 5) (S bufd) :=
  blocks_completes ((H.2 gd 2 1 4 5 (S bufd) bufd _ (by decide +kernel) (by decide +kernel) (by decide +kernel)
    (by decide +kernel) (okP (by decide +kernel)) (noRepls (by decide +kernel)) (by decide +kernel) (by decide +kernel)).1
    (by decide +kernel))
theorem witness_evwait_rel (H : Obligations.FencesAndWaits) :
    Completes (.evwait gd 2 2 4 5) (S bufd) :=
  blocks_completes ((H.2 gd 2 2 4 5 (S bufd) bufd _ (by decide +kernel) (by decide +kernel) (by decide +kernel)
    (by decide +kernel) (okP (by decide +kernel)) (noRepls (by decide +kernel)) (by decide +kernel) (by decide +kernel)).2
    (by decide +kernel) (by decide +kernel))

/-! OrderedAccessesAndCacheHints -/

theorem witness_ldaq (H : Obligations.OrderedAccessesAndCacheHints) :
    Completes (.ldaq hd 8 4 0) (S fib) :=
  does_completes (((H hd 8 4 0 (S fib) fib (by decide +kernel)).1 _ _ _ (by decide +kernel) (by decide +kernel)
    (by decide +kernel) (okP (by decide +kernel)) (got (by decide +kernel))).2)
theorem witness_strel (H : Obligations.OrderedAccessesAndCacheHints) :
    Completes (.strel hd 5 4 0) (S bufd) :=
  does_completes ((H hd 5 4 0 (S bufd) bufd (by decide +kernel)).2.1 (piecesOf ((S bufd).translateParts (.core 0) 0 true
    (cutLines 0x11100 8))) (by decide +kernel) (by decide +kernel) (by decide +kernel) (by decide +kernel)
    (by decide +kernel) (okP (by decide +kernel)))
theorem witness_pref (H : Obligations.OrderedAccessesAndCacheHints) :
    Completes (.pref hd 4 0) (S fib) :=
  does_completes ((((H hd 5 4 0 (S fib) fib (by decide +kernel)).2.2 (by decide +kernel)).1 _ (gotLeaf
    (by decide +kernel))).1 _ (got1 (by decide +kernel)))
/-- The machine whose core has no free miss-status entry. -/
def missesS (f : Fibre) : State :=
  { S f with m := { (S f).m with mshrs := List.replicate 256 ⟨31, 0, .dram 0x42000, 0, 0, 0, false, none⟩ } }
theorem witness_pref_waits (H : Obligations.OrderedAccessesAndCacheHints) :
    Completes (.pref hd 4 0) (missesS fib) :=
  next_completes ((((H hd 5 4 0 (missesS fib) fib (by decide +kernel)).2.2 (by decide +kernel)).1 _ (gotLeaf
    (by decide +kernel))).2.1 (by decide +kernel))
theorem witness_pref_none (H : Obligations.OrderedAccessesAndCacheHints) :
    Completes (.pref hd 5 0) (S fib) :=
  does_completes (((H hd 5 5 0 (S fib) fib (by decide +kernel)).2.2 (by decide +kernel)).2.1 (gotFault
    (by decide +kernel)).1 (gotFault (by decide +kernel)).2).1
theorem witness_pref_walk (H : Obligations.OrderedAccessesAndCacheHints) :
    Completes (.pref hd 4 0) (farS farf) :=
  next_completes (((H hd 5 4 0 (farS farf) farf (by decide +kernel)).2.2 (by decide +kernel)).2.2 _ _ _ (gotWalk
    (by decide +kernel))).1
theorem witness_clwb (H : Obligations.OrderedAccessesAndCacheHints) :
    Completes (.clwb hd 4 0) (S fib) :=
  does_completes ((((H hd 5 4 0 (S fib) fib (by decide +kernel)).2.2 (by decide +kernel)).1 _ (gotLeaf
    (by decide +kernel))).2.2.1 (by decide +kernel) (by decide +kernel))
theorem witness_clwb_trap (H : Obligations.OrderedAccessesAndCacheHints) :
    Completes (.clwb hd 4 0) (S sysf) :=
  does_completes ((((H hd 5 4 0 (S sysf) sysf (by decide +kernel)).2.2 (by decide +kernel)).1 _ (gotLeaf
    (by decide +kernel))).2.2.2 (by decide +kernel) (by decide +kernel) (by decide +kernel))
theorem witness_clwb_none (H : Obligations.OrderedAccessesAndCacheHints) :
    Completes (.clwb hd 5 0) (S fib) :=
  does_completes ((((H hd 5 5 0 (S fib) fib (by decide +kernel)).2.2 (by decide +kernel)).2.1 (gotFault
    (by decide +kernel)).1 (gotFault (by decide +kernel)).2).2.1 (by decide +kernel) (by decide +kernel))

/-! BranchesCallsAndReturns -/

theorem witness_br (H : Obligations.BranchesCallsAndReturns) :
    Completes (.br gd 5) (S fib) :=
  goes_completes (((H gd (S fib) (fib) _ (by decide +kernel) (got1 (by decide +kernel))).1 5).1 (by decide +kernel))
theorem witness_br_trap (H : Obligations.BranchesCallsAndReturns) :
    Completes (.call gd 0x1ffff0) (S fib) :=
  (fun h => traps_completes h.2) (((H gd (S fib) (fib) _ (by decide +kernel) (got1 (by decide +kernel))).1 0x1ffff0).2.1
    (by decide +kernel))
theorem witness_call (H : Obligations.BranchesCallsAndReturns) :
    Completes (.call gd 5) (S fib) :=
  goes_completes ((((H gd (S fib) (fib) _ (by decide +kernel) (got1 (by decide +kernel))).1 5).2.2 (by decide +kernel)).1
    (by decide +kernel) (by decide +kernel))
theorem witness_call_full (H : Obligations.BranchesCallsAndReturns) :
    Completes (.call gd 5) (K (deep 256)) :=
  traps_completes ((((H gd (K (deep 256)) (deep 256) _ (by decide +kernel) (got1 (by decide +kernel))).1 5).2.2
    (by decide +kernel)).2.1 (by decide +kernel) (by decide +kernel))
theorem witness_call_no_area (H : Obligations.BranchesCallsAndReturns) :
    Completes (.call gd 5) (S (deep 8)) :=
  traps_completes ((((H gd (S (deep 8)) (deep 8) _ (by decide +kernel) (got1 (by decide +kernel))).1 5).2.2
    (by decide +kernel)).2.2.1 (by decide +kernel) (by decide +kernel) (by decide +kernel) (by decide +kernel))
theorem witness_call_spill (H : Obligations.BranchesCallsAndReturns) :
    Completes (.call gd 5) (K (deep 8)) :=
  goes_completes ((((H gd (K (deep 8)) (deep 8) _ (by decide +kernel) (got1 (by decide +kernel))).1 5).2.2
    (by decide +kernel)).2.2.2 _ (by decide +kernel) (by decide +kernel) (by decide +kernel) (by decide +kernel)
    (okP (by decide +kernel)) (by decide +kernel) (by decide +kernel))
theorem witness_jr (H : Obligations.BranchesCallsAndReturns) :
    Completes (.jr gd 4) (S tof) :=
  goes_completes (((H gd (S tof) (tof) _ (by decide +kernel) (got1 (by decide +kernel))).2.1 4 (by decide +kernel)).1
    (by decide +kernel) (by decide +kernel))
theorem witness_jrl (H : Obligations.BranchesCallsAndReturns) :
    Completes (.jrl gd 4) (S tof) :=
  goes_completes ((((H gd (S tof) (tof) _ (by decide +kernel) (got1 (by decide +kernel))).2.1 4 (by decide +kernel)).2.1
    (by decide +kernel) (by decide +kernel)).1 (by decide +kernel) (by decide +kernel))
theorem witness_jrl_no_area (H : Obligations.BranchesCallsAndReturns) :
    Completes (.jrl gd 4) (S (deep 8)) :=
  traps_completes ((((H gd (S (deep 8)) (deep 8) _ (by decide +kernel) (got1 (by decide +kernel))).2.1 4
    (by decide +kernel)).2.1 (by decide +kernel) (by decide +kernel)).2.2.1 (by decide +kernel) (by decide +kernel) (by decide +kernel) (by decide +kernel))
theorem witness_jrl_spill (H : Obligations.BranchesCallsAndReturns) :
    Completes (.jrl gd 4) (K (deep 8)) :=
  goes_completes ((((H gd (K (deep 8)) (deep 8) _ (by decide +kernel) (got1 (by decide +kernel))).2.1 4
    (by decide +kernel)).2.1 (by decide +kernel) (by decide +kernel)).2.2.2 _
    (by decide +kernel) (by decide +kernel) (by decide +kernel) (by decide +kernel) (okP (by decide +kernel)) (by decide +kernel) (by decide +kernel))
theorem witness_jr_misaligned (H : Obligations.BranchesCallsAndReturns) :
    Completes (.jr gd 6) (S tof) :=
  (fun h => traps_completes h.1) (((H gd (S tof) (tof) _ (by decide +kernel) (got1 (by decide +kernel))).2.1 6
    (by decide +kernel)).2.2.1 (by decide +kernel))
theorem witness_jrl_outside (H : Obligations.BranchesCallsAndReturns) :
    Completes (.jrl gd 7) (S tof) :=
  (fun h => traps_completes h.2) (((H gd (S tof) (tof) _ (by decide +kernel) (got1 (by decide +kernel))).2.1 7
    (by decide +kernel)).2.2.2 (by decide +kernel) (by decide +kernel))
theorem witness_ret_empty (H : Obligations.BranchesCallsAndReturns) :
    Completes (.ret gd) (S fib) :=
  traps_completes ((H gd (S fib) (fib) _ (by decide +kernel) (got1 (by decide +kernel))).2.2.1
    (by decide +kernel) (by decide +kernel))
/-- Fibres whose return address is misaligned, and outside .text. -/
def badRet (a : Word) : Fibre := { deep 1 with rstack := [a] }
theorem witness_ret_misaligned (H : Obligations.BranchesCallsAndReturns) :
    Completes (.ret gd) (S (badRet 0x10202)) :=
  traps_completes (((H gd (S (badRet 0x10202)) (badRet 0x10202) _ (by decide +kernel) (got1 (by decide +kernel))).2.2.2.1
    (by decide +kernel) (by decide +kernel)).1 (by decide +kernel))
theorem witness_ret_outside (H : Obligations.BranchesCallsAndReturns) :
    Completes (.ret gd) (S (badRet 0x20000)) :=
  traps_completes (((H gd (S (badRet 0x20000)) (badRet 0x20000) _ (by decide +kernel) (got1 (by decide +kernel))).2.2.2.1
    (by decide +kernel) (by decide +kernel)).2 (by decide +kernel) (by decide +kernel))
theorem witness_ret (H : Obligations.BranchesCallsAndReturns) :
    Completes (.ret gd) (S (deep 8)) :=
  goes_completes ((H gd (S (deep 8)) (deep 8) _ (by decide +kernel) (got1 (by decide +kernel))).2.2.2.2.1
    (by decide +kernel) (by decide +kernel) (by decide +kernel) (by decide +kernel) (by decide +kernel))
theorem witness_ret_refill (H : Obligations.BranchesCallsAndReturns) :
    Completes (.ret gd) (K (deep 9)) :=
  (fun h => goes_completes h.2) ((H gd (K (deep 9)) (deep 9) _ (by decide +kernel) (got1 (by decide +kernel))).2.2.2.2.2
    _ _ _ (by decide +kernel) (by decide +kernel) (by decide +kernel) (by decide +kernel) (by decide +kernel)
    (okP (by decide +kernel)) (got (by decide +kernel)))

/-! TrapEntry -/

theorem witness_sys (H : Obligations.TrapEntry) :
    (S sysf).trapEntry sysf 4 5 6 = (S sysf).endFatal sysf 4 6 :=
  id ((H (S sysf) sysf _ 4 5 6 (got1 (by decide +kernel))).1 (by decide +kernel))
theorem witness_nested (H : Obligations.TrapEntry) :
    ∃ g, (S teamf).trapEntry teamf 4 5 6 = (S teamf).setFibre g :=
  (fun h => ⟨_, h⟩) ((H (S teamf) teamf _ 4 5 6 (got1 (by decide +kernel))).2.1 (by decide +kernel) (by decide +kernel))
theorem witness_no_handler (H : Obligations.TrapEntry) :
    ∃ g, (nohand fib).trapEntry fib 4 5 6 = (nohand fib).setFibre g :=
  (fun h => ⟨_, h⟩) ((H (nohand fib) fib _ 4 5 6 (got1 (by decide +kernel))).2.2.1 (by decide +kernel) (by decide +kernel)
    (by decide +kernel))
theorem witness_team (H : Obligations.TrapEntry) :
    ∃ g, (S fib).trapEntry fib 4 5 6 = (S fib).setFibre g :=
  (fun h => ⟨_, h⟩) ((H (S fib) fib _ 4 5 6 (got1 (by decide +kernel))).2.2.2 (by decide +kernel) (by decide +kernel)
    (by decide +kernel))

/-! TrapsAndReturns -/

theorem witness_trap (H : Obligations.TrapsAndReturns) :
    Completes (.trap gd 0xfff) (S fib) :=
  traps_completes ((H hd (S fib) fib _ (by decide +kernel) (got1 (by decide +kernel))).1 0xfff)
theorem witness_brk_on (H : Obligations.TrapsAndReturns) :
    Completes (.brk hd) (S brkf) :=
  traps_completes ((H hd (S brkf) brkf _ (by decide +kernel) (got1 (by decide +kernel))).2.1 (by decide +kernel))
theorem witness_brk_off (H : Obligations.TrapsAndReturns) :
    Completes (.brk hd) (S fib) :=
  does_completes ((H hd (S fib) fib _ (by decide +kernel) (got1 (by decide +kernel))).2.2.1 (by decide +kernel))
theorem witness_rtt_none (H : Obligations.TrapsAndReturns) :
    Completes (.rtt gd) (S fib) :=
  traps_completes ((H hd (S fib) fib _ (by decide +kernel) (got1 (by decide +kernel))).2.2.2.1 (by decide +kernel)
    (by decide +kernel))
theorem witness_rtt_sys (H : Obligations.TrapsAndReturns) :
    Completes (.rtt gd) (S rttf) :=
  (fun h => h.elim fun t h => h.elim fun _ h => ⟨t, h.1⟩) ((H hd (S rttf) rttf _ (by decide +kernel) (got1
    (by decide +kernel))).2.2.2.2.1 (by decide +kernel) (by decide +kernel))
theorem witness_rtt_team (H : Obligations.TrapsAndReturns) :
    Completes (.rtt gd) (S teamf) :=
  (fun h => h.elim fun t h => h.elim fun _ h => ⟨t, h.1⟩) ((H hd (S teamf) teamf _ (by decide +kernel) (got1
    (by decide +kernel))).2.2.2.2.2 (by decide +kernel) (by decide +kernel) (by decide +kernel))

/-! SpawnStartsAnEndedFibre -/

theorem witness_spawn (H : Obligations.SpawnStartsAnEndedFibre) :
    Completes (.spawn gd 8 4 5) (two tof endedf) :=
  does_completes ((H gd 8 4 5 (two tof endedf) tof _ (by decide +kernel) (got1 (by decide +kernel)) (by decide +kernel)
    (by decide +kernel)).1 (by decide +kernel) _ (got1 (by decide +kernel)))
theorem witness_spawn_none (H : Obligations.SpawnStartsAnEndedFibre) :
    Completes (.spawn gd 8 4 5) (two tof fib) :=
  does_completes ((H gd 8 4 5 (two tof fib) tof _ (by decide +kernel) (got1 (by decide +kernel)) (by decide +kernel)
    (by decide +kernel)).2.1 (by decide +kernel) (by decide +kernel))
theorem witness_spawn_misaligned (H : Obligations.SpawnStartsAnEndedFibre) :
    Completes (.spawn gd 8 6 5) (two tof fib) :=
  traps_completes ((H gd 8 6 5 (two tof fib) tof _ (by decide +kernel) (got1 (by decide +kernel)) (by decide +kernel)
    (by decide +kernel)).2.2.1 (by decide +kernel))
theorem witness_spawn_outside (H : Obligations.SpawnStartsAnEndedFibre) :
    Completes (.spawn gd 8 7 5) (two tof fib) :=
  traps_completes ((H gd 8 7 5 (two tof fib) tof _ (by decide +kernel) (got1 (by decide +kernel)) (by decide +kernel)
    (by decide +kernel)).2.2.2.1 (by decide +kernel) (by decide +kernel))
theorem witness_spawnt (H : Obligations.SpawnStartsAnEndedFibre) :
    Completes (.spawnt gd 8 4 5) (two tof endedf) :=
  does_completes (((H gd 8 4 5 (two tof endedf) tof _ (by decide +kernel) (got1 (by decide +kernel)) (by decide +kernel)
    (by decide +kernel)).2.2.2.2.1 (by decide +kernel) (by decide +kernel)).1 _ (got1 (by decide +kernel))
    (by decide +kernel))
theorem witness_spawnt_none (H : Obligations.SpawnStartsAnEndedFibre) :
    Completes (.spawnt gd 8 4 5) (two tof fib) :=
  does_completes (((H gd 8 4 5 (two tof fib) tof _ (by decide +kernel) (got1 (by decide +kernel)) (by decide +kernel)
    (by decide +kernel)).2.2.2.2.1 (by decide +kernel) (by decide +kernel)).2 _ (got1 (by decide +kernel))
    (by decide +kernel))
theorem witness_spawnt_bad (H : Obligations.SpawnStartsAnEndedFibre) :
    Completes (.spawnt gd 8 4 4) (two tof fib) :=
  traps_completes ((H gd 8 4 4 (two tof fib) tof _ (by decide +kernel) (got1 (by decide +kernel)) (by decide +kernel)
    (by decide +kernel)).2.2.2.2.2 (by decide +kernel))

/-! EndReleasesAndWaits -/

theorem witness_end (H : Obligations.EndReleasesAndWaits) :
    Completes (.endFibre gd 0 4) (S bufd) :=
  blocks_completes (((H gd 0 4 (S bufd) bufd (by decide +kernel) (by decide +kernel) (by decide +kernel)
    (by decide +kernel)).1 (by decide +kernel) (by decide +kernel)).1 (by decide +kernel) (by decide +kernel))
theorem witness_end_trap (H : Obligations.EndReleasesAndWaits) :
    Completes (.endFibre gd 0 4) (S sysf) :=
  blocks_completes (((H gd 0 4 (S sysf) sysf (by decide +kernel) (by decide +kernel) (by decide +kernel)
    (by decide +kernel)).1 (by decide +kernel) (by decide +kernel)).2 (by decide +kernel) (by decide +kernel))
theorem witness_end_misaligned (H : Obligations.EndReleasesAndWaits) :
    Completes (.endFibre gd 5 4) (S fib) :=
  traps_completes ((H gd 5 4 (S fib) fib (by decide +kernel) (by decide +kernel) (by decide +kernel)
    (by decide +kernel)).2.1 (by decide +kernel) (by decide +kernel))
theorem witness_end_counter (H : Obligations.EndReleasesAndWaits) :
    Completes (.endFibre gd 4 4) (S bufd) :=
  blocks_completes (((H gd 4 4 (S bufd) bufd (by decide +kernel) (by decide +kernel) (by decide +kernel)
    (by decide +kernel)).2.2 _ (by decide +kernel) (by decide +kernel) (okP1 (by decide +kernel)) (noRepl
    (by decide +kernel)) (by decide +kernel)).1 (by decide +kernel) (by decide +kernel))

/-! YieldSleepAndNop -/

theorem witness_nop (H : Obligations.YieldSleepAndNop) :
    Completes (.nop hd) (S fib) :=
  does_completes ((H hd (S fib) fib (by decide +kernel)).1)
theorem witness_yield (H : Obligations.YieldSleepAndNop) :
    Completes (.yield gd) (S fib) :=
  (fun h => h.elim fun t h => h.elim fun _ h => ⟨t, h.1⟩) ((H hd (S fib) fib (by decide +kernel)).2.1)
theorem witness_sleept_past (H : Obligations.YieldSleepAndNop) :
    Completes (.sleept gd 0) (S fib) :=
  does_completes (((H hd (S fib) fib (by decide +kernel)).2.2.1 0 (by decide +kernel)).1 (by decide +kernel))
theorem witness_sleept (H : Obligations.YieldSleepAndNop) :
    Completes (.sleept gd 4) (S fib) :=
  (fun h => h.elim fun t h => h.elim fun _ h => ⟨t, h.1⟩) (((H hd (S fib) fib (by decide +kernel)).2.2.1 4
    (by decide +kernel)).2 (by decide +kernel))
theorem witness_nop_plain (H : Obligations.YieldSleepAndNop) :
    Completes (.nop hd) (S fib) :=
  (fun h => h.elim fun t h => ⟨t, h.1⟩) ((H hd (S fib) fib (by decide +kernel)).2.2.2 (by decide +kernel)
    (by decide +kernel) (by decide +kernel))

/-! BarriersOfTheGrid -/

theorem witness_step (H : Obligations.BarriersOfTheGrid) :
    Completes (.step gd) (S bufd) :=
  next_completes ((H.1 gd (S bufd) bufd _ (by decide +kernel) (got1 (by decide +kernel)) (by decide +kernel)).1)
theorem witness_ropebar (H : Obligations.BarriersOfTheGrid) :
    Completes (.ropebar gd) (S bufd) :=
  next_completes ((H.1 gd (S bufd) bufd _ (by decide +kernel) (got1 (by decide +kernel)) (by decide +kernel)).2.1
    (by decide +kernel) (by decide +kernel))
theorem witness_ropebar_lost (H : Obligations.BarriersOfTheGrid) :
    Completes (.ropebar gd) (lostS bufd) :=
  next_completes ((H.1 gd (lostS bufd) bufd _ (by decide +kernel) (got1 (by decide +kernel)) (by decide +kernel)).2.2
    (by decide +kernel) (by decide +kernel))
theorem witness_released (H : Obligations.BarriersOfTheGrid) :
    (((two arrf arrf).tryStep 0).launch? 0).map (·.stepn) = some 1 :=
  (fun h => h.1) ((H.2 (two arrf arrf) (launchWith [(24, 2)]) 0 (by decide +kernel) (by decide +kernel)
    (by decide +kernel)).1 ⟨arrf, (by decide +kernel)⟩ (by decide +kernel))

/-! HintWordsJoinTheirGroup -/

theorem witness_lit (H : Obligations.HintWordsJoinTheirGroup) :
    Completes (.hintLit 5) (S fib) :=
  (fun h => h.elim fun t h => h.elim fun _ h => ⟨t, h.1⟩) ((H (S fib) fib (by decide +kernel)).1 5)

/-! ArmConfiguresABelay -/

theorem witness_arm_dis (H : Obligations.ArmConfiguresABelay) :
    Completes (.arm hd 3 6) (A 0 true [] (cfgf 0)) := by
  refine does_completes ((H hd 3 6 (A 0 true [] (cfgf 0)) (cfgf 0) _ _ (by decide +kernel) (by decide +kernel) (got1
    (by decide +kernel)) ?_ ?_ ?_ ?_ ?_ ?_ (got1 (by decide +kernel))).1 (by decide +kernel)
    (by decide +kernel)) <;> decide +kernel
theorem witness_arm_same (H : Obligations.ArmConfiguresABelay) :
    Completes (.arm hd 3 4) (A 0 true [] (cfgf 0)) := by
  refine does_completes ((H hd 3 4 (A 0 true [] (cfgf 0)) (cfgf 0) _ _ (by decide +kernel) (by decide +kernel) (got1
    (by decide +kernel)) ?_ ?_ ?_ ?_ ?_ ?_ (got1 (by decide +kernel))).2.1 (by decide +kernel) (by decide +kernel)
    (by decide +kernel)) <;> decide +kernel
theorem witness_arm_new (H : Obligations.ArmConfiguresABelay) :
    Completes (.arm hd 3 4) (A 3 true [] (cfgf 0)) := by
  refine does_completes ((H hd 3 4 (A 3 true [] (cfgf 0)) (cfgf 0) _ _ (by decide +kernel) (by decide +kernel) (got1
    (by decide +kernel)) ?_ ?_ ?_ ?_ ?_ ?_ (got1 (by decide +kernel))).2.2.1 (by decide +kernel) (by decide +kernel)
    (by decide +kernel) (by decide +kernel)) <;> decide +kernel
theorem witness_arm_pattern (H : Obligations.ArmConfiguresABelay) :
    Completes (.arm hd 3 4) (A 2 false [] (cfgf 2)) := by
  refine does_completes ((H hd 3 4 (A 2 false [] (cfgf 2)) (cfgf 2) _ _ (by decide +kernel) (by decide +kernel) (got1
    (by decide +kernel)) ?_ ?_ ?_ ?_ ?_ ?_ (got1 (by decide +kernel))).2.2.2.1 (List.replicate 256 255) ?_ ?_ ?_ ?_ ?_
    ?_) <;> decide +kernel
theorem witness_arm_open (H : Obligations.ArmConfiguresABelay) :
    Completes (.arm hd 3 4) (A 3 true [aSign] (cfgf 0)) := by
  refine next_completes ((H hd 3 4 (A 3 true [aSign] (cfgf 0)) (cfgf 0) _ _ (by decide +kernel) (by decide +kernel) (got1
    (by decide +kernel)) ?_ ?_ ?_ ?_ ?_ ?_ (got1 (by decide +kernel))).2.2.2.2 (by decide +kernel) (by decide +kernel)
    (by decide +kernel)) <;> decide +kernel

/-! SignsAreRecorded -/

theorem witness_sign (H : Obligations.SignsAreRecorded) :
    Completes (.sign hd 3 false 4 8) (A 0 true [] fib) :=
  (fun h => does_completes (h.2 rfl)) (((H hd 3 4 8 (A 0 true [] fib) fib _ _ 0 (by decide +kernel) (by decide +kernel)
    (by decide +kernel) (by decide +kernel) (by decide +kernel) (got1 (by decide +kernel)) (got1 (by decide +kernel))).1
    false (by decide +kernel)).1 (by decide +kernel))
theorem witness_sign_w (H : Obligations.SignsAreRecorded) :
    Completes (.sign hd 3 true 4 8) (A 0 true [] fib) :=
  (fun h => next_completes (h.1 rfl)) (((H hd 3 4 8 (A 0 true [] fib) fib _ _ 0 (by decide +kernel) (by decide +kernel)
    (by decide +kernel) (by decide +kernel) (by decide +kernel) (got1 (by decide +kernel)) (got1 (by decide +kernel))).1
    true (by decide +kernel)).1 (by decide +kernel))
theorem witness_vote (H : Obligations.SignsAreRecorded) :
    Completes (.vote hd 3 false 4 8) (A 0 true [] fib) :=
  (fun h => does_completes (h.2 rfl)) (((H hd 3 4 8 (A 0 true [] fib) fib _ _ 0 (by decide +kernel) (by decide +kernel)
    (by decide +kernel) (by decide +kernel) (by decide +kernel) (got1 (by decide +kernel)) (got1 (by decide +kernel))).1
    false (by decide +kernel)).2.1 (by decide +kernel))
theorem witness_vote_w (H : Obligations.SignsAreRecorded) :
    Completes (.vote hd 3 true 4 8) (A 0 true [] fib) :=
  (fun h => next_completes (h.1 rfl)) (((H hd 3 4 8 (A 0 true [] fib) fib _ _ 0 (by decide +kernel) (by decide +kernel)
    (by decide +kernel) (by decide +kernel) (by decide +kernel) (got1 (by decide +kernel)) (got1 (by decide +kernel))).1
    true (by decide +kernel)).2.1 (by decide +kernel))
theorem witness_xchg (H : Obligations.SignsAreRecorded) :
    Completes (.xchg hd 3 false 4 8) (A 2 true [] fib) :=
  (fun h => does_completes (h.2 rfl)) (((H hd 3 4 8 (A 2 true [] fib) fib _ _ 0 (by decide +kernel) (by decide +kernel)
    (by decide +kernel) (by decide +kernel) (by decide +kernel) (got1 (by decide +kernel)) (got1 (by decide +kernel))).1
    false (by decide +kernel)).2.2.1 (by decide +kernel))
theorem witness_xchg_w (H : Obligations.SignsAreRecorded) :
    Completes (.xchg hd 3 true 4 8) (A 2 true [] fib) :=
  (fun h => next_completes (h.1 rfl)) (((H hd 3 4 8 (A 2 true [] fib) fib _ _ 0 (by decide +kernel) (by decide +kernel)
    (by decide +kernel) (by decide +kernel) (by decide +kernel) (got1 (by decide +kernel)) (got1 (by decide +kernel))).1
    true (by decide +kernel)).2.2.1 (by decide +kernel))
theorem witness_redmax (H : Obligations.SignsAreRecorded) :
    Completes (.redmax hd 3 false 4 8) (A 0 true [] fib) :=
  (fun h => does_completes (h.2 rfl)) (((H hd 3 4 8 (A 0 true [] fib) fib _ _ 0 (by decide +kernel) (by decide +kernel)
    (by decide +kernel) (by decide +kernel) (by decide +kernel) (got1 (by decide +kernel)) (got1 (by decide +kernel))).1
    false (by decide +kernel)).2.2.2.1 (by decide +kernel))
theorem witness_redmax_w (H : Obligations.SignsAreRecorded) :
    Completes (.redmax hd 3 true 4 8) (A 0 true [] fib) :=
  (fun h => next_completes (h.1 rfl)) (((H hd 3 4 8 (A 0 true [] fib) fib _ _ 0 (by decide +kernel) (by decide +kernel)
    (by decide +kernel) (by decide +kernel) (by decide +kernel) (got1 (by decide +kernel)) (got1 (by decide +kernel))).1
    true (by decide +kernel)).2.2.2.1 (by decide +kernel))
theorem witness_redadd (H : Obligations.SignsAreRecorded) :
    Completes (.redadd hd 3 false 4 8) (A 0 true [] fib) :=
  (fun h => does_completes (h.2 rfl)) (((H hd 3 4 8 (A 0 true [] fib) fib _ _ 0 (by decide +kernel) (by decide +kernel)
    (by decide +kernel) (by decide +kernel) (by decide +kernel) (got1 (by decide +kernel)) (got1 (by decide +kernel))).1
    false (by decide +kernel)).2.2.2.2 (by decide +kernel))
theorem witness_redadd_w (H : Obligations.SignsAreRecorded) :
    Completes (.redadd hd 3 true 4 8) (A 0 true [] fib) :=
  (fun h => next_completes (h.1 rfl)) (((H hd 3 4 8 (A 0 true [] fib) fib _ _ 0 (by decide +kernel) (by decide +kernel)
    (by decide +kernel) (by decide +kernel) (by decide +kernel) (got1 (by decide +kernel)) (got1 (by decide +kernel))).1
    true (by decide +kernel)).2.2.2.2 (by decide +kernel))
theorem witness_scan (H : Obligations.SignsAreRecorded) :
    Completes (.scan hd 3 false 4 8) (A 0 true [] fib) :=
  (fun h => does_completes (h.2 rfl)) ((H hd 3 4 8 (A 0 true [] fib) fib _ _ 0 (by decide +kernel) (by decide +kernel)
    (by decide +kernel) (by decide +kernel) (by decide +kernel) (got1 (by decide +kernel)) (got1 (by decide +kernel))).2.1
    false (by decide +kernel) (by decide +kernel))
theorem witness_bar (H : Obligations.SignsAreRecorded) :
    Completes (.bar gd 3 false 8) (A 3 true [] fib) :=
  (fun h => does_completes (h.2 rfl)) ((H hd 3 4 8 (A 3 true [] fib) fib _ _ 0 (by decide +kernel) (by decide +kernel)
    (by decide +kernel) (by decide +kernel) (by decide +kernel) (got1 (by decide +kernel)) (got1 (by decide +kernel))).2.2.1
    false (by decide +kernel) (by decide +kernel))
theorem witness_mmaE4m3 (H : Obligations.SignsAreRecorded) :
    Completes (.mmaE4m3 hd 3 true 4 0) (A 1 true [] fib) :=
  (fun h => does_completes (h.2 rfl)) (((H hd 3 4 0 (A 1 true [] fib) fib _ _ 0 (by decide +kernel) (by decide +kernel)
    (by decide +kernel) (by decide +kernel) (by decide +kernel) (got1 (by decide +kernel)) (got1
    (by decide +kernel))).2.2.2 true (by decide +kernel) (by decide +kernel)).1 (by decide +kernel) (by decide +kernel))
theorem witness_mmapE4m3 (H : Obligations.SignsAreRecorded) :
    Completes (.mmapE4m3 hd 3 true 4 0) (A 1 true [] fib) :=
  (fun h => does_completes (h.2 rfl)) (((H hd 3 4 0 (A 1 true [] fib) fib _ _ 0 (by decide +kernel) (by decide +kernel)
    (by decide +kernel) (by decide +kernel) (by decide +kernel) (got1 (by decide +kernel)) (got1
    (by decide +kernel))).2.2.2 true (by decide +kernel) (by decide +kernel)).2.1 (by decide +kernel) (by decide +kernel))
theorem witness_mmaH (H : Obligations.SignsAreRecorded) :
    Completes (.mmaH hd 3 true 4 0) (A 1 true [] fib) :=
  (fun h => does_completes (h.2 rfl)) (((H hd 3 4 0 (A 1 true [] fib) fib _ _ 0 (by decide +kernel) (by decide +kernel)
    (by decide +kernel) (by decide +kernel) (by decide +kernel) (got1 (by decide +kernel)) (got1
    (by decide +kernel))).2.2.2 true (by decide +kernel) (by decide +kernel)).2.2.1 (by decide +kernel) (by decide +kernel))
theorem witness_mmaBh (H : Obligations.SignsAreRecorded) :
    Completes (.mmaBh hd 3 true 4 0) (A 1 true [] fib) :=
  (fun h => does_completes (h.2 rfl)) (((H hd 3 4 0 (A 1 true [] fib) fib _ _ 0 (by decide +kernel) (by decide +kernel)
    (by decide +kernel) (by decide +kernel) (by decide +kernel) (got1 (by decide +kernel)) (got1
    (by decide +kernel))).2.2.2 true (by decide +kernel) (by decide +kernel)).2.2.2.1 (by decide +kernel)
      (by decide +kernel))
theorem witness_mmaI8 (H : Obligations.SignsAreRecorded) :
    Completes (.mmaI8 hd 3 true 4 0) (A 1 true [] fib) :=
  (fun h => does_completes (h.2 rfl)) (((H hd 3 4 0 (A 1 true [] fib) fib _ _ 0 (by decide +kernel) (by decide +kernel)
    (by decide +kernel) (by decide +kernel) (by decide +kernel) (got1 (by decide +kernel)) (got1
    (by decide +kernel))).2.2.2 true (by decide +kernel) (by decide +kernel)).2.2.2.2 (by decide +kernel)
      (by decide +kernel))

/-! ResultsOfAGeneration -/

theorem witness_gen_sign (H : Obligations.ResultsOfAGeneration) :
    ∃ v, (gen2 1).share 2 (nth aSign (gen2 1).signed 0) = (8, v) :: [] :=
  (fun h => h.elim fun _ h => ⟨_, h.2.2⟩) ((H.1 (gen2 1) 2 (nth aSign (gen2 1).signed 0) (by decide +kernel)
    (by decide +kernel) (by decide +kernel)).1 (by decide +kernel))
theorem witness_gen_vote (H : Obligations.ResultsOfAGeneration) :
    ∃ v, (gen2 2).share 2 (nth aSign (gen2 2).signed 0) = (8, v) :: [] :=
  (fun h => h.elim fun _ h => ⟨_, h.1⟩) ((H.1 (gen2 2) 2 (nth aSign (gen2 2).signed 0) (by decide +kernel) (by decide +kernel)
    (by decide +kernel)).2.1 (by decide +kernel))
theorem witness_gen_scan (H : Obligations.ResultsOfAGeneration) :
    (gen2 3).share 2 (nth aSign (gen2 3).signed 0) ≠ [] :=
  (fun h => by rw [h]; exact List.cons_ne_nil _ _) ((H.1 (gen2 3) 2 (nth aSign (gen2 3).signed 0) (by decide +kernel)
    (by decide +kernel) (by decide +kernel)).2.2.1 (by decide +kernel))
theorem witness_gen_bar (H : Obligations.ResultsOfAGeneration) :
    ∃ v, (gen2 5).share 2 (nth aSign (gen2 5).signed 0) = (8, v) :: [] :=
  (fun h => ⟨_, h⟩) ((H.1 (gen2 5) 2 (nth aSign (gen2 5).signed 0) (by decide +kernel) (by decide +kernel)
    (by decide +kernel)).2.2.2.2.1 (by decide +kernel))
theorem witness_gen_redmax (H : Obligations.ResultsOfAGeneration) :
    ∃ v, (gen2 6).share 2 (nth aSign (gen2 6).signed 0) = (8, v) :: [] :=
  (fun h => h.elim fun _ h => ⟨_, h.1⟩) ((H.1 (gen2 6) 2 (nth aSign (gen2 6).signed 0) (by decide +kernel) (by decide +kernel)
    (by decide +kernel)).2.2.2.2.2.1 (by decide +kernel))
theorem witness_gen_redadd (H : Obligations.ResultsOfAGeneration) :
    ∃ v, (gen2 7).share 2 (nth aSign (gen2 7).signed 0) = (8, v) :: [] :=
  (fun h => ⟨_, h⟩) ((H.1 (gen2 7) 2 (nth aSign (gen2 7).signed 0) (by decide +kernel) (by decide +kernel)
    (by decide +kernel)).2.2.2.2.2.2 (by decide +kernel))
theorem witness_gen_xchg (H : Obligations.ResultsOfAGeneration) :
    ∃ v, (gen2 4).share 2 (nth aSign (gen2 4).signed 0) = (8, v) :: [] :=
  (fun h => h.elim fun _ h => ⟨_, h.1⟩) ((H.1 (gen2 4) 2 (nth aSign (gen2 4).signed 0) (by decide +kernel) (by decide +kernel)
    (by decide +kernel)).2.2.2.1 (by decide +kernel))
/-- A sign of the only member of a belay, whose fibre waits for it; and the team and the launch of it. -/
def loneS (signs : List Sign) : State := A 0 true signs (at_ (.blocked (.belay 3)))
def loneSign : Sign := ⟨0, 0, 6, 4, 9, 0, true⟩
theorem witness_gen_open (H : Obligations.ResultsOfAGeneration) : (loneS []).tryBelay 0 0 3 = loneS [] :=
  (H.2 (loneS []) (((loneS []).team? 0 0).get (by decide +kernel)) (((loneS []).launch? 0).get (by decide +kernel)) 3
    (got1 (by decide +kernel)) (got1 (by decide +kernel))).1 (fun h => h.2.1 (by decide +kernel))
theorem witness_gen_complete (H : Obligations.ResultsOfAGeneration) :
    ∃ f, ((loneS [loneSign]).tryBelay 0 0 3).fibre? ⟨0, 0, 0⟩ = some f :=
  (fun h => ⟨_, h.2.1 loneSign (by decide +kernel) _ (got1 (by decide +kernel))⟩) ((H.2 (loneS [loneSign])
    (((loneS [loneSign]).team? 0 0).get (by decide +kernel)) (((loneS [loneSign]).launch? 0).get (by decide +kernel)) 3
    (got1 (by decide +kernel)) (got1 (by decide +kernel))).2 (by decide +kernel) (by decide +kernel) (by decide +kernel))

/-! BanksClearsAndInvalidation -/

theorem witness_aballoc (H : Obligations.BanksClearsAndInvalidation) :
    Completes (.aballoc gd 8 5) (S bufd) := by
  refine blocks_completes ((H hd (S bufd) bufd (by decide +kernel)).1 8 5 ?_ ?_ ?_ ?_ ?_ ?_ ?_) <;> decide +kernel
theorem witness_abfree (H : Obligations.BanksClearsAndInvalidation) :
    Completes (.abfree hd) (M bufd) :=
  does_completes ((H hd (M bufd) bufd (by decide +kernel)).2.1 (by decide +kernel) (by decide +kernel))
theorem witness_abfree_none (H : Obligations.BanksClearsAndInvalidation) :
    Completes (.abfree hd) (S fib) :=
  traps_completes ((H hd (S fib) fib (by decide +kernel)).2.2.1 (by decide +kernel) (by decide +kernel))
theorem witness_accz (H : Obligations.BanksClearsAndInvalidation) :
    Completes (.accz hd 0) (M fib) := by
  refine does_completes ((H hd (M fib) fib (by decide +kernel)).2.2.2.1 0 ?_ ?_ ?_ ?_ ?_ ?_ ?_) <;> decide +kernel
theorem witness_tdinv (H : Obligations.BanksClearsAndInvalidation) :
    Completes (.tdinv hd 2) (M fib) :=
  does_completes ((H hd (M fib) fib (by decide +kernel)).2.2.2.2 2)

/-! DescriptorsTilesAndTables -/

theorem witness_tdset (H : Obligations.DescriptorsTilesAndTables) :
    Completes (.tdset hd 9 6) (M matf) := by
  refine does_completes (((H hd (M matf) matf _ _ (by decide +kernel) (got1 (by decide +kernel)) (got1 (by decide +kernel))
    (by decide +kernel)).1 9 6 ?_ ?_ ?_ ?_ ?_).2 ?_ ?_ ?_) <;> decide +kernel
/-- The machine whose team's descriptor lies on poisoned bytes. -/
def poisonedM (f : Fibre) : State := (M f).onTeam 0 0 fun t => { t with bad := [0, 32] }
theorem witness_tdset_poisoned (H : Obligations.DescriptorsTilesAndTables) :
    Completes (.tdset hd 9 6) (poisonedM matf) := by
  refine next_completes (((H hd (poisonedM matf) matf _ _ (by decide +kernel) (got1 (by decide +kernel))
    (got1 (by decide +kernel)) (by decide +kernel)).1 9 6 ?_ ?_ ?_ ?_ ?_).1 ?_) <;> decide +kernel
theorem witness_accld (H : Obligations.DescriptorsTilesAndTables) :
    Completes (.accld hd 4) (M matf) := by
  refine does_completes (((H hd (M matf) matf _ _ (by decide +kernel) (got1 (by decide +kernel)) (got1 (by decide +kernel))
    (by decide +kernel)).2.1 4 _ (by decide +kernel) (by decide +kernel) (got1 (by decide +kernel)) ?_ ?_ ?_ ?_ ?_ ?_ ?_
    ?_).2 ?_) <;> decide +kernel
theorem witness_accld_poisoned (H : Obligations.DescriptorsTilesAndTables) :
    Completes (.accld hd 4) (poisonedM matf) := by
  refine next_completes (((H hd (poisonedM matf) matf _ _ (by decide +kernel) (got1 (by decide +kernel))
    (got1 (by decide +kernel)) (by decide +kernel)).2.1 4 _ (by decide +kernel) (by decide +kernel)
    (got1 (by decide +kernel)) ?_ ?_ ?_ ?_ ?_ ?_ ?_ ?_).1 ?_) <;> decide +kernel
theorem witness_drain (H : Obligations.DescriptorsTilesAndTables) :
    Completes (.drain gd 8 4 0) (M matf) := by
  refine blocks_completes ((H hd (M matf) (matf) _ _ (by decide +kernel) (got1 (by decide +kernel)) (got1
    (by decide +kernel)) (by decide +kernel)).2.2.1 8 4 0 _ (by decide +kernel) (by decide +kernel) (by decide +kernel)
    (got1 (by decide +kernel)) ?_ ?_ ?_ ?_ ?_ ?_ ?_ ?_ ?_ ?_ ?_) <;> decide +kernel
theorem witness_tbld (H : Obligations.DescriptorsTilesAndTables) :
    Completes (.tbld hd 7 7) (M matf) :=
  (fun h => does_completes h.2) (((H hd (M matf) matf _ _ (by decide +kernel) (got1 (by decide +kernel)) (got1
    (by decide +kernel)) (by decide +kernel)).2.2.2 7 7 (by decide +kernel) (by decide +kernel)).1 _ _ _ (by decide +kernel)
    (by decide +kernel) (okP (by decide +kernel)) (got (by decide +kernel)))
theorem witness_tbld_expr (H : Obligations.DescriptorsTilesAndTables) :
    Completes (.tbld hd 9 7) (M (tblf 1)) :=
  does_completes (((H hd (M (tblf 1)) ((tblf 1)) _ _ (by decide +kernel) (got1 (by decide +kernel)) (got1
    (by decide +kernel)) (by decide +kernel)).2.2.2 9 7 (by decide +kernel) (by decide +kernel)).2.1 1 (by decide +kernel)
    (by decide +kernel) (by decide +kernel))
theorem witness_tbld_bad (H : Obligations.DescriptorsTilesAndTables) :
    Completes (.tbld hd 9 7) (M (tblf 7)) :=
  next_completes (((H hd (M (tblf 7)) ((tblf 7)) _ _ (by decide +kernel) (got1 (by decide +kernel)) (got1
    (by decide +kernel)) (by decide +kernel)).2.2.2 9 7 (by decide +kernel) (by decide +kernel)).2.2 7 0 (by decide +kernel)
    (by decide +kernel) (by decide +kernel))

/-! ExpressionWord -/

theorem witness_expr (H : Obligations.ExpressionWord) :
    Completes (.expr hd 1 8 4 5) (M fib) :=
  (fun h => h.elim fun _ h => h.elim fun _ h => does_completes h.2) ((H hd 1 8 4 5 (M fib) fib _ (by decide +kernel) (got1
    (by decide +kernel)) (by decide +kernel)).1 1
    (by decide +kernel))
theorem witness_expr_none (H : Obligations.ExpressionWord) :
    Completes (.expr hd 2 8 4 5) (M fib) :=
  traps_completes ((H hd 2 8 4 5 (M fib) fib _ (by decide +kernel) (got1 (by decide +kernel)) (by decide +kernel)).2
    (by decide +kernel))

/-! EngineWordsPresentTheirCommand -/

theorem witness_cpy (H : Obligations.EngineWordsPresentTheirCommand) :
    Completes (.cpy gd 2 3 8 5) (S copyf) := by
  refine (fun h => next_completes (h.2 (by decide +kernel))) ((H gd 2 3 8 5 (S copyf) copyf (by decide +kernel)
    (by decide +kernel) (by decide +kernel)).1 _ (mem_at copyTable 0 (by decide +kernel)) _ _ ?_ ?_ ?_ ?_ ?_ ?_ (okP
    (by decide +kernel)) (okP (by decide +kernel)) (fun _ _ h => absurd h (by decide +kernel)) (by decide +kernel)
    (by decide +kernel) (by decide +kernel)) <;> decide +kernel
theorem witness_cpy_spad (H : Obligations.EngineWordsPresentTheirCommand) :
    Completes (.cpy gd 2 3 12 11) (M copyf) := by
  refine (fun h => next_completes (h.2 (by decide +kernel))) ((H gd 2 3 12 11 (M copyf) copyf (by decide +kernel)
    (by decide +kernel) (by decide +kernel)).1 _ (mem_at copyTable 0 (by decide +kernel)) _ _ ?_ ?_ ?_ ?_ ?_ ?_ (okP
    (by decide +kernel)) (okP (by decide +kernel)) (fun _ _ h => absurd h (by decide +kernel)) (by decide +kernel)
    (by decide +kernel) (by decide +kernel)) <;> decide +kernel
theorem witness_cpy_guard (H : Obligations.EngineWordsPresentTheirCommand) :
    Completes (.cpy gd 2 3 8 5) (slotS .unresolved guardf) := by
  refine (fun h => next_completes (h.2 (by decide +kernel))) ((H gd 2 3 8 5 (slotS .unresolved guardf) guardf (by decide +kernel)
    (by decide +kernel) (by decide +kernel)).1 _ (mem_at copyTable 0 (by decide +kernel)) _ _ ?_ ?_ ?_ ?_ ?_ ?_ (okP
    (by decide +kernel)) (okP (by decide +kernel)) (fun _ _ h => absurd h (by decide +kernel)) (by decide +kernel)
    (by decide +kernel) (by decide +kernel)) <;> decide +kernel
theorem witness_cpy_discarded (H : Obligations.EngineWordsPresentTheirCommand) :
    Completes (.cpy gd 2 3 8 5) (slotS .false_ guardf) := by
  refine (fun h => does_completes (h.1 (by decide +kernel))) ((H gd 2 3 8 5 (slotS .false_ guardf) guardf (by decide +kernel)
    (by decide +kernel) (by decide +kernel)).1 _ (mem_at copyTable 0 (by decide +kernel)) _ _ ?_ ?_ ?_ ?_ ?_ ?_ (okP
    (by decide +kernel)) (okP (by decide +kernel)) (fun _ _ h => absurd h (by decide +kernel)) (by decide +kernel)
    (by decide +kernel) (by decide +kernel)) <;> decide +kernel
theorem witness_fill (H : Obligations.EngineWordsPresentTheirCommand) :
    Completes (.fill gd 2 3 8 5) (S copyf) := by
  refine (fun h => next_completes (h.2 (by decide +kernel))) ((H gd 2 3 8 5 (S copyf) copyf (by decide +kernel)
    (by decide +kernel) (by decide +kernel)).1 _ (mem_at copyTable 2 (by decide +kernel)) _ _ ?_ ?_ ?_ ?_ ?_ ?_ (okP
    (by decide +kernel)) (okP (by decide +kernel)) (fun _ _ h => absurd h (by decide +kernel)) (by decide +kernel)
    (by decide +kernel) (by decide +kernel)) <;> decide +kernel
/-- The fibre with a length of one chunk in g15, and the machine whose team's chunk 0 is mapped: bound to a page, or filled with
a written line. -/
def mapf : Fibre := { fib with g := regsOf [(15, 4096), (17, 0x20000)] }
def mappedS (filled : Bool) : State :=
  (S mapf).onTeam 0 0 fun t =>
    { t with chunks := [⟨0, 0x20000, filled, none, if filled then [3] else [], some ⟨.dram 0x40000, true, 0, 0⟩, false⟩] }
theorem witness_spmap (H : Obligations.EngineWordsPresentTheirCommand) :
    Completes (.spmap gd 2 0 16 15) (S mapf) := by
  refine (fun h => next_completes (h.2 (by decide +kernel))) ((H gd 2 0 16 15 (S mapf) mapf (by decide +kernel)
    (by decide +kernel) (by decide +kernel)).1 _ (mem_at copyTable 5 (by decide +kernel)) _ _ ?_ ?_ ?_ ?_ ?_ ?_ (okP
    (by decide +kernel)) (okP (by decide +kernel)) (fun _ _ h => absurd h (by decide +kernel)) (by decide +kernel)
    (by decide +kernel) (by decide +kernel)) <;> decide +kernel
theorem witness_spfill (H : Obligations.EngineWordsPresentTheirCommand) :
    Completes (.spfill gd 2 0 14 15) (mappedS false) := by
  refine (fun h => next_completes (h.2 (by decide +kernel))) ((H gd 2 0 14 15 (mappedS false) mapf (by decide +kernel)
    (by decide +kernel) (by decide +kernel)).1 _ (mem_at copyTable 6 (by decide +kernel)) _ _ ?_ ?_ ?_ ?_ ?_ ?_ (okP
    (by decide +kernel)) (okP (by decide +kernel)) (fun _ _ h => absurd h (by decide +kernel)) (by decide +kernel)
    (by decide +kernel) (by decide +kernel)) <;> decide +kernel
theorem witness_spwb (H : Obligations.EngineWordsPresentTheirCommand) :
    Completes (.spwb gd 2 0 14 15) (mappedS true) := by
  refine (fun h => next_completes (h.2 (by decide +kernel))) ((H gd 2 0 14 15 (mappedS true) mapf (by decide +kernel)
    (by decide +kernel) (by decide +kernel)).1 _ (mem_at copyTable 7 (by decide +kernel)) _ _ ?_ ?_ ?_ ?_ ?_ ?_ (okP
    (by decide +kernel)) (okP (by decide +kernel)) (fun _ _ h => absurd h (by decide +kernel)) (by decide +kernel)
    (by decide +kernel) (by decide +kernel)) <;> decide +kernel
theorem witness_spunmap (H : Obligations.EngineWordsPresentTheirCommand) :
    Completes (.spunmap gd 2 0 14 15) (mappedS true) := by
  refine (fun h => next_completes (h.2 (by decide +kernel))) ((H gd 2 0 14 15 (mappedS true) mapf (by decide +kernel)
    (by decide +kernel) (by decide +kernel)).1 _ (mem_at copyTable 8 (by decide +kernel)) _ _ ?_ ?_ ?_ ?_ ?_ ?_ (okP
    (by decide +kernel)) (okP (by decide +kernel)) (fun _ _ h => absurd h (by decide +kernel)) (by decide +kernel)
    (by decide +kernel) (by decide +kernel)) <;> decide +kernel
theorem witness_gather (H : Obligations.EngineWordsPresentTheirCommand) :
    Completes (.gather gd 2 3 6 7) (M copyf) := by
  refine (fun h => next_completes (h.2 (by decide +kernel))) ((H gd 2 3 6 7 (M copyf) copyf (by decide +kernel)
    (by decide +kernel) (by decide +kernel)).2.1 _ (mem_at gatherTable 0 (by decide +kernel)) _ _ (by decide +kernel) (got1
    (by decide +kernel)) (got1 (by decide +kernel)) ?_ ?_ ?_ ?_ ?_ ?_ ?_ ?_ ?_ (got1
    (by decide +kernel)) (by decide +kernel)) <;> decide +kernel
theorem witness_launch (H : Obligations.EngineWordsPresentTheirCommand) :
    Completes (.launch gd 2 3 4) (S copyf) :=
  (fun h => next_completes (h.2 (by decide +kernel))) (((H gd 2 3 4 5 (S copyf) copyf (by decide +kernel)
    (by decide +kernel) (by decide +kernel)).2.2 _).1 (by decide +kernel) (by decide +kernel) (okP
    (by decide +kernel)) (by decide +kernel))
theorem witness_evsig (H : Obligations.EngineWordsPresentTheirCommand) :
    Completes (.evsig gd 2 3 4 5) (S copyf) :=
  (fun h => next_completes (h.2 (by decide +kernel))) (((H gd 2 3 4 5 (S copyf) copyf (by decide +kernel)
    (by decide +kernel) (by decide +kernel)).2.2 _).2 (by decide +kernel) (by decide +kernel) (okP
    (by decide +kernel)) (noRepls2 (by decide +kernel)) (by decide +kernel))

/-! GuardSlots -/

theorem witness_gset (H : Obligations.GuardSlots) :
    Completes (.gset gd 8 7) (slotS .unresolved bufd) :=
  (fun h => h.1.elim fun t h => h.elim fun _ h => ⟨t, h.1⟩) ((H gd 8 7 (slotS .unresolved bufd) bufd _ (by decide +kernel)
    (by decide +kernel) (by decide +kernel) (by decide +kernel) (got1 (by decide +kernel))).1 (by decide +kernel)
    (by decide +kernel))
/-- The machine with a FILL of the fibre held under slot 7. -/
def heldS : State :=
  { slotS .unresolved bufd with cmds := [{ fill0 with guard := some (7, false), state := .held }] }
theorem witness_gset_held (H : Obligations.GuardSlots) :
    Completes (.gset gd 8 7) heldS ∧ Completes (.gclr gd 8 7) heldS :=
  (fun h => ⟨h.1.elim fun t h => h.elim fun _ h => ⟨t, h.1⟩, h.2.elim fun t h => h.elim fun _ h => ⟨t, h.1⟩⟩)
    ((H gd 8 7 heldS bufd _ (by decide +kernel) (by decide +kernel) (by decide +kernel) (by decide +kernel)
      (got1 (by decide +kernel))).2.1 (by decide +kernel) (by decide +kernel) (by decide +kernel))
theorem witness_gset_again (H : Obligations.GuardSlots) :
    Completes (.gclr gd 8 7) (slotS .true_ bufd) :=
  (fun h => traps_completes h.2) ((H gd 8 7 (slotS .true_ bufd) bufd _ (by decide +kernel) (by decide +kernel)
    (by decide +kernel) (by decide +kernel) (got1 (by decide +kernel))).2.2.1 (by decide +kernel))
theorem witness_grst (H : Obligations.GuardSlots) :
    Completes (.grst hd 7) (slotS .true_ bufd) :=
  does_completes ((H gd 8 7 (slotS .true_ bufd) bufd _ (by decide +kernel) (by decide +kernel) (by decide +kernel)
    (by decide +kernel) (got1 (by decide +kernel))).2.2.2 true)

/-! WorklistPushes -/

theorem witness_wpush (H : Obligations.WorklistPushes) :
    Completes (.wpush gd 0 4 5) (L wl0 pushf) :=
  (fun h => next_completes h.1) ((H gd 0 4 5 (L wl0 pushf) pushf (by decide +kernel) (by decide +kernel)).1
    (by decide +kernel) (by decide +kernel) (by decide +kernel))
theorem witness_wpush_task (H : Obligations.WorklistPushes) :
    Completes (.wpush gd 0 4 5) (L wl0 taskf) :=
  does_completes ((H gd 0 4 5 (L wl0 taskf) taskf (by decide +kernel) (by decide +kernel)).2.1 (by decide +kernel)
    (by decide +kernel) (by decide +kernel))
theorem witness_wpushs_task (H : Obligations.WorklistPushes) :
    Completes (.wpushs gd 0 4 5) (L wl0 taskf) :=
  (fun h => h.elim fun _ h => traps_completes h.1) ((H gd 0 4 5 (L wl0 taskf) taskf (by decide +kernel)
    (by decide +kernel)).2.2.1 (by decide +kernel))
theorem witness_wpush_outside (H : Obligations.WorklistPushes) :
    Completes (.wpush gd 0 6 5) (L wl0 pushf) :=
  (fun h => traps_completes h.1) ((H gd 0 6 5 (L wl0 pushf) pushf (by decide +kernel) (by decide +kernel)).2.2.2
    (by decide +kernel) (by decide +kernel))

/-! WorklistPops -/

theorem witness_wpop (H : Obligations.WorklistPops) :
    Completes (.wpop hd 0 8 false) (L wl0 bufd) := by
  refine (fun h => h.elim fun _ h => does_completes (h.2.1 rfl).1) ((H hd 0 8 false (L wl0 bufd) bufd ?_ ?_ ?_ ?_ ?_ ?_).1
    (by decide +kernel)) <;> decide +kernel
theorem witness_wpopw (H : Obligations.WorklistPops) :
    Completes (.wpopw gd 0 8 false) (L wl0 fib) := by
  refine (fun h => h.elim fun _ h => does_completes (h.2.1 rfl).2) ((H hd 0 8 false (L wl0 fib) fib ?_ ?_ ?_ ?_ ?_ ?_).1
    (by decide +kernel)) <;> decide +kernel
theorem witness_wpop_dispatch (H : Obligations.WorklistPops) :
    Completes (.wpop hd 0 8 true) (L wl0 bufd) := by
  refine (fun h => h.elim fun _ h => goes_completes (h.2.2 rfl).1) ((H hd 0 8 true (L wl0 bufd) bufd ?_ ?_ ?_ ?_ ?_ ?_).1
    (by decide +kernel)) <;> decide +kernel
theorem witness_wpop_empty (H : Obligations.WorklistPops) :
    Completes (.wpop hd 0 8 true) (L Worklist.initial bufd) := by
  refine (fun h => does_completes h.1) ((H hd 0 8 true (L Worklist.initial bufd) bufd ?_ ?_ ?_ ?_ ?_ ?_).2
    (by decide +kernel)) <;> decide +kernel
theorem witness_wpopw_over (H : Obligations.WorklistPops) :
    Completes (.wpopw gd 0 8 true) (L { wl0 with tasks := [], terminated := true } bufd) := by
  refine (fun h => does_completes (h.2.1 (by decide +kernel))) ((H hd 0 8 true
    (L { wl0 with tasks := [], terminated := true } bufd) bufd ?_ ?_ ?_ ?_ ?_ ?_).2 (by decide +kernel)) <;> decide +kernel

/-! WorklistEndsAndStatistics -/

theorem witness_wdone (H : Obligations.WorklistEndsAndStatistics) :
    Completes (.wdone gd 0) (L wl0 taskf) :=
  next_completes ((H hd 0 (L wl0 taskf) taskf (by decide +kernel) (by decide +kernel) (by decide +kernel)).1
    (by decide +kernel) (by decide +kernel))
theorem witness_wdone_none (H : Obligations.WorklistEndsAndStatistics) :
    Completes (.wdone gd 0) (L wl0 pushf) :=
  (fun h => h.elim fun _ h => traps_completes h.1) ((H hd 0 (L wl0 pushf) pushf (by decide +kernel) (by decide +kernel)
    (by decide +kernel)).2.1 (by decide +kernel))
theorem witness_wbound (H : Obligations.WorklistEndsAndStatistics) :
    Completes (.wbound hd 0 5) (L wl0 pushf) :=
  does_completes ((H hd 0 (L wl0 pushf) pushf (by decide +kernel) (by decide +kernel) (by decide +kernel)).2.2.1 5
    (by decide +kernel) (by decide +kernel) (by decide +kernel))
theorem witness_wterm (H : Obligations.WorklistEndsAndStatistics) :
    Completes (.wterm gd 0 8) (L wl0 bufd) :=
  (fun h => blocks_completes (h.2 (by decide +kernel))) ((H hd 0 (L wl0 bufd) bufd (by decide +kernel) (by decide +kernel)
    (by decide +kernel)).2.2.2.1 8 (by decide +kernel) (by decide +kernel))
theorem witness_wterm_over (H : Obligations.WorklistEndsAndStatistics) :
    Completes (.wterm gd 0 8) (L { wl0 with terminated := true } bufd) :=
  (fun h => does_completes (h.1 (by decide +kernel))) ((H hd 0 (L { wl0 with terminated := true } bufd) bufd
    (by decide +kernel) (by decide +kernel)
    (by decide +kernel)).2.2.2.1 8 (by decide +kernel) (by decide +kernel))
theorem witness_wstat (H : Obligations.WorklistEndsAndStatistics) :
    Completes (.wstat hd 0 8 5) (L wl0 pushf) :=
  (fun h => does_completes (h.2.2.2.2.1 (by decide +kernel))) ((H hd 0 (L wl0 pushf) pushf (by decide +kernel)
    (by decide +kernel) (by decide +kernel)).2.2.2.2 8 5 (by decide +kernel)
    (by decide +kernel))

/-! TasksMoveAndTheHorizonFollows -/

theorem witness_pushAcceptance (H : Obligations.TasksMoveAndTheHorizonFollows) :
    Completes (.pushAcceptance 90) (P [push0 false] wl0 (at_ (.blocked (.push 90)))) :=
  some_completes ((H (P [push0 false] wl0 (at_ (.blocked (.push 90)))) 0 1 (at_ (.blocked (.push 90)))
    (by decide +kernel)).1 (push0
    false) _ (by decide +kernel) (by decide +kernel) (by decide +kernel) (by decide +kernel) (by decide +kernel) (got1
      (by decide +kernel)))
theorem witness_inversion (H : Obligations.TasksMoveAndTheHorizonFollows) :
    Completes (.inversionPushAnnounced 90) (P [push0 true] wl0 fib) :=
  (fun h => next_completes h.1) ((H (P [push0 true] wl0 fib) 0 1 (fib) (by decide +kernel)).2.1 (push0 true)
    (by decide +kernel) (by decide +kernel) (by decide +kernel) (by decide +kernel) (by decide +kernel))
theorem witness_broadcast (H : Obligations.TasksMoveAndTheHorizonFollows) :
    Completes (.horizonBroadcast 0) (P [] wl0 fib) :=
  some_completes ((H (P [] wl0 fib) 0 1 (fib) (by decide +kernel)).2.2.1)
theorem witness_wpopwDelivery (H : Obligations.TasksMoveAndTheHorizonFollows) :
    Completes (.wpopwDelivery ⟨0, 0, 0⟩ 3) (P [] wl0 (at_ (.blocked (.wpopw 0 8 true)))) :=
  (fun h => h.elim fun _ h => next_completes h.2) (((H (P [] wl0 (at_ (.blocked (.wpopw 0 8 true)))) 0 1 (at_
    (.blocked (.wpopw 0 8 true))) (by decide +kernel)).2.2.2.1 8 true 3 (by decide +kernel) (by decide +kernel)
      (by decide +kernel)).1 (by decide +kernel))
theorem witness_wpopwDelivery_over (H : Obligations.TasksMoveAndTheHorizonFollows) :
    Completes (.wpopwDelivery ⟨0, 0, 0⟩ 3) (P [] { wl0 with tasks := [], terminated := true } (at_ (.blocked (.wpopw
    0 8 true)))) :=
  next_completes (((H (P [] { wl0 with tasks := [], terminated := true } (at_ (.blocked (.wpopw 0 8 true)))) 0 1 (at_
    (.blocked (.wpopw 0 8 true))) (by decide +kernel)).2.2.2.1 8 true 3 (by decide +kernel) (by decide +kernel)
      (by decide +kernel)).2 (by decide +kernel) (by decide +kernel))
theorem witness_idleRequest (H : Obligations.TasksMoveAndTheHorizonFollows) :
    Completes (.idleRequest 0 1) (P [] { wl0 with idle := [1] } fib) :=
  (fun h => h.elim fun _ h => h.elim fun _ h => next_completes h.2.2.2.2.2) ((H (P [] { wl0 with idle := [1] } fib) 0
    1 (fib) (by decide +kernel)).2.2.2.2.1 (by decide +kernel) (by decide +kernel) ⟨⟨77, 3, 1, 55, 0, .queued 0⟩,
      (by decide +kernel), 0, (by decide +kernel)⟩)
theorem witness_taskTransferArrival (H : Obligations.TasksMoveAndTheHorizonFollows) :
    Completes (.taskTransferArrival 0 1) (P [] wl0 fib) :=
  next_completes ((H (P [] wl0 fib) 0 1 (fib) (by decide +kernel)).2.2.2.2.2.1 (by decide +kernel) (by decide +kernel))
theorem witness_sweep (H : Obligations.TasksMoveAndTheHorizonFollows) :
    Completes (.terminationSweep 0) (later (P [] wl0 fib)) :=
  next_completes (((H (later (P [] wl0 fib)) 0 1 (fib) (by decide +kernel)).2.2.2.2.2.2 (by decide +kernel)
    (by decide +kernel)).1 (by decide +kernel))
theorem witness_sweep_quiet (H : Obligations.TasksMoveAndTheHorizonFollows) :
    Completes (.terminationSweep 0) (later (P [] (quietWl none) fib)) :=
  next_completes (((H (later (P [] (quietWl none) fib)) 0 1 (fib) (by decide +kernel)).2.2.2.2.2.2 (by decide +kernel)
    (by decide +kernel)).2.1 (by decide +kernel) (by decide +kernel))
theorem witness_sweep_terminates (H : Obligations.TasksMoveAndTheHorizonFollows) :
    Completes (.terminationSweep 0) (later (P [] (quietWl (some (1, 1))) fib)) :=
  some_completes (((H (later (P [] (quietWl (some (1, 1))) fib)) 0 1 (fib) (by decide +kernel)).2.2.2.2.2.2
    (by decide +kernel) (by decide +kernel)).2.2 (by decide +kernel) (by decide +kernel))

/-! CommandsAreAcceptedAndComplete -/

theorem witness_commandAcceptance (H : Obligations.CommandsAreAcceptedAndComplete) :
    Completes (.commandAcceptance 40) (C [fill0] (at_ (.blocked (.accept 40)))) := by
  refine (fun h => h.elim fun t h => h.elim fun _ h => ⟨t, h.1⟩) ((H (C [fill0] (at_ (.blocked (.accept 40)))) fill0 (by decide +kernel)).1 _ _ _ (at_ (.blocked
    (.accept 40))) (by intro d hd h; exact absurd (List.mem_singleton.1 hd) h) ?_ ?_ ?_ ?_ ?_ ?_ (gotD
    (by decide +kernel)) (got (by decide +kernel)) (by decide +kernel) (by decide +kernel)) <;> decide +kernel
/-- A map command on chunk 0 of the team, with the machine whose chunk it is; a LAUNCH command; a GATHER presented. -/
def map0 (form : Nat) : Cmd :=
  { fill0 with form := form, regs := [0, 0x20000, 0, 4096], src := .spad 0 0, dst := .none,
               leaves := [(2, ⟨.dram 0x40000, true, 0, 0⟩)] }
def mapS (form : Nat) (f : Fibre) : State := { mappedS (form != 6) with cmds := [map0 form], fibres := [f] }
def launch0 : Cmd := { evsig0 with form := 0, regs := [0x22000], src := .global 0x22000, state := .presented, asked := true }
theorem witness_accept_spunmap (H : Obligations.CommandsAreAcceptedAndComplete) :
    Completes (.commandAcceptance 40) (mapS 8 (at_ (.blocked (.accept 40)))) := by
  refine (fun h => h.elim fun t h => h.elim fun _ h => ⟨t, h.1⟩) ((H (mapS 8 (at_ (.blocked (.accept 40)))) (map0 8) (by decide +kernel)).1 _ _ _ (at_ (.blocked
    (.accept 40))) (by intro d hd h; exact absurd (List.mem_singleton.1 hd) h) ?_ ?_ ?_ ?_ ?_ ?_ (gotD
    (by decide +kernel)) (got (by decide +kernel)) (by decide +kernel) (by decide +kernel)) <;> decide +kernel
theorem witness_accept_spfill (H : Obligations.CommandsAreAcceptedAndComplete) :
    Completes (.commandAcceptance 40) (mapS 6 (at_ (.blocked (.accept 40)))) := by
  refine (fun h => h.elim fun t h => h.elim fun _ h => ⟨t, h.1⟩) ((H (mapS 6 (at_ (.blocked (.accept 40)))) (map0 6) (by decide +kernel)).1 _ _ _ (at_ (.blocked
    (.accept 40))) (by intro d hd h; exact absurd (List.mem_singleton.1 hd) h) ?_ ?_ ?_ ?_ ?_ ?_ (gotD
    (by decide +kernel)) (got (by decide +kernel)) (by decide +kernel) (by decide +kernel)) <;> decide +kernel
theorem witness_accept_launch (H : Obligations.CommandsAreAcceptedAndComplete) :
    Completes (.commandAcceptance 40) (C [launch0] (at_ (.blocked (.accept 40)))) := by
  refine (fun h => h.elim fun t h => h.elim fun _ h => ⟨t, h.1⟩) ((H (C [launch0] (at_ (.blocked (.accept 40)))) launch0 (by decide +kernel)).1 _ _ _ (at_ (.blocked
    (.accept 40))) (by intro d hd h; exact absurd (List.mem_singleton.1 hd) h) ?_ ?_ ?_ ?_ ?_ ?_ (gotD
    (by decide +kernel)) (got (by decide +kernel)) (by decide +kernel) (by decide +kernel)) <;> decide +kernel
theorem witness_accept_gather (H : Obligations.CommandsAreAcceptedAndComplete) :
    Completes (.commandAcceptance 40) (C [{ gath0 with state := .presented }] (at_ (.blocked (.accept 40)))) := by
  refine (fun h => h.elim fun t h => h.elim fun _ h => ⟨t, h.1⟩) ((H (C [{ gath0 with state := .presented }] (at_ (.blocked (.accept 40)))) { gath0 with state := .presented } (by decide +kernel)).1 _ _ _ (at_ (.blocked
    (.accept 40))) (by intro d hd h; exact absurd (List.mem_singleton.1 hd) h) ?_ ?_ ?_ ?_ ?_ ?_ (gotD
    (by decide +kernel)) (got (by decide +kernel)) (by decide +kernel) (by decide +kernel)) <;> decide +kernel
theorem witness_copyComplete (H : Obligations.CommandsAreAcceptedAndComplete) :
    Completes (.copyCommandComplete 40) (C [done1] fib) := by
  refine next_completes ((H (C [done1] fib) done1 (by decide +kernel)).2.1 _ 0 0x300 ?_ ?_ ?_ ?_ ?_ ?_ ?_ ?_ ?_ (got1
    (by decide +kernel))) <;> decide +kernel
/-- The place in local memory of an operand, where it has one. -/
def dramOf : Option (Place × Leaf) → Option (Nat × Leaf)
  | some (.dram pa, l) => some (pa, l)
  | _ => none
theorem gotDram {x : Option (Place × Leaf)} (h : (dramOf x).isSome = true) : ∃ pa leaf, x = some (.dram pa, leaf) := by
  unfold dramOf at h
  split at h
  · exact ⟨_, _, rfl⟩
  · cases h
/-- Every translation that a command with one leaf, of an aligned frame, holds is of that frame. -/
theorem alignedOne {c : Cmd} {v : Nat} {l : Leaf} {b : Nat} (hc : c.leaves = [(v, l)]) (hl : l.base = .dram b) (hb : b % 65536 = 0) :
    ∀ va pa leaf, c.leaf? va = some leaf → leaf.base = .dram pa → pa % 65536 = 0 := by
  intro va pa leaf h hp
  unfold Cmd.leaf? at h
  rw [hc] at h
  simp only [List.find?_cons, List.find?_nil] at h
  split at h
  · cases h; rw [hl] at hp; cases hp; exact hb
  · cases h
/-- Commands that have only to write: a FILL of 8 bytes of global memory, a CMPB, a CPYFP that finds its table full. -/
def gfill : Cmd :=
  { done0 with regs := [0x22000, 7, 0, 8], dst := .global 0x22000, leaves := [(2, ⟨.dram 0x40000, true, 0, 0⟩)], out := [⟨0, 0, 8⟩] }
def cmpb0 : Cmd :=
  { done0 with form := 4, regs := [0x11100, 0x11200, 0x22000, 2], dst := .global 0x11200, leaves := [(2, ⟨.dram 0x40000, true, 0, 0⟩)],
               got := [(0, 1), (1, 2), (rangeB, 1), (rangeB + 1, 2)] }
theorem witness_fill_global (H : Obligations.CommandsAreAcceptedAndComplete) :
    Completes (.copyCommandComplete 40) (C [gfill] fib) := by
  refine some_completes ((H (C [gfill] fib) gfill (by decide +kernel)).2.2.1 0x22000 ?_ (alignedOne rfl rfl (by decide)) ?_ ?_ ?_ ?_ ?_ ?_
    (fun p hp i hi => gotDram ((by decide +kernel : ∀ p ∈ gfill.out, ∀ i < p.n,
      (dramOf (gfill.place? (0x22000 + p.off + i))).isSome = true) p hp i hi)) ?_) <;> decide +kernel
theorem witness_fill_covers (H : Obligations.CommandsAreAcceptedAndComplete) :
    ∃ p ∈ gfill.toWrite, p.idx ≤ 0 * 8 + 7 := by
  obtain ⟨p, hp, h, -⟩ := (H (C [gfill] fib) gfill (by decide +kernel)).2.2.2.1 0x22000 (by decide) rfl 0 (by decide +kernel) 7
    (by decide +kernel)
  exact ⟨p, hp, h⟩
theorem witness_cmpb (H : Obligations.CommandsAreAcceptedAndComplete) :
    Completes (.copyCommandComplete 40) (C [cmpb0] fib) := by
  refine some_completes (((H (C [cmpb0] fib) cmpb0 (by decide +kernel)).2.2.2.2.1 0x42000 ⟨.dram 0x40000, true, 0, 0⟩ ?_
    (alignedOne rfl rfl (by decide)) ?_ ?_ ?_ ?_ ?_ ?_ ?_ ?_).1 ?_) <;> decide +kernel
theorem witness_cmpb_differ (H : Obligations.CommandsAreAcceptedAndComplete) :
    Completes (.copyCommandComplete 40) (C [{ cmpb0 with got := [(0, 1), (1, 2), (rangeB, 1), (rangeB + 1, 3)] }] fib) := by
  refine some_completes (((H (C [{ cmpb0 with got := [(0, 1), (1, 2), (rangeB, 1), (rangeB + 1, 3)] }] fib)
    { cmpb0 with got := [(0, 1), (1, 2), (rangeB, 1), (rangeB + 1, 3)] } (by decide +kernel)).2.2.2.2.1 0x42000
    ⟨.dram 0x40000, true, 0, 0⟩ ?_ (alignedOne rfl rfl (by decide)) ?_ ?_ ?_ ?_ ?_ ?_ ?_ ?_).2 1 ?_ ?_ ?_) <;> decide +kernel
/-- A map command accepted, and the machine with it. -/
def mapDone (form : Nat) : Cmd := { map0 form with state := .accepted, asked := true, todo := [⟨0, 0, 4096⟩] }
def mapDoneS (form : Nat) : State := { mappedS (form != 6) with cmds := [mapDone form] }
theorem witness_spmap_complete (H : Obligations.CommandsAreAcceptedAndComplete) :
    Completes (.copyCommandComplete 40) (mapDoneS 5) := by
  refine next_completes ((H (mapDoneS 5) (mapDone 5) (by decide +kernel)).2.2.2.2.2.1 ?_ ?_ ?_) <;> decide +kernel
theorem witness_spfill_complete (H : Obligations.CommandsAreAcceptedAndComplete) :
    Completes (.copyCommandComplete 40) (mapDoneS 6) := by
  have e : (mapDoneS 6).toFill (mapDone 6) = [⟨0, 0x20000, false, none, [], some ⟨.dram 0x40000, true, 0, 0⟩, false⟩] := by
    decide +kernel
  refine some_completes ((H (mapDoneS 6) (mapDone 6) (by decide +kernel)).2.2.2.2.2.2.1 (fun _ => ⟨.dram 0x40000, true, 0, 0⟩)
    (by decide +kernel) (by decide +kernel) (by decide +kernel) (by decide +kernel) (by decide +kernel) fun ch h => ?_)
  rw [e] at h
  obtain rfl := List.mem_singleton.1 h
  exact ⟨by decide +kernel, by decide +kernel, ⟨_, rfl, by decide⟩, by decide +kernel⟩
/-- A CPYFP in its probe phase, with its table's descriptor at 0x21000, the slots at 0x24000 and a pool of `pages` at 0x28000. -/
def fp0 : Cmd :=
  { done0 with form := 3, regs := [0x23000, 0x21000, 0x22000, 0], src := .global 0x23000, dst := .none,
               leaves := [(2, ⟨.dram 0x40000, true, 0, 0⟩)], probing := true }
def table0 (pages : Nat) : List Byte := withBytes [(1, 0x40), (2, 2), (8, 4), (9, 1), (17, 0x80), (18, 2), (24, pages)] 64
def fpS (pages : Nat) (slots : List Byte) : State :=
  let s := C [fp0] fib
  { s with m := { s.m with mem := memWrite (memWrite s.m.mem 0x41000 (table0 pages)) 0x44000 slots } }
def dd0 (pages : Nat) : Dedupe := ⟨0x24000, 4, 1, 0x28000, pages, 0, 0⟩
/-- The slot at place `r` of the table. -/
def slotAt (s : State) (pages r : Nat) : FpSlot := ((s.fpSlot fp0 (dd0 pages) r 0).toOption).getD ⟨0, 0, 0, 0, 0⟩
theorem slot_is {s : State} {pages : Nat} (h : ∀ r < 16, (s.fpSlot fp0 (dd0 pages) r 0).toOption.isSome = true) (fp i : Nat) :
    s.fpSlot fp0 (dd0 pages) fp i = .ok (slotAt s pages ((fp + i) % 16)) := by
  have e : s.fpSlot fp0 (dd0 pages) fp i = s.fpSlot fp0 (dd0 pages) ((fp + i) % 16) 0 := by
    simp only [State.fpSlot, dd0, Nat.add_zero, show (2 : Nat) ^ 4 = 16 from rfl, Nat.mod_mod]
  obtain ⟨x, hx⟩ := Option.isSome_iff_exists.1 (h _ (Nat.mod_lt (fp + i) (by decide)))
  rw [e, okE hx, slotAt, hx]; rfl
theorem writable_at {s : State} {pages : Nat} (h : ∀ r < 16, (s.fpWritable fp0 false (slotAt s pages r).at_).toOption = some ())
    (n : Nat) : s.fpWritable fp0 false (slotAt s pages (n % 16)).at_ = .ok () := okE (h _ (Nat.mod_lt n (by decide)))
theorem empty_at {s : State} {pages : Nat} (h : ∀ r < 16, (slotAt s pages r).state = 0) (n : Nat) :
    (slotAt s pages (n % 16)).state = 0 := h _ (Nat.mod_lt n (by decide))
theorem witness_fp_full (H : Obligations.CommandsAreAcceptedAndComplete) :
    (fpS 0 []).fpPlan fp0 = .ok ⟨[], 0xFFFFFFFF, 0, 4⟩ := by
  obtain ⟨data, hd⟩ : ∃ x, x = fp0.dataOf ⟨0, 0, 4096⟩ := ⟨_, rfl⟩
  exact (((H (fpS 0 []) fp0 (by decide +kernel)).2.2.2.2.2.2.2.2.1 (table0 0) data (dd0 0)
    (fun i => slotAt (fpS 0 []) 0 (((crc64 data).toNat + i) % 16)) (okE (by decide +kernel)) (by decide +kernel)
    (by decide +kernel) (by decide +kernel) hd (okE (by decide +kernel))
    fun i _ => ⟨slot_is (by decide +kernel) _ i, writable_at (by decide +kernel) _⟩).1 0 (by decide)
    fun i h => absurd h (Nat.not_lt_zero i)).2.2 (empty_at (by decide +kernel) _)
    (by decide)
theorem witness_fp_install (H : Obligations.CommandsAreAcceptedAndComplete) :
    ∃ ws, (fpS 2 []).fpPlan fp0 = .ok ⟨ws, 0, 1, 1⟩ := by
  obtain ⟨data, hd⟩ : ∃ x, x = fp0.dataOf ⟨0, 0, 4096⟩ := ⟨_, rfl⟩
  exact ⟨_, (((H (fpS 2 []) fp0 (by decide +kernel)).2.2.2.2.2.2.2.2.1 (table0 2) data (dd0 2)
    (fun i => slotAt (fpS 2 []) 2 (((crc64 data).toNat + i) % 16)) (okE (by decide +kernel)) (by decide +kernel)
    (by decide +kernel) (by decide +kernel) hd (okE (by decide +kernel))
    fun i _ => ⟨slot_is (by decide +kernel) _ i, writable_at (by decide +kernel) _⟩).1 0 (by decide)
    fun i h => absurd h (Nat.not_lt_zero i)).2.1 (empty_at (by decide +kernel) _)
    (by decide)⟩
/-- A CPYFP whose page is eight bytes 0xFF and zeros, which make its CRC-64 all ones; the machine with it, a slot filled where its probe
begins, and that page in the pool. -/
def fp1 : Cmd := { fp0 with got := (upFrom 0 8).map fun i => (i, 0xFF) }
def fpS1 (slot : List Byte) : State :=
  let s := fpS 2 []
  { s with cmds := [fp1], m := { s.m with mem := memWrite (memWrite s.m.mem 0x440F0 slot) 0x48000 (List.replicate 8 0xFF) } }
def page1 : List Byte := List.replicate 8 0xFF ++ List.replicate 4088 0
theorem map_upFrom_const {α : Type} (g : Nat → α) (b : α) : ∀ n a, (∀ i, a ≤ i → g i = b) → (upFrom a n).map g = List.replicate n b
  | 0, _, _ => rfl
  | n + 1, a, h => by
    rw [upFrom, List.map_cons, h a (Nat.le_refl a), map_upFrom_const g b n (a + 1) fun i hi => h i (by omega), List.replicate_succ]
theorem page1_is : fp1.dataOf ⟨0, 0, 4096⟩ = page1 := by
  have h : ∀ i, 8 ≤ i → (byteIn fp1.got i).getD 0 = (0 : Byte) := fun i hi => by
    rw [byteIn, List.find?_eq_none.2 fun p hp => ?_]
    · rfl
    · have : ∀ p ∈ fp1.got, p.1 < 8 := by decide
      have := this p hp
      simp only [beq_iff_eq]; omega
  exact congrArg (List.replicate 8 (0xFF : Byte) ++ ·) (map_upFrom_const (fun i => (byteIn fp1.got i).getD (0 : Byte)) 0 4088 8 h)
theorem crc_page1 : crc64 page1 = BitVec.allOnes 64 := by
  have h : ∀ n, (List.replicate n (0 : Byte)).foldl crcByte 0 = 0 := fun n => by
    induction n with
    | zero => rfl
    | succ n ih => rw [List.replicate_succ, List.foldl_cons, show crcByte 0 0 = 0 from by decide, ih]
  rw [crc64, page1, List.foldl_append, show (List.replicate 8 (0xFF : Byte)).foldl crcByte (BitVec.allOnes 64) = 0 from by decide +kernel,
    h]
  decide
theorem fpParts_cons (s : State) (c : Cmd) (x : Nat × Nat) (r : List (Nat × Nat)) (b d : List Byte) (hx : s.fpParts c [x] = .ok b)
    (hr : s.fpParts c r = .ok d) : s.fpParts c (x :: r) = .ok (b ++ d) := by
  simp only [State.fpParts] at hx ⊢
  cases h : s.fpAt c x.1 false with
  | error e => rw [h] at hx; cases hx
  | ok y =>
    rw [h] at hx
    simp only at hx ⊢
    cases h' : s.fpLine c y.1 y.2 x.2 with
    | error e => rw [h'] at hx; cases hx
    | ok z =>
      rw [h'] at hx
      simp only [Except.map, List.append_nil] at hx
      cases hx
      simp only [hr, Except.map]
theorem fpParts_zeros (s : State) (c : Cmd) : ∀ l : List (Nat × Nat), (∀ x ∈ l, s.fpParts c [x] = .ok (List.replicate 128 0)) →
    s.fpParts c l = .ok (List.replicate (128 * l.length) 0)
  | [], _ => rfl
  | x :: r, h => by
    rw [fpParts_cons s c x r _ _ (h x (List.mem_cons_self ..)) (fpParts_zeros s c r fun y hy => h y (List.mem_cons_of_mem x hy)),
      List.replicate_append_replicate, List.length_cons, Nat.mul_succ, Nat.add_comm]
def shared0 : List Byte := List.replicate 8 0xFF ++ [0, 0, 0, 0, 5, 0, 1, 0]
theorem page1_read : (fpS1 shared0).fpRead fp1 0x28000 4096 = .ok page1 := by
  have e : cutLines 0x28000 4096 = (0x28000, 128) :: (upFrom 1 31).map fun i => (0x28000 + 128 * i, 128) := by decide
  rw [State.fpRead, e, fpParts_cons _ _ _ _ (List.replicate 8 0xFF ++ List.replicate 120 0) _ (okE (by decide +kernel))
    (fpParts_zeros _ _ _ fun x hx => okE ((by decide +kernel : ∀ x ∈ (upFrom 1 31).map fun i => (0x28000 + 128 * i, 128),
      ((fpS1 shared0).fpParts fp1 [x]).toOption = some (List.replicate 128 0)) x hx)), List.append_assoc,
    List.replicate_append_replicate]
  rfl
/-- What the slots of a probe of `fp1` are. -/
theorem slot1 {slot : List Byte} {x : FpSlot} (h : ((fpS1 slot).fpSlot fp1 (dd0 2) (2 ^ 64 - 1) 0).toOption = some x)
    (hw : ((fpS1 slot).fpWritable fp1 false x.at_).toOption = some ()) : ∀ i < (dd0 2).probe,
    (fpS1 slot).fpSlot fp1 (dd0 2) (crc64 page1).toNat i = .ok x ∧ (fpS1 slot).fpWritable fp1 false x.at_ = .ok () := fun i hi => by
  obtain rfl : i = 0 := by have : i < 1 := hi; omega
  rw [crc_page1]
  exact ⟨okE h, okE hw⟩
theorem witness_fp_share (H : Obligations.CommandsAreAcceptedAndComplete) :
    ∃ w, (fpS1 shared0).fpPlan fp1 = .ok ⟨w, 0, 6, 0⟩ := by
  exact ⟨_, (((H (fpS1 shared0) fp1 (by decide +kernel)).2.2.2.2.2.2.2.2.1 (table0 2) page1 (dd0 2) (fun _ => ⟨0x240F0, 2 ^ 64 - 1, 0, 5, 1⟩)
    (okE (by decide +kernel)) (by decide +kernel) (by decide +kernel) (by decide +kernel) page1_is.symm (okE (by decide +kernel))
    (slot1 (by decide +kernel) (by decide +kernel))).1 0 (by decide) fun i h => absurd h (Nat.not_lt_zero i)).1 rfl
    (by rw [crc_page1]; decide) page1_read⟩
theorem witness_fp_noPlace (H : Obligations.CommandsAreAcceptedAndComplete) :
    (fpS1 (List.replicate 14 0 ++ [1])).fpPlan fp1 = .ok ⟨[], 0xFFFFFFFF, 0, 3⟩ :=
  ((H (fpS1 (List.replicate 14 0 ++ [1])) fp1 (by decide +kernel)).2.2.2.2.2.2.2.2.1 (table0 2) page1 (dd0 2)
    (fun _ => ⟨0x240F0, 0, 0, 0, 1⟩)
    (okE (by decide +kernel)) (by decide +kernel) (by decide +kernel) (by decide +kernel) page1_is.symm (okE (by decide +kernel))
    (slot1 (by decide +kernel) (by decide +kernel))).2 fun i _ => ⟨rfl, by rw [crc_page1]; decide⟩
/-- The place of an address that a CPYFP without a translation of its own reaches. -/
def fpPlace (s : State) (va : Nat) : Option (Place × Leaf) :=
  match s.fpAt fp0 (va / 65536 * 65536) true with
  | .ok (_, l) => some (placeIn l va, l)
  | .error _ => none
theorem witness_cpyfp_complete (H : Obligations.CommandsAreAcceptedAndComplete) :
    Completes (.copyCommandComplete 40) (fpS 0 []) := by
  refine some_completes ((H (fpS 0 []) fp0 (by decide +kernel)).2.2.2.2.2.2.2.1 ⟨[], 0xFFFFFFFF, 0, 4⟩ (by decide +kernel)
    (by decide +kernel) (by decide +kernel) (by decide +kernel) (by decide +kernel) (witness_fp_full H)
    (fun w hw i hi => ?_) (fun w hw i hi x hx j hj e => ?_) (by decide +kernel))
  · obtain rfl := List.mem_singleton.1 hw
    exact ⟨0x42000 + i, 0x40000, ⟨.dram 0x40000, true, 0, 0⟩, (by decide +kernel : ∀ i < 8,
      fpPlace (fpS 0 []) (0x22000 + i) = some (.dram (0x42000 + i), ⟨.dram 0x40000, true, 0, 0⟩)) i hi, rfl, by decide⟩
  · obtain rfl := List.mem_singleton.1 hw
    obtain rfl := List.mem_singleton.1 hx
    exact ⟨rfl, (by decide +kernel : ∀ i < 8, ∀ j < 8, (fpPlace (fpS 0 []) (0x22000 + i)).map (·.1) =
      (fpPlace (fpS 0 []) (0x22000 + j)).map (·.1) → i = j) i hi j hj e⟩
theorem witness_launchComplete (H : Obligations.CommandsAreAcceptedAndComplete) :
    Completes (.lnchCommandComplete 40) (C [{ launch0 with state := .accepted }] fib) := by
  refine next_completes ((H (C [{ launch0 with state := .accepted }] fib) { launch0 with state := .accepted }
    (by decide +kernel)).2.2.2.2.2.2.2.2.2.1 ?_ ?_ ?_ ?_ ?_ ?_ ?_ ?_ ?_) <;> decide +kernel
theorem witness_evsigComplete (H : Obligations.CommandsAreAcceptedAndComplete) :
    Completes (.lnchCommandComplete 40) (C [evsig0] fib) := by
  refine next_completes ((H (C [evsig0] fib) evsig0 (by decide +kernel)).2.2.2.2.2.2.2.2.2.2.1 _ _ 0x42040 ?_ ?_ ?_ ?_ ?_ ?_ ?_ (got
    (by decide +kernel)) (by decide +kernel)) <;> decide +kernel
theorem witness_evwaitSatisfied (H : Obligations.CommandsAreAcceptedAndComplete) :
    Completes (.evwaitSatisfied ⟨0, 0, 0⟩) (C [evsig0] (evf 0)) :=
  next_completes (((H (C [evsig0] (evf 0)) evsig0 (by decide +kernel)).2.2.2.2.2.2.2.2.2.2.2 (evf 0) 0x22040 0 true false
    ⟨.dram 0x40000, true, 0, 0⟩ 0x20010 (List.replicate 8 0) (by decide +kernel) (by decide +kernel) (by decide +kernel)
    (okE (by decide +kernel)) (by decide +kernel) (by decide +kernel)).1 (by decide +kernel))
theorem witness_evwaitWaits (H : Obligations.CommandsAreAcceptedAndComplete) :
    Completes (.evwaitSatisfied ⟨0, 0, 0⟩) (C [evsig0] (evf 4)) :=
  next_completes (((H (C [evsig0] (evf 4)) evsig0 (by decide +kernel)).2.2.2.2.2.2.2.2.2.2.2 (evf 4) 0x22040 4 true false
    ⟨.dram 0x40000, true, 0, 0⟩ 0x20010 (List.replicate 8 0) (by decide +kernel) (by decide +kernel) (by decide +kernel)
    (okE (by decide +kernel)) (by decide +kernel) (by decide +kernel)).2 (by decide +kernel))

/-! FaultServiceAndInvalidations -/

theorem witness_fault_denied (H : Obligations.FaultServiceAndInvalidations) :
    Completes (.faultRequest 9) (F0 0 [fr false] [] parkf) :=
  next_completes (((H (F0 0 [fr false] [] parkf) 0 (by decide +kernel)).1 (fr false) (by decide +kernel) (by decide +kernel)
    (by decide +kernel)).1 (by decide +kernel))
theorem witness_fault_posted (H : Obligations.FaultServiceAndInvalidations) :
    Completes (.faultRequest 9) (F0 0x10004 [fr false] [] parkf) :=
  some_completes (((H (F0 0x10004 [fr false] [] parkf) 0 (by decide +kernel)).1 (fr false) (by decide +kernel)
    (by decide +kernel) (by decide +kernel)).2.2 _ (by decide +kernel) (by decide +kernel) (okP (by decide +kernel)))
theorem witness_fault_full (H : Obligations.FaultServiceAndInvalidations) :
    Completes (.faultRequest 9) (full0 parkf) :=
  next_completes (((H (full0 parkf) 0 (by decide +kernel)).1 (fr false) (by decide +kernel) (by decide +kernel)
    (by decide +kernel)).2.1 (by decide +kernel) (by decide +kernel))
theorem witness_fresp_retry (H : Obligations.FaultServiceAndInvalidations) :
    Completes (.frespRetry 0 9) (F0 0x10004 [fr true] [] parkf) :=
  next_completes (((H (F0 0x10004 [fr true] [] parkf) 0 (by decide +kernel)).2.1 9 _ (got1 (by decide +kernel))).1
    (by decide +kernel))
theorem witness_fresp_deny (H : Obligations.FaultServiceAndInvalidations) :
    Completes (.frespDeny 0 0x100000009) (F0 0x10004 [fr true] [] parkf) :=
  next_completes (((H (F0 0x10004 [fr true] [] parkf) 0 (by decide +kernel)).2.1 0x100000009 _ (got1 (by decide +kernel))).2
    (by decide +kernel))
theorem witness_close_fault (H : Obligations.FaultServiceAndInvalidations) :
    (((F0 0x10004 [fr true] [] parkf).closeFault 0 (fr true) true).fn 0).denials = [5] :=
  (fun h => h.1) ((H (F0 0x10004 [fr true] [] parkf) 0 (by decide +kernel)).2.2.1 (fr true) true)
theorem witness_fqcfg (H : Obligations.FaultServiceAndInvalidations) :
    Completes (.fqcfgWrite 0 0x10004) (F0 0 [] [] fib) :=
  next_completes ((H (F0 0 [] [] fib) 0 (by decide +kernel)).2.2.2.1 0x10004 (by decide +kernel))
theorem witness_fqcfg_bad (H : Obligations.FaultServiceAndInvalidations) :
    Completes (.fqcfgWrite 0 0x10003) (F0 0 [] [] fib) :=
  next_completes ((H (F0 0 [] [] fib) 0 (by decide +kernel)).2.2.2.2.1 0x10003 (by decide +kernel) (by decide +kernel))
theorem witness_fqhead (H : Obligations.FaultServiceAndInvalidations) :
    Completes (.fqheadWrite 0 3) (F0 0 [fr true] [] fib) :=
  next_completes ((H (F0 0 [fr true] [] fib) 0 (by decide +kernel)).2.2.2.2.2.1 3 (by decide +kernel))
theorem witness_tinvcmd (H : Obligations.FaultServiceAndInvalidations) :
    Completes (.tinvcmd 0 2) (F0 0 [] [] fib) :=
  some_completes ((H (F0 0 [] [] fib) 0 (by decide +kernel)).2.2.2.2.2.2.1 2 (by decide +kernel))
theorem witness_tinvcmd_queued (H : Obligations.FaultServiceAndInvalidations) :
    Completes (.tinvcmd 0 2) (F0 0 [] [inv0] fib) :=
  some_completes ((H (F0 0 [] [inv0] fib) 0 (by decide +kernel)).2.2.2.2.2.2.1 2 (by decide +kernel))
theorem witness_tinv_done (H : Obligations.FaultServiceAndInvalidations) :
    Completes (.invalidationComplete 0) (F0 0 [] [inv0] fib) :=
  next_completes ((H (F0 0 [] [inv0] fib) 0 (by decide +kernel)).2.2.2.2.2.2.2.1 inv0 (by decide +kernel)
    (by decide +kernel) (by decide +kernel))
theorem witness_lease_expiry (H : Obligations.FaultServiceAndInvalidations) :
    Completes (.peerLeaseExpiry 3 5) (leased (S fib)) :=
  some_completes ((H (leased (S fib)) 0 (by decide +kernel)).2.2.2.2.2.2.2.2.1 3 5)
/-- The package joined, with peer 3 of incarnation 0; and a packet of it. -/
def joinedTo (s : State) : State := { s with fab := { s.fab with joined := true, peers := [⟨3, 0, none⟩] } }
def head3 : PktHead := ⟨3, 0, 0, 7⟩
theorem witness_recall (H : Obligations.FaultServiceAndInvalidations) :
    Completes (.peerTranslationRecall head3 5) (joinedTo (leased bare)) :=
  some_completes (((H (joinedTo (leased bare)) 0 (by decide +kernel)).2.2.2.2.2.2.2.2.2 head3 5).2 (by decide +kernel))
theorem witness_recall_refused (H : Obligations.FaultServiceAndInvalidations) :
    Completes (.peerTranslationRecall { head3 with domain := 1 } 5) (joinedTo (leased bare)) :=
  next_completes (((H (joinedTo (leased bare)) 0 (by decide +kernel)).2.2.2.2.2.2.2.2.2 { head3 with domain := 1 } 5).1
    (by decide +kernel))

/-! TheSequencerGoesOn -/

theorem witness_runSelection (H : Obligations.TheSequencerGoesOn) :
    Completes (.runSelection 0 0 0 0) (idle fib) := by
  refine (fun h => h.elim fun _ h => h.elim fun _ h => next_completes h.1) ((H (idle fib) (fib)
    (by decide +kernel)).1 0 0 0 0 fib [] ?_ ?_ ?_ ?_ ?_ ?_) <;> decide +kernel
theorem witness_sleepWake (H : Obligations.TheSequencerGoesOn) :
    Completes (.sleepWake ⟨0, 0, 0⟩) (idle (at_ (.sleeping 7))) := by
  refine next_completes ((H (idle (at_ (.sleeping 7))) (at_ (.sleeping 7)) (by decide +kernel)).2.1 7 ?_ ?_ ?_ ?_ ?_
    ?_) <;> decide +kernel
theorem witness_longLatencyResult (H : Obligations.TheSequencerGoesOn) :
    Completes (.longLatencyResult 30) (resS { fib with notReady := [(8, 30)] }) := by
  refine some_completes ((H (resS { fib with notReady := [(8, 30)] }) ({ fib with notReady := [(8, 30)] })
    (by decide +kernel)).2.2.1 res0 8 99 ?_ ?_ ?_ ?_ ?_ ?_ ?_) <;> decide +kernel
theorem witness_waitgEnd (H : Obligations.TheSequencerGoesOn) :
    Completes (.fenceWaitEnd ⟨0, 0, 0⟩) (idle (at_ (.blocked (.fence 0 (some 8))))) :=
  next_completes ((H (idle (at_ (.blocked (.fence 0 (some 8))))) (at_ (.blocked (.fence 0 (some 8))))
    (by decide +kernel)).2.2.2.1 0 8
    (by decide +kernel) (by decide +kernel) (by decide +kernel))
theorem witness_fenceEnd (H : Obligations.TheSequencerGoesOn) :
    Completes (.fenceWaitEnd ⟨0, 0, 0⟩) (idle (at_ (.blocked (.fence 3 none)))) :=
  next_completes (((H (idle (at_ (.blocked (.fence 3 none)))) (at_ (.blocked (.fence 3 none)))
    (by decide +kernel)).2.2.2.2.1 3 (by decide +kernel)).1
    (by decide +kernel))
theorem witness_evwaitFence (H : Obligations.TheSequencerGoesOn) :
    Completes (.fenceWaitEnd ⟨0, 0, 0⟩) (idle (at_ (.blocked (.evwait 5 6 true (some 3) false)))) :=
  next_completes (((H (idle (at_ (.blocked (.evwait 5 6 true (some 3) false)))) (at_ (.blocked (.evwait 5 6 true (some
    3) false))) (by decide +kernel)).2.2.2.2.1 3 (by decide +kernel)).2.1 5 6 true false (by decide +kernel))
theorem witness_ending (H : Obligations.TheSequencerGoesOn) :
    Completes (.fenceWaitEnd ⟨0, 0, 0⟩) (idle (at_ (.blocked (.ending 3 (some endAtom))))) :=
  next_completes (((H (idle (at_ (.blocked (.ending 3 (some endAtom))))) (at_ (.blocked (.ending 3 (some endAtom))))
    (by decide +kernel)).2.2.2.2.1 3 (by decide +kernel)).2.2.1 (some endAtom) (by decide +kernel) (by decide +kernel)
      (by decide +kernel) (by decide +kernel))
theorem witness_endingTask (H : Obligations.TheSequencerGoesOn) :
    Completes (.fenceWaitEnd ⟨0, 0, 0⟩) (idle { taskf with status := .blocked (.ending 3 none) }) :=
  next_completes (((H (idle { taskf with status := .blocked (.ending 3 none) })
    ({ taskf with status := .blocked (.ending 3 none) })
    (by decide +kernel)).2.2.2.2.1 3 (by decide +kernel)).2.2.2.1 none (by decide +kernel) (by decide +kernel)
      (by decide +kernel))
theorem witness_releaseHold (H : Obligations.TheSequencerGoesOn) :
    Completes (.releaseHoldIssue ⟨0, 0, 0⟩) (idle { fib with relHold := some (3, .store someSt) }) :=
  next_completes (((H (idle { fib with relHold := some (3, .store someSt) }) ({ fib with relHold := some (3, .store
    someSt) }) (by decide +kernel)).2.2.2.2.1 3 (by decide +kernel)).2.2.2.2.1 someSt (by decide +kernel) (by decide +kernel)
      (by decide +kernel) (by decide +kernel))
theorem witness_releaseHoldAtomic (H : Obligations.TheSequencerGoesOn) :
    Completes (.releaseHoldIssue ⟨0, 0, 0⟩) (idle { fib with relHold := some (3, .atomic endAtom) }) :=
  next_completes (((H (idle { fib with relHold := some (3, .atomic endAtom) }) ({ fib with relHold := some (3,
    .atomic endAtom) }) (by decide +kernel)).2.2.2.2.1 3 (by decide +kernel)).2.2.2.2.2 endAtom (by decide +kernel) (by decide +kernel)
      (by decide +kernel) (by decide +kernel))
theorem witness_fenceWaits (H : Obligations.TheSequencerGoesOn) :
    Completes (.fenceWaitEnd ⟨0, 0, 0⟩) (outS (at_ (.blocked (.fence 3 none)))) :=
  next_completes ((H (outS (at_ (.blocked (.fence 3 none)))) (at_ (.blocked (.fence 3 none)))
    (by decide +kernel)).2.2.2.2.2 3 (by decide +kernel)
    (Or.inl (by decide +kernel)))

/-! LaunchesAreSavedRestoredAndCompleted -/

theorem witness_preemption (H : Obligations.LaunchesAreSavedRestoredAndCompleted) :
    Completes (.preemption 0) (G (big .running) fib) :=
  next_completes ((H (G (big .running) fib) (big .running) (by decide +kernel)).1 (by decide +kernel) (by decide +kernel))
theorem witness_saved (H : Obligations.LaunchesAreSavedRestoredAndCompleted) :
    Completes (.preemption 0) (quietS) :=
  some_completes ((H (quietS) (phased .saving []) (by decide +kernel)).2.1 (by decide +kernel) (by decide +kernel)
    (by decide +kernel))
theorem witness_restore (H : Obligations.LaunchesAreSavedRestoredAndCompleted) :
    Completes (.launchRestore 0) (G1 (big .saved) fib) :=
  some_completes ((H (G1 (big .saved) fib) (big .saved) (by decide +kernel)).2.2.1 (by decide +kernel))
theorem witness_step_release (H : Obligations.LaunchesAreSavedRestoredAndCompleted) :
    Completes (.dieSetChange 0 []) (G2 (phased .running [(46, 2), (57, 0x20), (58, 2)]) arrf) :=
  next_completes (((H (G2 (phased .running [(46, 2), (57, 0x20), (58, 2)]) arrf) (phased .running [(46, 2), (57, 0x20),
    (58, 2)]) (by decide +kernel)).2.2.2.1 (by decide +kernel) (by decide +kernel)).1 (by decide +kernel)).1
theorem witness_die_set (H : Obligations.LaunchesAreSavedRestoredAndCompleted) :
    Completes (.dieSetChange 0 [⟨0, 70, [0]⟩]) (G2 (phased .running [(46, 2), (57, 0x20), (58, 2)]) arrf) :=
  some_completes (((H (G2 (phased .running [(46, 2), (57, 0x20), (58, 2)]) arrf) (phased .running [(46, 2), (57, 0x20),
    (58, 2)]) (by decide +kernel)).2.2.2.1 (by decide +kernel) (by decide +kernel)).2.2.1 [⟨0, 70, [0]⟩] (by decide +kernel)
    (by decide +kernel) (by decide +kernel) (by decide +kernel))
/-- The machine with an atomic of TEAM scope of the fibre on its way. -/
def narrowS (s : State) : State :=
  { s with m := { s.m with atoms := [{ endAtom with scope := 0, at_ := .level (.l1 0) (.dram 0x42040) }] } }
theorem witness_die_set_narrow (H : Obligations.LaunchesAreSavedRestoredAndCompleted) :
    Completes (.dieSetChange 0 [⟨0, 70, [0]⟩]) (narrowS (G2 (phased .running [(46, 2), (57, 0x20), (58, 2)]) arrf)) :=
  next_completes (((H (narrowS (G2 (phased .running [(46, 2), (57, 0x20), (58, 2)]) arrf)) (phased .running [(46, 2), (57, 0x20),
    (58, 2)]) (by decide +kernel)).2.2.2.1 (by decide +kernel) (by decide +kernel)).2.1 [⟨0, 70, [0]⟩] (by decide +kernel)
    (by decide +kernel) (by decide +kernel))
theorem witness_die_set_moves (H : Obligations.LaunchesAreSavedRestoredAndCompleted) :
    Completes (.dieSetChange 0 []) (G2 movingL arrf) :=
  next_completes (((H (G2 movingL arrf) movingL (by decide +kernel)).2.2.2.1 (by decide +kernel)
    (by decide +kernel)).2.2.2.1 [] (by decide +kernel) (by decide +kernel) (by decide +kernel) (by decide +kernel)
    (by decide +kernel)).1
theorem witness_die_set_waits (H : Obligations.LaunchesAreSavedRestoredAndCompleted) :
    Completes (.dieSetChange 0 []) (G2 movingL { arrf with gwmax := 9999 }) :=
  next_completes (((H (G2 movingL { arrf with gwmax := 9999 }) movingL (by decide +kernel)).2.2.2.1 (by decide +kernel)
    (by decide +kernel)).2.2.2.2 [] (by decide +kernel) (by decide +kernel))
theorem witness_grid_over (H : Obligations.LaunchesAreSavedRestoredAndCompleted) :
    Completes (.launchCompletion 0) (G1 (phased .running []) endedf) :=
  (fun h => h.elim fun t h => h.elim fun _ h => ⟨t, h.1⟩) ((H (G1 (phased .running []) endedf) (phased .running [])
    (by decide +kernel)).2.2.2.2.1 (by decide +kernel) (by decide +kernel) (by decide +kernel) (by decide +kernel))
theorem witness_grid_complete (H : Obligations.LaunchesAreSavedRestoredAndCompleted) :
    Completes (.launchCompletion 0) (G1 (phased .complete []) endedf) :=
  (fun h => h.elim fun t h => h.elim fun _ h => ⟨t, h.1⟩) ((H (G1 (phased .complete []) endedf) (phased .complete [])
    (by decide +kernel)).2.2.2.2.1 (by decide +kernel) (by decide +kernel) (by decide +kernel) (by decide +kernel))
theorem witness_no_record (H : Obligations.LaunchesAreSavedRestoredAndCompleted) :
    Completes (.launchCompletion 0) (G1 (phased (.closing false 0) []) endedf) :=
  next_completes ((H (G1 (phased (.closing false 0) []) endedf) (phased (.closing false 0) [])
    (by decide +kernel)).2.2.2.2.2.1 0 (by decide +kernel) (by decide +kernel) (by decide +kernel))
theorem witness_bad_record (H : Obligations.LaunchesAreSavedRestoredAndCompleted) :
    Completes (.launchCompletion 0) (G1 (phased (.closing false 0) [(96, 8)]) endedf) :=
  next_completes ((H (G1 (phased (.closing false 0) [(96, 8)]) endedf) (phased (.closing false 0) [(96, 8)])
    (by decide +kernel)).2.2.2.2.2.2.1 0 (by decide +kernel) (by decide +kernel) (by decide +kernel))
theorem witness_record_nowhere (H : Obligations.LaunchesAreSavedRestoredAndCompleted) :
    Completes (.launchCompletion 0) (G1 (phased (.closing false 0) [(103, 128)]) endedf) :=
  next_completes ((H (G1 (phased (.closing false 0) [(103, 128)]) endedf) (phased (.closing false 0) [(103, 128)])
    (by decide +kernel)).2.2.2.2.2.2.2.1 0 _ _ _ (by decide +kernel) (by decide +kernel) (by decide +kernel)
    (by decide +kernel) (gotV (by decide +kernel)))
theorem witness_record (H : Obligations.LaunchesAreSavedRestoredAndCompleted) :
    Completes (.launchCompletion 0) (G1 (phased (.closing false 0) [(97, 0x20), (98, 2)]) endedf) :=
  (fun h => h.elim fun _ h => h.elim fun _ h => next_completes h.1) ((H (G1 (phased (.closing false 0) [(97, 0x20),
    (98, 2)]) endedf) (phased (.closing false 0) [(97, 0x20), (98, 2)]) (by decide +kernel)).2.2.2.2.2.2.2.2.1
    0 _ (by decide +kernel) (by decide +kernel) (by decide +kernel) (by decide +kernel) (okP (by decide +kernel)))
theorem witness_no_done (H : Obligations.LaunchesAreSavedRestoredAndCompleted) :
    Completes (.launchCompletion 0) (G1 (phased (.closing true 0) []) endedf) :=
  next_completes (((H (G1 (phased (.closing true 0) []) endedf) (phased (.closing true 0) [])
    (by decide +kernel)).2.2.2.2.2.2.2.2.2.1 0 (by decide +kernel) (by decide +kernel)).1 (by decide +kernel))
theorem witness_done_counter (H : Obligations.LaunchesAreSavedRestoredAndCompleted) :
    Completes (.launchCompletion 0) (G1 (phased (.closing true 0) [(81, 0x20), (82, 2), (88, 5)]) endedf) :=
  next_completes (((H (G1 (phased (.closing true 0) [(81, 0x20), (82, 2), (88, 5)]) endedf) (phased
    (.closing true 0) [(81, 0x20), (82, 2), (88, 5)]) (by decide +kernel)).2.2.2.2.2.2.2.2.2.1
    0 (by decide +kernel) (by decide +kernel)).2 _ ⟨.dram 0x40000, true, 0, 0⟩ 0x20010 0x42000 (by decide +kernel) (okP
      (by decide +kernel)) (okE (by decide +kernel)) (by decide +kernel) (by decide +kernel))
theorem witness_core_error (H : Obligations.LaunchesAreSavedRestoredAndCompleted) :
    Completes (.coreUncorrectableError 0 3 4) (L wl0 fib) :=
  some_completes ((H (L wl0 fib) (launchWith [(39, 2), (126, 0)]) (by decide +kernel)).2.2.2.2.2.2.2.2.2.2.1 0 3 4
    (by decide +kernel) (by decide +kernel) (by decide +kernel))
theorem witness_promise (H : Obligations.LaunchesAreSavedRestoredAndCompleted) :
    Completes (.promiseMissed 40 (.uncorrectable 5)) cmdS :=
  next_completes ((H (cmdS) (launchWith []) (by decide +kernel)).2.2.2.2.2.2.2.2.2.2.2.1 done0 5 (by decide +kernel) (by decide +kernel)).1
/-- Positions that an error in transit hits have no bytes any more. -/
theorem witness_promise_row (H : Obligations.LaunchesAreSavedRestoredAndCompleted) : ∀ j ∈ ((gatS gath0 [job0 0] fib).loseRow 40 0).gat.jobs,
    ∀ p ∈ j.parts, ∀ r ∈ p.rows, r.pieces = none := by
  have h := ((H (gatS gath0 [job0 0] fib) (launchWith []) (by decide +kernel)).2.2.2.2.2.2.2.2.2.2.2.1 gath0 0 (by decide +kernel)
    (by decide +kernel)).2.2.1
  exact fun j hj p hp r hr => h j hj ((by decide +kernel : ∀ j ∈ ((gatS gath0 [job0 0] fib).loseRow 40 0).gat.jobs, j.cmd = 40) j hj) p hp
    ((by decide +kernel : ∀ j ∈ ((gatS gath0 [job0 0] fib).loseRow 40 0).gat.jobs, ∀ p ∈ j.parts, p.stage ≠ 3) j hj p hp) r hr
    ((by decide +kernel : ∀ j ∈ ((gatS gath0 [job0 0] fib).loseRow 40 0).gat.jobs, ∀ p ∈ j.parts, ∀ r ∈ p.rows, 0 ∈ r.poss) j hj p hp r hr)
def retrainS : State :=
  let s := ((C [done0] fib).onPort 5 fun x => { x with state := 3 })
  { s with ftime := 60000, fab := { s.fab with remote := [⟨4, 9, false, .load 2 0 128, .cmdRead 40 0, 0⟩] } }
theorem witness_promise_far (H : Obligations.LaunchesAreSavedRestoredAndCompleted) :
    Completes (.promiseMissed 40 .retrain) retrainS :=
  next_completes (((H retrainS (launchWith [])
    (by decide +kernel)).2.2.2.2.2.2.2.2.2.2.2.1 done0 5 (by decide +kernel) (by decide +kernel)).2.2.2.1 ⟨5, by decide +kernel⟩)
theorem witness_promise_no_retrain (H : Obligations.LaunchesAreSavedRestoredAndCompleted) :
    Completes (.promiseMissed 40 .retrain) acceptedFar :=
  next_completes (((H acceptedFar (launchWith [])
    (by decide +kernel)).2.2.2.2.2.2.2.2.2.2.2.1 { done0 with far := true } 5 (by decide +kernel) (by decide +kernel)).2.2.2.2.1 (by decide +kernel))
theorem witness_promise_departed (H : Obligations.LaunchesAreSavedRestoredAndCompleted) :
    Completes (.promiseMissed 40 (.departed 9)) departS :=
  next_completes (((H (departS) (launchWith []) (by decide +kernel)).2.2.2.2.2.2.2.2.2.2.2.1 departC 5 (by decide +kernel) (by decide +kernel)).2.2.2.2.2 9
    (by decide +kernel) (by decide +kernel))
theorem witness_promise_push (H : Obligations.LaunchesAreSavedRestoredAndCompleted) :
    Completes (.promiseMissed 90 (.uncorrectable 5)) (P [push0 true] wl0 fib) :=
  some_completes ((H (P [push0 true] wl0 fib) (launchWith [(39, 2), (126, 0)])
    (by decide +kernel)).2.2.2.2.2.2.2.2.2.2.2.2 90 5 (by decide +kernel))

/-! LaunchesAreQueuedCheckedAndStarted -/

theorem witness_slot (H : Obligations.LaunchesAreQueuedCheckedAndStarted) :
    Completes (.hostQueueSlotRead 5) H0 := by
  refine (fun h => h.elim fun t h => h.elim fun _ h => ⟨t, h.1⟩) ((H H0).1 5 (List.replicate 256 0) ?_ ?_ ?_ ?_ ?_
    ?_) <;> decide +kernel
theorem witness_device (H : Obligations.LaunchesAreQueuedCheckedAndStarted) :
    Completes (.deviceQueueHeadTake 2) H0 :=
  (fun h => h.elim fun t h => h.elim fun _ h => ⟨t, h.1⟩) ((H H0).2.1 2 0 4 placedDesc [] (by decide +kernel)
    (by decide +kernel) (by decide +kernel) (by decide +kernel) (by decide +kernel))
/-- A queued launch behind another of its queue. -/
def behindS : State := G2 { waiter with id := 0, phase := .queued } fib
theorem witness_check_behind (H : Obligations.LaunchesAreQueuedCheckedAndStarted) :
    Completes (.launchCheck 1) { behindS with launches := [{ waiter with id := 0, phase := .queued }, { waiter with phase := .queued }] } :=
  next_completes ((((H { behindS with launches := [{ waiter with id := 0, phase := .queued }, { waiter with phase := .queued }] }).2.2
    { waiter with phase := .queued } (by decide +kernel)).1 (by decide +kernel)).1 (by decide +kernel))
theorem witness_check_fails (H : Obligations.LaunchesAreQueuedCheckedAndStarted) :
    Completes (.launchCheck 0) (G1 (phased .queued [(2, 1)]) fib) :=
  next_completes (((H (G1 (phased .queued [(2, 1)]) fib)).2.2 (phased .queued [(2, 1)]) (by decide +kernel)).1
    (by decide +kernel) |>.2.2.1 1 (by decide +kernel) (gotF (by decide +kernel)))
theorem witness_check_page (H : Obligations.LaunchesAreQueuedCheckedAndStarted) :
    Completes (.launchCheck 0) (G1 (phased .queued []) fib) :=
  some_completes (((H (G1 (phased .queued []) fib)).2.2 (phased .queued []) (by decide +kernel)).1
    (by decide +kernel) |>.2.2.2 _ _ _ (by decide +kernel) (gotPage (by decide +kernel)))
theorem witness_check_ok (H : Obligations.LaunchesAreQueuedCheckedAndStarted) :
    Completes (.launchCheck 0) imageS :=
  next_completes (((H imageS).2.2 coded (by decide +kernel)).1 (by decide +kernel) |>.2.1 _ (by decide +kernel) (gotI (by decide +kernel)))
theorem witness_start (H : Obligations.LaunchesAreQueuedCheckedAndStarted) :
    Completes (.launchStart 0 place0) startS :=
  some_completes (((H (startS)).2.2 (phased .checked [(36, 2)]) (by decide +kernel)).2.1 place0 (by decide +kernel)
    (by decide +kernel) (by decide +kernel) (by decide +kernel))
theorem witness_rope_restart (H : Obligations.LaunchesAreQueuedCheckedAndStarted) :
    Completes (.ropeRestart 0 0 place0) (G1 (lostRope 0) endedf) :=
  some_completes (((H (G1 (lostRope 0) endedf)).2.2 (lostRope 0) (by decide +kernel)).2.2.1 0 place0 (by decide +kernel)
    (by decide +kernel) (by decide +kernel) (by decide +kernel) (by decide +kernel) (by decide +kernel) (by decide +kernel))
theorem witness_rope_timeout (H : Obligations.LaunchesAreQueuedCheckedAndStarted) :
    Completes (.ropeLossTimeout 0 0) (lateR) :=
  some_completes (((H lateR).2.2 (lostRope 0) (by decide +kernel)).2.2.2 0 ⟨⟨0, 0, 0, false, false, false⟩,
    (by decide +kernel)⟩ (by decide +kernel))

/-! HostAccessesAndRegisters -/

theorem witness_doorbell (H : Obligations.HostAccessesAndRegisters) :
    Completes (.qtailDoorbell 0 5 3) (Hq 0x10004) :=
  next_completes ((((H (Hq 0x10004) (3)).1 5 0 (by decide +kernel) |>.1 (by decide +kernel)).1 (by decide +kernel)))
theorem witness_doorbell_bad (H : Obligations.HostAccessesAndRegisters) :
    Completes (.qtailDoorbell 0 5 300) (Hq 0x10004) :=
  next_completes ((((H (Hq 0x10004) (300)).1 5 0 (by decide +kernel) |>.1 (by decide +kernel)).2 (by decide +kernel)))
theorem witness_qcfg_locked (H : Obligations.HostAccessesAndRegisters) :
    Completes (.qcfgWrite 0 5 0x10005) (Hq 0x10004) :=
  next_completes (((H (Hq 0x10004) (0x10005)).1 5 0 (by decide +kernel) |>.2.1 (by decide +kernel) (by decide +kernel)))
theorem witness_qcfg_off (H : Obligations.HostAccessesAndRegisters) :
    Completes (.qcfgWrite 0 5 5) (Hq 0x10004) :=
  next_completes (((H (Hq 0x10004) (5)).1 5 0 (by decide +kernel) |>.2.2.1 (by decide +kernel) (by decide +kernel)))
theorem witness_qcfg_while_off (H : Obligations.HostAccessesAndRegisters) :
    Completes (.qcfgWrite 0 5 0x205) (Hq 0x4) :=
  next_completes (((H (Hq 0x4) (0x205)).1 5 0 (by decide +kernel) |>.2.2.2.1 (by decide +kernel) (by decide +kernel)))
theorem witness_qcfg_small (H : Obligations.HostAccessesAndRegisters) :
    Completes (.qcfgWrite 0 5 0x10003) (Hq 0x4) :=
  next_completes (((H (Hq 0x4) (0x10003)).1 5 0 (by decide +kernel) |>.2.2.2.2.1 (by decide +kernel) (by decide +kernel)
    (by decide +kernel)))
theorem witness_qcfg_on (H : Obligations.HostAccessesAndRegisters) :
    Completes (.qcfgWrite 0 5 0x3010304) (Hq 0x4) :=
  some_completes (((H (Hq 0x4) (0x3010304)).1 5 0 (by decide +kernel) |>.2.2.2.2.2 (by decide +kernel) (by decide +kernel)
    (by decide +kernel)))
theorem witness_fabcfg (H : Obligations.HostAccessesAndRegisters) :
    Completes (.fabcfgWrite 0x20FFFFFFFF) (S fib) :=
  next_completes ((H (S fib) 0x20FFFFFFFF).2.1 (by decide +kernel) (by decide +kernel))
theorem witness_fabcfg_joined (H : Obligations.HostAccessesAndRegisters) :
    Completes (.fabcfgWrite 5) joinedS :=
  next_completes ((H joinedS 5).2.2.1 (by decide +kernel))
theorem witness_mcdata (H : Obligations.HostAccessesAndRegisters) :
    Completes (.mcdataWrite 5) (S fib) :=
  some_completes ((H (S fib) 5).2.2.2.1)
theorem witness_errcfg (H : Obligations.HostAccessesAndRegisters) :
    Completes (.errcfgWrite 0xE6) (S fib) :=
  next_completes ((H (S fib) 0xE6).2.2.2.2.1 (by decide +kernel) (by decide +kernel))
theorem witness_errcfg_bad (H : Obligations.HostAccessesAndRegisters) :
    Completes (.errcfgWrite 5) (S fib) :=
  next_completes ((H (S fib) 5).2.2.2.2.2.1 (by decide +kernel))
theorem witness_errlost (H : Obligations.HostAccessesAndRegisters) :
    Completes (.errlostClear 5) (S fib) :=
  some_completes ((H (S fib) 5).2.2.2.2.2.2.1)
theorem witness_reason (H : Obligations.HostAccessesAndRegisters) :
    Completes (.mstatReasonClear 5) (S fib) :=
  some_completes ((H (S fib) 5).2.2.2.2.2.2.2.1)
theorem witness_regwrite (H : Obligations.HostAccessesAndRegisters) :
    Completes (.registerWrite 3 0x4000 0xFFFFFFFF) (S fib) :=
  (fun h => next_completes h.1) ((H (S fib) 0xFFFFFFFF).2.2.2.2.2.2.2.2.1 3 (by decide +kernel))
theorem witness_errbase (H : Obligations.HostAccessesAndRegisters) :
    Completes (.registerWrite 0 0xC000 0xFFFFFFFF) (S fib) :=
  next_completes ((H (S fib) 0xFFFFFFFF).2.2.2.2.2.2.2.2.2.1)
theorem witness_errhead (H : Obligations.HostAccessesAndRegisters) :
    Completes (.registerWrite 0 0xC018 0xFFFFFFFF) (S fib) :=
  next_completes ((H (S fib) 0xFFFFFFFF).2.2.2.2.2.2.2.2.2.2.1)
theorem witness_expbase (H : Obligations.HostAccessesAndRegisters) :
    Completes (.registerWrite 0 0x8018 0xFFFFFFFF) (S fib) :=
  next_completes ((H (S fib) 0xFFFFFFFF).2.2.2.2.2.2.2.2.2.2.2.1)
theorem witness_bar2write (H : Obligations.HostAccessesAndRegisters) :
    Completes (.bar2Write 0x45010 [1, 2, 3, 4]) (S fib) :=
  next_completes (((H (S fib) 0).2.2.2.2.2.2.2.2.2.2.2.2.1 0x45010 [1, 2, 3, 4] (by decide +kernel) (by decide +kernel)
    (by decide +kernel)).1 (by decide +kernel))
theorem witness_bar2write_none (H : Obligations.HostAccessesAndRegisters) :
    Completes (.bar2Write 0xF000045010 [1, 2, 3, 4]) (S fib) :=
  next_completes (((H (S fib) 0).2.2.2.2.2.2.2.2.2.2.2.2.1 0xF000045010 [1, 2, 3, 4] (by decide +kernel) (by decide +kernel)
    (by decide +kernel)).2 (by decide +kernel))
theorem witness_bar2read (H : Obligations.HostAccessesAndRegisters) :
    Completes (.bar2Read 0x20008 8) (S fib) :=
  next_completes (((H (S fib) 0).2.2.2.2.2.2.2.2.2.2.2.2.2.1 0x20008 8 (by decide +kernel) (by decide +kernel)
    (by decide +kernel)).1 (by decide +kernel) (by decide +kernel))
/-- A state with a poisoned sector. -/
def poisonS : State := (S fib).onMem fun m => { m with poison := [0x1001] }
theorem witness_bar2read_poisoned (H : Obligations.HostAccessesAndRegisters) :
    Completes (.bar2Read 0x2001C 8) poisonS :=
  next_completes (((H poisonS 0).2.2.2.2.2.2.2.2.2.2.2.2.2.1 0x2001C 8 (by decide +kernel) (by decide +kernel)
    (by decide +kernel)).2.1 (by decide +kernel) (by decide +kernel))
/-- R423: of the bytes 0x2001C to 0x20023 the last four lie in the poisoned sector 0x1001, at 0x20020. -/
theorem test_bar2_poison :
    (match exec (.bar2Read 0x2001C 8) poisonS with
     | .next t => (match t.outbox with | [.bar2 _ bad, .aer] => bad == [4, 5, 6, 7] | _ => false)
     | _ => false) = true := by decide +kernel
theorem witness_bar2read_none (H : Obligations.HostAccessesAndRegisters) :
    Completes (.bar2Read 0xF000045010 4) (S fib) :=
  next_completes (((H (S fib) 0).2.2.2.2.2.2.2.2.2.2.2.2.2.1 0xF000045010 4 (by decide +kernel) (by decide +kernel)
    (by decide +kernel)).2.2 (by decide +kernel))
theorem witness_surprise (H : Obligations.HostAccessesAndRegisters) :
    Completes .hostSurpriseDown upS :=
  some_completes ((H upS 0).2.2.2.2.2.2.2.2.2.2.2.2.2.2.1 (by decide +kernel) (by decide +kernel) (by decide +kernel))
theorem witness_trained (H : Obligations.HostAccessesAndRegisters) :
    Completes .hostLinkTrained (S fib) :=
  next_completes ((H (S fib) 0).2.2.2.2.2.2.2.2.2.2.2.2.2.2.2.1)
theorem witness_register_reads (H : Obligations.HostAccessesAndRegisters) :
    (nextOf (.registerWrite 3 0x4008 0xFFFFFFFF) (S fib)).readReg 3 0x4008 = 0xFFFFF000 :=
  ((H (S fib) 0xFFFFFFFF).2.2.2.2.2.2.2.2.2.2.2.2.2.2.2.2.1 3 _ (by decide +kernel) rfl).trans (by decide +kernel)
theorem witness_register_not_owned (H : Obligations.HostAccessesAndRegisters) :
    (Hq 4).readReg 2 0x100158 = 0 :=
  (((H (Hq 4) 0).2.2.2.2.2.2.2.2.2.2.2.2.2.2.2.2.2.1 2).2.2 (by decide +kernel)).2.2 5 (by decide +kernel)
    (by decide +kernel) 24 (by decide +kernel)
theorem witness_ats (H : Obligations.HostAccessesAndRegisters) :
    Completes (.atsInvalidationRequest 0x50000 65536) (S fib) :=
  some_completes ((H (S fib) 0).2.2.2.2.2.2.2.2.2.2.2.2.2.2.2.2.2.2 0x50000 65536 (by decide +kernel))

/-! ManagementRequestsAndSparing -/

theorem witness_getstat (H : Obligations.ManagementRequestsAndSparing) :
    Completes .getstat (S fib) :=
  next_completes ((H (S fib) (by decide +kernel) (by decide +kernel) (by decide +kernel)).1)
theorem witness_counters (H : Obligations.ManagementRequestsAndSparing) :
    Completes .counters (S fib) :=
  next_completes ((H (S fib) (by decide +kernel) (by decide +kernel) (by decide +kernel)).2.1)
theorem witness_quiesce (H : Obligations.ManagementRequestsAndSparing) :
    Completes .quiesce (S fib) :=
  some_completes ((H (S fib) (by decide +kernel) (by decide +kernel) (by decide +kernel)).2.2.1)
theorem witness_resume (H : Obligations.ManagementRequestsAndSparing) :
    Completes .resume (S fib) :=
  next_completes ((H (S fib) (by decide +kernel) (by decide +kernel) (by decide +kernel)).2.2.2.1)
theorem witness_retire (H : Obligations.ManagementRequestsAndSparing) :
    Completes (.retire 7) (S fib) :=
  (fun h => h.elim fun _ h => next_completes h.1) (((H (S fib) (by decide +kernel) (by decide +kernel)
    (by decide +kernel)).2.2.2.2.1 7).1 (by decide +kernel) (by decide +kernel))
theorem witness_retire_bad (H : Obligations.ManagementRequestsAndSparing) :
    Completes (.retire 256) (S fib) :=
  next_completes (((H (S fib) (by decide +kernel) (by decide +kernel) (by decide +kernel)).2.2.2.2.1 256).2
    (by decide +kernel))
theorem witness_porten (H : Obligations.ManagementRequestsAndSparing) :
    Completes (.porten 3) portdown :=
  next_completes (((H (portdown) (by decide +kernel) (by decide +kernel) (by decide +kernel)).2.2.2.2.2.1 3).1
    (by decide +kernel) (by decide +kernel))
theorem witness_porten_bad (H : Obligations.ManagementRequestsAndSparing) :
    Completes (.porten 50) portdown :=
  next_completes (((H (portdown) (by decide +kernel) (by decide +kernel) (by decide +kernel)).2.2.2.2.2.1 50).2
    (by decide +kernel))
theorem witness_keyset (H : Obligations.ManagementRequestsAndSparing) :
    Completes (.keyset 9 ⟨77, true⟩) (S fib) :=
  next_completes ((((H (S fib) (by decide +kernel) (by decide +kernel) (by decide +kernel)).2.2.2.2.2.2.1 9 ⟨77, true⟩).2
    (by decide +kernel) (by decide +kernel)).1 (by decide +kernel))
theorem witness_keyset_bad (H : Obligations.ManagementRequestsAndSparing) :
    Completes (.keyset 0 ⟨77, true⟩) (S fib) :=
  next_completes ((((H (S fib) (by decide +kernel) (by decide +kernel) (by decide +kernel)).2.2.2.2.2.2.1 0 ⟨77, true⟩).2
    (by decide +kernel) (by decide +kernel)).2 (by decide +kernel))
theorem witness_keyset_no_session (H : Obligations.ManagementRequestsAndSparing) :
    Completes (.keyset 9 ⟨77, false⟩) (S fib) :=
  next_completes ((((H (S fib) (by decide +kernel) (by decide +kernel) (by decide +kernel)).2.2.2.2.2.2.1 9 ⟨77, false⟩).2
    (by decide +kernel) (by decide +kernel)).2 (by decide +kernel))
theorem witness_keyset_beyond (H : Obligations.ManagementRequestsAndSparing) :
    Completes (.keyset 8192 ⟨77, true⟩) (S fib) :=
  next_completes (((H (S fib) (by decide +kernel) (by decide +kernel) (by decide +kernel)).2.2.2.2.2.2.1 8192 ⟨77, true⟩).1
    (by decide +kernel))
theorem witness_keyerase0 (H : Obligations.ManagementRequestsAndSparing) :
    Completes (.keyerase 0) (S fib) :=
  next_completes ((H (S fib) (by decide +kernel) (by decide +kernel) (by decide +kernel)).2.2.2.2.2.2.2.1)
theorem witness_keyerase_empty (H : Obligations.ManagementRequestsAndSparing) :
    Completes (.keyerase 9) (S fib) :=
  next_completes (((H (S fib) (by decide +kernel) (by decide +kernel) (by decide +kernel)).2.2.2.2.2.2.2.2.1 9
    (by decide +kernel) (by decide +kernel)).1 (by decide +kernel))
theorem witness_keyerase_cached (H : Obligations.ManagementRequestsAndSparing) :
    Completes (.keyerase 9) keyed :=
  some_completes ((((H keyed (by decide +kernel) (by decide +kernel) (by decide +kernel)).2.2.2.2.2.2.2.2.1 9
    (by decide +kernel) (by decide +kernel)).2 (by decide +kernel)).1 (by decide +kernel))
theorem witness_keyerase (H : Obligations.ManagementRequestsAndSparing) :
    Completes (.keyerase 9) keyed :=
  some_completes ((((H keyed (by decide +kernel) (by decide +kernel) (by decide +kernel)).2.2.2.2.2.2.2.2.1 9
    (by decide +kernel) (by decide +kernel)).2 (by decide +kernel)).2 (by decide +kernel))
/-- The machine with a write under slot 9's key pending at its home. -/
def keyUsedS : State := keyed.onMem fun m => { m with pend := [{ pend0 with key := keyed.keyId 9 }] }
theorem witness_keyerase_used (H : Obligations.ManagementRequestsAndSparing) :
    ∃ t, exec (.keyerase 9) keyUsedS = .next t ∧ t.mg.erasing = some (9, keyUsedS.keyId 9) :=
  (fun h => h.elim fun t h => ⟨t, h.1, (h.2.2.2.1 (by decide +kernel)).1⟩) ((((H keyUsedS (by decide +kernel) (by decide +kernel) (by decide +kernel)).2.2.2.2.2.2.2.2.1 9
    (by decide +kernel) (by decide +kernel)).2
    (by decide +kernel)).2 (by decide +kernel))
theorem witness_attest (H : Obligations.ManagementRequestsAndSparing) :
    Completes (.attest (List.replicate 32 1)) signS :=
  (fun h => h.elim fun _ h => next_completes h) ((H (signS) (by decide +kernel) (by decide +kernel)
    (by decide +kernel)).2.2.2.2.2.2.2.2.2.1 (List.replicate 32 1) (by decide +kernel) (by decide +kernel))
theorem witness_fwload (H : Obligations.ManagementRequestsAndSparing) :
    Completes (.fwload Config.minFirmware 5 true) (S fib) :=
  next_completes (((H (S fib) (by decide +kernel) (by decide +kernel)
    (by decide +kernel)).2.2.2.2.2.2.2.2.2.2.1 Config.minFirmware 5).1 (Nat.le_refl _))
theorem witness_fwload_bad (H : Obligations.ManagementRequestsAndSparing) :
    Completes (.fwload 5 5 false) (S fib) :=
  next_completes (((H (S fib) (by decide +kernel) (by decide +kernel) (by decide +kernel)).2.2.2.2.2.2.2.2.2.2.1 5 5).2.2)
theorem witness_core_retirement (H : Obligations.ManagementRequestsAndSparing) :
    Completes (.coreRetirement 9) markedS :=
  some_completes ((H (markedS) (by decide +kernel) (by decide +kernel) (by decide +kernel)).2.2.2.2.2.2.2.2.2.2.2.1 9
    (by decide +kernel) (by decide +kernel))
theorem witness_row_remap (H : Obligations.ManagementRequestsAndSparing) :
    Completes (.hbmRowRemap 3 5 0) (S fib) :=
  next_completes ((H (S fib) (by decide +kernel) (by decide +kernel) (by decide +kernel)).2.2.2.2.2.2.2.2.2.2.2.2.1 3 5
    (by decide +kernel) (by decide +kernel) (by decide +kernel))
theorem witness_row_done (H : Obligations.ManagementRequestsAndSparing) :
    Completes (.rowRemapComplete 3 5) rowS :=
  some_completes ((H (rowS) (by decide +kernel) (by decide +kernel) (by decide +kernel)).2.2.2.2.2.2.2.2.2.2.2.2.2.1 3 5
    (by decide +kernel))
theorem witness_corrected (H : Obligations.ManagementRequestsAndSparing) :
    Completes (.correctedError 3 1 none) (S fib) :=
  some_completes (((H (S fib) (by decide +kernel) (by decide +kernel) (by decide +kernel)).2.2.2.2.2.2.2.2.2.2.2.2.2.2.1 3 1).1
    (by decide +kernel))
theorem witness_corrected_none (H : Obligations.ManagementRequestsAndSparing) :
    Completes (.correctedError 11 22 none) (S fib) :=
  next_completes (((H (S fib) (by decide +kernel) (by decide +kernel) (by decide +kernel)).2.2.2.2.2.2.2.2.2.2.2.2.2.2.1 11 22).2
    (by decide +kernel))
theorem witness_poison (H : Obligations.ManagementRequestsAndSparing) :
    Completes (.uncorrectableMemoryError 0x45010) (S fib) :=
  some_completes ((H (S fib) (by decide +kernel) (by decide +kernel)
    (by decide +kernel)).2.2.2.2.2.2.2.2.2.2.2.2.2.2.2 0x45010 (by decide +kernel) (by decide +kernel))

/-! FatalErrorsPowerAndReset -/

theorem witness_quiesced (H : Obligations.FatalErrorsPowerAndReset) :
    Completes .quiesceComplete quieted :=
  some_completes ((H quieted).1 (by decide +kernel) (by decide +kernel))
theorem witness_power (H : Obligations.FatalErrorsPowerAndReset) :
    Completes (.packagePowerLimit true) (S fib) :=
  next_completes ((H (S fib)).2.1)
theorem witness_power_back (H : Obligations.FatalErrorsPowerAndReset) :
    Completes (.packagePowerLimit false) (S fib) :=
  next_completes ((H (S fib)).2.2.1)
theorem witness_temperature (H : Obligations.FatalErrorsPowerAndReset) :
    Completes (.dieTemperatureLimit 2) (S fib) :=
  next_completes ((H (S fib)).2.2.2.1 2)
theorem witness_coolant (H : Obligations.FatalErrorsPowerAndReset) :
    Completes .coolantOutOfRange (S fib) :=
  some_completes ((H (S fib)).2.2.2.2.1)
theorem witness_power_trip (H : Obligations.FatalErrorsPowerAndReset) :
    Completes .powerTrip (S fib) :=
  some_completes ((H (S fib)).2.2.2.2.2.1 _ 22 0 0 0 (.inr (.inr (.inl ⟨rfl, rfl, rfl, rfl, rfl⟩))))
theorem witness_thermal_trip (H : Obligations.FatalErrorsPowerAndReset) :
    Completes (.thermalTrip 3) (S fib) :=
  some_completes ((H (S fib)).2.2.2.2.2.1 _ 3 0 0 0 (.inr (.inr (.inr ⟨rfl, rfl, rfl, rfl⟩))))
theorem witness_fatal_error (H : Obligations.FatalErrorsPowerAndReset) :
    Completes (.fatalError 22 1 2 3) fatalS :=
  some_completes ((H fatalS).2.2.2.2.2.1 _ 22 1 2 3 (.inl ⟨rfl, by decide⟩))
theorem witness_fatal_error_elsewhere (H : Obligations.FatalErrorsPowerAndReset) :
    Completes (.fatalError 22 11 2 3) quieted :=
  some_completes ((H quieted).2.2.2.2.2.1 _ 22 0 2 3 (.inr (.inl ⟨rfl, 11, by decide, rfl⟩)))
theorem witness_dumped (H : Obligations.FatalErrorsPowerAndReset) :
    Completes (.fatalDumpComplete [1]) fatalS :=
  some_completes ((H (fatalS)).2.2.2.2.2.2.1 _ [1] (got1 (by decide +kernel)) (by decide +kernel))
theorem witness_reset (H : Obligations.FatalErrorsPowerAndReset) :
    Completes (.moduleReset [5]) fatalS :=
  some_completes ((H (fatalS)).2.2.2.2.2.2.2.1 [5])
theorem witness_resume_fatal (H : Obligations.FatalErrorsPowerAndReset) :
    Completes .resume fatalS :=
  (fun h => next_completes h.1) ((H (fatalS)).2.2.2.2.2.2.2.2 (by decide +kernel))

/-! GathersAreServedAndMerged -/

theorem witness_split (H : Obligations.GathersAreServedAndMerged) :
    Completes (.gatherSplit 40) (gatS gath0 [] fib) :=
  (fun h => h.elim fun _ h => h.elim fun _ h => next_completes h.1) ((H (gatS gath0 [] fib) (gath0) (ask0)
    (by decide +kernel) (by decide +kernel) (by decide +kernel)).1 (by decide +kernel) (by decide +kernel)
    (by decide +kernel) (by decide +kernel) (by decide +kernel))
theorem witness_served (H : Obligations.GathersAreServedAndMerged) :
    Completes (.msePartService 40 0) (gatS gath0 [job0 0] fib) :=
  next_completes ((H (gatS gath0 [job0 0] fib) (gath0) (ask0) (by decide +kernel) (by decide +kernel)
    (by decide +kernel)).2.1 (job0 0) (part0) (by decide +kernel) (by decide +kernel) (by decide +kernel)
    (by decide +kernel) (by decide +kernel))
theorem witness_contribution (H : Obligations.GathersAreServedAndMerged) :
    Completes (.scaddContributionApply 61 9) contribS := by
  refine (fun h => h.elim fun _ h => h.elim fun _ h => next_completes h.1) ((H (contribS) (gath0) (ask0) (by decide +kernel)
    (by decide +kernel) (by decide +kernel)).2.2.1 contrib0 cpiece0 0x4000C 9 ?_ ?_ ?_ ?_ ?_ ?_ ?_ ?_ ?_
    ?_) <;> decide +kernel
theorem witness_merge (H : Obligations.GathersAreServedAndMerged) :
    Completes (.gatherMerge 40) (gatS gath0 [job0 3] fib) := by
  refine some_completes ((H (gatS gath0 [job0 3] fib) (gath0) (ask0) (by decide +kernel) (by decide +kernel)
    (by decide +kernel)).2.2.2.1 (job0 3) _ fib 0 ?_ ?_ ?_ ?_ ?_ ?_ ?_ ?_ (got1 (by decide +kernel)) (by decide +kernel)
    (by decide +kernel) (by decide +kernel)) <;> decide +kernel
theorem witness_merge_mask (H : Obligations.GathersAreServedAndMerged) :
    Completes (.gatherMerge 40) (gatS gathM [job0 3] fib) := by
  refine some_completes ((H (gatS gathM [job0 3] fib) (gathM) (ask0) (by decide +kernel) (by decide +kernel)
    (by decide +kernel)).2.2.2.1 (job0 3) _ fib 0 ?_ ?_ ?_ ?_ ?_ ?_ ?_ ?_ (got1 (by decide +kernel)) (by decide +kernel)
    (by decide +kernel) (by decide +kernel)) <;> decide +kernel
theorem witness_grant (H : Obligations.GathersAreServedAndMerged) :
    Completes (.gatherGrant 40 head5 [(1, 4096), (2, 64)]) grantS :=
  next_completes ((((H (grantS) (nth fill0 grantS.cmds 0) ({ ask0 with desc := peerDesc }) (by decide +kernel) (by decide +kernel)
    (by decide +kernel)).2.2.2.2.1 head5
    [(1, 4096), (2, 64)]).1 (by decide +kernel) (by decide +kernel) (by decide +kernel) (by decide +kernel)))
theorem witness_grant_dropped (H : Obligations.GathersAreServedAndMerged) :
    Completes (.gatherGrant 40 { head5 with inc := 1 } []) grantS :=
  next_completes (((H (grantS) (nth fill0 grantS.cmds 0) ({ ask0 with desc := peerDesc }) (by decide +kernel) (by decide +kernel)
    (by decide +kernel)).2.2.2.2.1
    { head5 with inc := 1 } []).2 (by decide +kernel))
theorem witness_grant_asked (H : Obligations.GathersAreServedAndMerged) :
    Completes (.gatherGrantRequest head5 4096) shareS :=
  some_completes ((((H shareS gath0 ask0 (by decide +kernel) (by decide +kernel)
    (by decide +kernel)).2.2.2.2.2 head5 4096).2 (by decide +kernel) (by decide +kernel)).1 [(0, 4096)]
    (by decide +kernel) (by decide +kernel))
theorem witness_grant_waits (H : Obligations.GathersAreServedAndMerged) :
    Completes (.gatherGrantRequest head5 400000000) shareS :=
  next_completes ((((H shareS gath0 ask0 (by decide +kernel) (by decide +kernel)
    (by decide +kernel)).2.2.2.2.2 head5 400000000).2 (by decide +kernel) (by decide +kernel)).2.1
    (grantOf shareS 400000000).1 ((grantOf shareS 400000000).2 - 1) (by decide +kernel) (by decide +kernel))
theorem witness_grant_refused (H : Obligations.GathersAreServedAndMerged) :
    Completes (.gatherGrantRequest head5 4096) noShareS :=
  some_completes ((((H noShareS gath0 ask0 (by decide +kernel) (by decide +kernel)
    (by decide +kernel)).2.2.2.2.2 head5 4096).2 (by decide +kernel) (by decide +kernel)).2.2
    (by decide +kernel))
theorem witness_grant_not_taken (H : Obligations.GathersAreServedAndMerged) :
    Completes (.gatherGrantRequest { head5 with ageTicks := 250001 } 4096) shareS :=
  next_completes (((H shareS gath0 ask0 (by decide +kernel) (by decide +kernel)
    (by decide +kernel)).2.2.2.2.2 { head5 with ageTicks := 250001 } 4096).1 (by decide +kernel))

/-! MatrixEntriesTakeEffect -/

theorem witness_entry_zeroed (H : Obligations.MatrixEntriesTakeEffect) :
    Completes (.matrixQueueEntryComplete 70) (Q .accz fib) :=
  (fun h => next_completes h.1) ((H.2 (Q .accz fib) (matEnt (.accz)) (by decide +kernel) (by decide +kernel)).1
    (by decide +kernel))
theorem witness_entry_loaded (H : Obligations.MatrixEntriesTakeEffect) :
    Completes (.matrixQueueEntryComplete 70) (Q (.accld (some [1, 2])) fib) :=
  next_completes ((H.2 (Q (.accld (some [1, 2])) fib) (matEnt (.accld (some [1, 2]))) (by decide +kernel)
    (by decide +kernel)).2.1 [1, 2] (by decide +kernel))
theorem witness_entry_multiplied (H : Obligations.MatrixEntriesTakeEffect) :
    Completes (.matrixQueueEntryComplete 70) (Q (.mma 3 [(0, [0, 0])] [] 0 0 []) fib) :=
  next_completes ((H.2 (Q (.mma 3 [(0, [0, 0])] [] 0 0 []) fib) (matEnt (.mma 3 [(0, [0, 0])] [] 0 0 [])) (by decide +kernel)
    (by decide +kernel)).2.2.1
    3 [(0, [0, 0])] [] 0 0 [] _ (by decide +kernel) (got1 (by decide +kernel)))
/-- An MMA that has read none of its B slice. -/
def mmaR : MatOp := .mma 2 [(0, [0, 0])] [] 0 0 (List.replicate (((newTeam placedLaunch 0 0).spanBytes (sliceSpans mdesc 2 0 0)).length) none)
theorem witness_entry_reads (H : Obligations.MatrixEntriesTakeEffect) :
    Completes (.matrixQueueEntryComplete 70) (Q mmaR fib) :=
  (fun h => h.elim fun _ h => h.elim fun _ h => next_completes h.1) (H.1 (Q mmaR fib) (matEnt mmaR) 2 0 0 [(0, [0, 0])] []
    (List.replicate (((newTeam placedLaunch 0 0).spanBytes (sliceSpans mdesc 2 0 0)).length) none) _ (by decide +kernel) rfl
    (by decide +kernel) (got1 (by decide +kernel)) (by decide +kernel) (by decide +kernel))
theorem witness_entry_drained (H : Obligations.MatrixEntriesTakeEffect) :
    Completes (.matrixQueueEntryComplete 70) (Q dr0 (at_ (.blocked (.drain 70 8)))) :=
  next_completes (((H.2 (Q dr0 (at_ (.blocked (.drain 70 8)))) (matEnt (dr0)) (by decide +kernel) (by decide +kernel)).2.2.2.1
    ⟨0, 0, 0⟩ _ 8 0 0 0 true
    [] (by decide +kernel) (got1 (by decide +kernel))).1 (by decide +kernel))
theorem witness_drain_written (H : Obligations.MatrixEntriesTakeEffect) :
    Completes (.matrixQueueEntryComplete 70) (Q dr0 (at_ (.blocked (.drained 8 3)))) :=
  next_completes (((H.2 (Q dr0 (at_ (.blocked (.drained 8 3)))) (matEnt (dr0)) (by decide +kernel)
    (by decide +kernel)).2.2.2.1 ⟨0, 0, 0⟩ _ 8 0 0 0 true
    [] (by decide +kernel) (got1 (by decide +kernel))).2 3 (by decide +kernel) (by decide +kernel))
theorem witness_banks_granted (H : Obligations.MatrixEntriesTakeEffect) :
    Completes (.aballocGrant 0) { abS with mat := { abS.mat with queue := [matEnt .accz] } } :=
  some_completes ((H.2 { abS with mat := { abS.mat with queue := [matEnt .accz] } } (matEnt .accz) (by decide +kernel)
    (by decide +kernel)).2.2.2.2 ⟨0,
    ⟨0, 0, 0⟩, 2, 8⟩ _ [] (by decide +kernel) (got1 (by decide +kernel)) (by decide +kernel))

/-! TheMemoryPipeGoesOn -/

theorem witness_passed (H : Obligations.TheMemoryPipeGoesOn) :
    Completes (.gwctPassed 80) pendS := by
  refine some_completes ((H (pendS)).1 pend0 0x42000 ?_ ?_ ?_ ?_ ?_ ?_ ?_ ?_) <;> decide +kernel
theorem witness_landed (H : Obligations.TheMemoryPipeGoesOn) :
    Completes (.writeArrival 20 40) landS := by
  refine (fun h => h.elim fun _ h => next_completes h.1) ((H (landS)).2.1 (out0 [⟨0, 0, 0⟩]) 0x42000 40 ?_ ?_ ?_ ?_ ?_ ?_
    ?_) <;> decide +kernel
theorem witness_stamped (H : Obligations.TheMemoryPipeGoesOn) :
    Completes (.replicatedWriteSequence 20 40) replS :=
  some_completes ((H (replS)).2.2.1 replOut 0x42000 40 (by decide +kernel) (by decide +kernel) (by decide +kernel)
    (by decide +kernel))
theorem witness_atomic (H : Obligations.TheMemoryPipeGoesOn) :
    Completes (.atomicExecution 0 40) atomS :=
  next_completes ((H (atomS)).2.2.2.1 atom1 0x42040 40 (by decide +kernel) (by decide +kernel) (by decide +kernel)
    (by decide +kernel) (by decide +kernel))
theorem witness_filled (H : Obligations.TheMemoryPipeGoesOn) :
    Completes (.l1Fill 31 9) fillS :=
  next_completes (((H (fillS)).2.2.2.2.1 mshr0 9 _ _ (by decide +kernel) (by decide +kernel) (by decide +kernel)).2
    (by decide +kernel) (by decide +kernel) (got (by decide +kernel)))
/-- Two entries of one line. -/
def fill2S : State := memS fun m => { m with mshrs := [{ mshr0 with uid := 30 }, mshr0] }
theorem witness_filled_later (H : Obligations.TheMemoryPipeGoesOn) :
    Completes (.l1Fill 31 9) fill2S :=
  next_completes (((H fill2S).2.2.2.2.1 mshr0 9 fill2S ⟨[], 0, 0⟩ (by decide +kernel) (by decide +kernel)
    (by decide +kernel)).1 (by decide +kernel))
theorem witness_window (H : Obligations.TheMemoryPipeGoesOn) :
    Completes (.writeMergeWindow 0) openS :=
  next_completes (((H (openS)).2.2.2.2.2.1 0 _ (got1 (by decide +kernel))).1 (by decide +kernel))
theorem witness_window_closes (H : Obligations.TheMemoryPipeGoesOn) :
    Completes (.writeMergeWindow 0) (later openS) :=
  some_completes (((H (later openS)).2.2.2.2.2.1 0 _ (got1 (by decide +kernel))).2 (by decide +kernel))
theorem witness_rope_store (H : Obligations.TheMemoryPipeGoesOn) :
    Completes (.remoteScratchpadAccess 33) spadS :=
  some_completes ((H (spadS)).2.2.2.2.2.2.1 spad0 (by decide +kernel) (by decide +kernel) (by decide +kernel))
theorem witness_chunk (H : Obligations.TheMemoryPipeGoesOn) :
    Completes (.chunkFillComplete 0 0 1) chunkS :=
  next_completes ((H (chunkS)).2.2.2.2.2.2.2 chunkTeam chunk0 ⟨0, 0, 0⟩ ⟨.dram 0x40000, true, 0, 0⟩ _ (by decide +kernel)
    (by decide +kernel) (by decide +kernel) (by decide +kernel) (by decide +kernel)
    (got1 (by decide +kernel)) (by decide +kernel))

/-! TheFabricGoesOn -/

theorem witness_flit_data (H : Obligations.TheFabricGoesOn) :
    Completes (.packetDataFlit 5 (flit0 1)) upPort :=
  some_completes (((H (upPort) 5 (by decide +kernel)).1 (flit0 1)).1 ⟨(by decide +kernel), intact 1,
    (by decide +kernel)⟩ |>.1 (by decide +kernel))
theorem witness_flit_control (H : Obligations.TheFabricGoesOn) :
    Completes (.controlFlit 5 (flit0 3)) upPort :=
  some_completes (((H (upPort) 5 (by decide +kernel)).1 (flit0 3)).1 ⟨(by decide +kernel), intact 3,
    (by decide +kernel)⟩ |>.2.1 (by decide +kernel))
theorem witness_flit_idle (H : Obligations.TheFabricGoesOn) :
    Completes (.idleFlit 5 (flit0 0)) upPort :=
  some_completes (((H (upPort) 5 (by decide +kernel)).1 (flit0 0)).1 ⟨(by decide +kernel), intact 0,
    (by decide +kernel)⟩ |>.2.2.1 (by decide +kernel))
theorem witness_flit_time (H : Obligations.TheFabricGoesOn) :
    Completes (.timeSyncFlit 5 (flit0 2) 59000) upPort :=
  some_completes (((H (upPort) 5 (by decide +kernel)).1 (flit0 2)).1 ⟨(by decide +kernel), intact 2,
    (by decide +kernel)⟩ |>.2.2.2 (by decide +kernel) 59000)
theorem witness_flit_dropped (H : Obligations.TheFabricGoesOn) :
    Completes (.timeSyncFlit 5 { flit0 2 with seq := 1 } 59000) upPort :=
  next_completes (((H (upPort) 5 (by decide +kernel)).1 { flit0 2 with seq := 1 }).2 (fun h => absurd h.2.2
    (by decide +kernel)) |>.2.2.2 59000)
theorem witness_replay (H : Obligations.TheFabricGoesOn) :
    Completes (.flitReplay 5) retryS :=
  some_completes ((H (retryS) 5 (by decide +kernel)).2.1 (by decide +kernel) (by decide +kernel))
theorem witness_idle_timer (H : Obligations.TheFabricGoesOn) :
    Completes (.flitIdleTimer 5) upPort :=
  some_completes (((H (upPort) 5 (by decide +kernel)).2.2.1 (by decide +kernel) (by decide +kernel)).1 (by decide +kernel))
theorem witness_sync_timer (H : Obligations.TheFabricGoesOn) :
    Completes (.timeSyncTimer 5) joinedUp :=
  some_completes (((H (joinedUp) 5 (by decide +kernel)).2.2.1 (by decide +kernel) (by decide +kernel)).2.2
    (by decide +kernel) (by decide +kernel))
theorem witness_retrain (H : Obligations.TheFabricGoesOn) :
    Completes (.portRetrain 5 true) upPort :=
  next_completes ((H (upPort) 5 (by decide +kernel)).2.2.2.1 (by decide +kernel) true (by decide +kernel))
theorem witness_retrained (H : Obligations.TheFabricGoesOn) :
    Completes (.retrainComplete 5 0) (portS fun x => { x with state := 3, retrainAt := 50000 }) :=
  some_completes ((H (portS fun x => { x with state := 3, retrainAt := 50000 }) 5 (by decide +kernel)).2.2.2.2.1
    (by decide +kernel) (by decide +kernel) (by decide +kernel))
theorem witness_trained_port (H : Obligations.TheFabricGoesOn) :
    Completes (.portTrainingComplete 5 3) (portS fun x => { x with state := 1 }) :=
  some_completes (((H (portS fun x => { x with state := 1 }) 5 (by decide +kernel)).2.2.2.2.2.1 (by decide +kernel)
    (by decide +kernel)).2)
theorem witness_signal_lost (H : Obligations.TheFabricGoesOn) :
    Completes (.lossOfSignal 5) retryS :=
  some_completes ((H (retryS) 5 (by decide +kernel)).2.2.2.2.2.2.1 (by decide +kernel) (by decide +kernel))
theorem witness_link_lost (H : Obligations.TheFabricGoesOn) :
    Completes (.d2dLinkFailure 1 3) (S fib) :=
  next_completes ((H (S fib) 5 (by decide +kernel)).2.2.2.2.2.2.2.1 1 3 (by decide +kernel) (by decide +kernel)
    (by decide +kernel) (by decide +kernel))
/-- With one port up, the gap of its switch die is that of the spec. -/
theorem oneUp (last : Nat) : (flowS last).flowgapOf (5 / 24) = 1250 := by
  have e : (upFrom (24 * (5 / 24)) 24).filter (fun p => ((flowS last).port p).state == 2) = [5] :=
    (by decide +kernel : (upFrom (24 * (5 / 24)) 24).filter (fun p => ((flowS 0).port p).state == 2) = [5])
  unfold State.flowgapOf
  rw [e]
  simp [leastField, maxList]
theorem witness_flowgap (H : Obligations.TheFabricGoesOn) : 1250 ≤ upPort.flowgapOf 0 :=
  (H upPort 5 (by decide +kernel)).2.2.2.2.2.2.2.2.2.1
theorem witness_flowgap_paths (H : Obligations.TheFabricGoesOn) : 64 ≤ upPort.flowgapOf 0 :=
  Nat.le_of_add_le_add_left ((H upPort 5 (by decide +kernel)).2.2.2.2.2.2.2.2.2.2 5 (by decide) rfl (by decide +kernel) (by decide +kernel))
theorem witness_flow_moves (H : Obligations.TheFabricGoesOn) :
    Completes (.flowletGapExpiry 0 9 5) (flowS 7) :=
  next_completes (((H (flowS 7) 5 (by decide +kernel)).2.2.2.2.2.2.2.2.1 9 (flow0 7) (by decide +kernel) (by decide +kernel)
    (by decide +kernel) (by decide +kernel)).1 (by rw [oneUp]; decide))
theorem witness_flow_stays (H : Obligations.TheFabricGoesOn) :
    Completes (.flowletGapExpiry 0 9 5) (flowS 59000) :=
  next_completes (((H (flowS 59000) 5 (by decide +kernel)).2.2.2.2.2.2.2.2.1 9 (flow0 59000) (by decide +kernel)
    (by decide +kernel) (by decide +kernel) (by decide +kernel)).2 (by rw [oneUp]; decide))

/-! ThePackageJoinsAndServesPeers -/

theorem witness_join (H : Obligations.ThePackageJoinsAndServesPeers) :
    Completes (.fabricJoin 77 255 false 70000) idleUp :=
  some_completes (((H idleUp 5 (by decide +kernel)).1 77 255 70000 (by decide +kernel) (by decide +kernel)
    (by decide +kernel) (by decide +kernel)).2 (by decide +kernel))
theorem witness_join_late (H : Obligations.ThePackageJoinsAndServesPeers) :
    Completes (.fabricJoin 77 255 false 70000) upPort :=
  next_completes (((H upPort 5 (by decide +kernel)).1 77 255 70000 (by decide +kernel) (by decide +kernel)
    (by decide +kernel) (by decide +kernel)).1 (by decide +kernel) (by decide +kernel))
theorem witness_join_behind (H : Obligations.ThePackageJoinsAndServesPeers) :
    Completes (.fabricJoin 77 255 false 7) upPort :=
  some_completes (((H upPort 5 (by decide +kernel)).1 77 255 7 (by decide +kernel) (by decide +kernel) (by decide +kernel)
    (by decide +kernel)).2 (by decide +kernel))
theorem witness_peer_joins (H : Obligations.ThePackageJoinsAndServesPeers) :
    Completes (.joinNotice 9 261) memberS :=
  some_completes ((H memberS 5 (by decide +kernel)).2.1 9 261 (by decide +kernel) (by decide +kernel) (by decide +kernel)).1
theorem witness_peer_departs (H : Obligations.ThePackageJoinsAndServesPeers) :
    Completes (.departureNotice 9) memberS :=
  some_completes (((H memberS 5 (by decide +kernel)).2.1 9 261 (by decide +kernel) (by decide +kernel)
    (by decide +kernel)).2 (by decide +kernel) (by decide +kernel) (by decide +kernel))
theorem witness_other_domain (H : Obligations.ThePackageJoinsAndServesPeers) :
    Completes (.remoteRequest { req0 4 (.load 2 0 4) with ageTicks := 2 ^ 40 }) memberS :=
  next_completes ((H memberS 5 (by decide +kernel)).2.2.1 { req0 4 (.load 2 0 4) with ageTicks := 2 ^ 40 }
    (by decide +kernel))
theorem witness_stale (H : Obligations.ThePackageJoinsAndServesPeers) :
    Completes (.remoteRequest (req0 3 (.load 2 0 4))) memberS :=
  next_completes (((H memberS 5 (by decide +kernel)).2.2.2.1 (req0 3 (.load 2 0 4)) (by decide +kernel)).1
    (by decide +kernel))
theorem witness_not_exported (H : Obligations.ThePackageJoinsAndServesPeers) :
    Completes (.remoteRequest (req0 4 (.load 3 0 4))) memberS :=
  next_completes (((H memberS 5 (by decide +kernel)).2.2.2.1 (req0 4 (.load 3 0 4)) (by decide +kernel)).2.1 3 0 4
    (by decide +kernel) rfl (by decide +kernel))
theorem witness_peer_load (H : Obligations.ThePackageJoinsAndServesPeers) :
    Completes (.remoteRequest (req0 4 (.load 2 0 4))) memberS :=
  (fun h => h.elim fun _ h => h.elim fun _ h => next_completes h.1)
    (((H memberS 5 (by decide +kernel)).2.2.2.1 (req0 4 (.load 2 0 4)) (by decide +kernel)).2.2.1 2 0 4
      (by decide +kernel) rfl (by decide +kernel) (by decide +kernel) (by decide +kernel) (by decide +kernel)
      (by decide +kernel))
theorem witness_peer_store (H : Obligations.ThePackageJoinsAndServesPeers) :
    Completes (.remoteRequest (req0 4 (.store 2 8 [1, 2] [] 0))) memberS :=
  (fun h => h.elim fun _ h => h.elim fun _ h => next_completes h.2)
    ((((H memberS 5 (by decide +kernel)).2.2.2.1 (req0 4 (.store 2 8 [1, 2] [] 0)) (by decide +kernel)).2.2.2 2 8 [1, 2] [] 0
      (by decide +kernel) rfl (by decide +kernel)).2 (by decide +kernel))
theorem witness_peer_block (H : Obligations.ThePackageJoinsAndServesPeers) :
    Completes (.remoteRequest (req0 4 (.store 2 256 (List.replicate 256 7) [] 3))) memberS :=
  (fun h => h.elim fun _ h => h.elim fun _ h => next_completes h.2)
    ((((H memberS 5 (by decide +kernel)).2.2.2.1 (req0 4 (.store 2 256 (List.replicate 256 7) [] 3)) (by decide +kernel)).2.2.2 2 256 (List.replicate 256 7) [] 3
      (by decide +kernel) rfl (by decide +kernel)).1 (by decide +kernel))
theorem witness_reply (H : Obligations.ThePackageJoinsAndServesPeers) :
    Completes (.remoteReply rep0) askedS := by
  refine next_completes ((H askedS 5 (by decide +kernel)).2.2.2.2 op0 rep0 (.peer 9 0x20000) ?_ ?_ ?_ ?_ ?_ ?_ ?_
    ?_) <;> decide +kernel

/-! GuardedOffWordsOnlyPass -/

theorem witness_guarded_off (H : Obligations.GuardedOffWordsOnlyPass) :
    Completes (.add ⟨true, 0, true⟩ 5 4 6) (S fib) :=
  does_completes (H (.add ⟨true, 0, true⟩ 5 4 6) _ (S fib) fib (got1 (by decide +kernel)) (by decide +kernel)
    (by decide +kernel) (by decide +kernel))

/-! OperandsAndImmediates -/

theorem witness_latch (H : Obligations.OperandsAndImmediates) :
    winf.src 60 = 1 :=
  id ((H (S winf) winf).2.2.1 1 (by decide +kernel))
theorem witness_ksrc (H : Obligations.OperandsAndImmediates) :
    (S hintf).srcB hintf 3 = 0 :=
  (fun h => h.2) ((H (S hintf) hintf).2.2.2.2.2.2.2.2.1 4 7 _ (by decide +kernel) (got1 (by decide +kernel)))
theorem witness_wide (H : Obligations.OperandsAndImmediates) :
    hintf.widen 6 1 = 0x90000141 :=
  id ((H (S hintf) hintf).2.2.2.2.2.2.2.2.2.2.2.1 1 5 9 (by decide +kernel) (by decide +kernel))

/-! OperandFaultsOfTwoSourceWords -/

theorem witness_bad_d (H : Obligations.OperandFaultsOfTwoSourceWords) :
    Completes (.add hd 30 31 32) (S winf) :=
  traps_completes ((H _ (mem_at _ 0 (by decide +kernel)) hd 30 31 32 (S winf) winf (by decide +kernel) (by decide +kernel)
    (by decide +kernel)).1 (by decide +kernel))
theorem witness_bad_a (H : Obligations.OperandFaultsOfTwoSourceWords) :
    Completes (.add hd 3 31 32) (S winf) :=
  traps_completes ((H _ (mem_at _ 0 (by decide +kernel)) hd 3 31 32 (S winf) winf (by decide +kernel) (by decide +kernel)
    (by decide +kernel)).2.1 (by decide +kernel) (by decide +kernel))
theorem witness_bad_b (H : Obligations.OperandFaultsOfTwoSourceWords) :
    Completes (.add hd 3 4 32) (S winf) :=
  traps_completes ((H _ (mem_at _ 0 (by decide +kernel)) hd 3 4 32 (S winf) winf (by decide +kernel) (by decide +kernel)
    (by decide +kernel)).2.2.1 (by decide +kernel) (by decide +kernel) (by decide +kernel))
theorem witness_open_a (H : Obligations.OperandFaultsOfTwoSourceWords) :
    Completes (.add hd 3 62 63) (S winf) :=
  traps_completes ((H _ (mem_at _ 0 (by decide +kernel)) hd 3 62 63 (S winf) winf (by decide +kernel) (by decide +kernel)
    (by decide +kernel)).2.2.2.1 (by decide +kernel) (by decide +kernel) (by decide +kernel) (by decide +kernel)
    (by decide +kernel))
theorem witness_open_b (H : Obligations.OperandFaultsOfTwoSourceWords) :
    Completes (.add hd 3 60 63) (S winf) := by
  refine traps_completes ((H _ (mem_at _ 0 (by decide +kernel)) hd 3 60 63 (S winf) winf (by decide +kernel)
    (by decide +kernel) (by decide +kernel)).2.2.2.2.1 ?_ ?_ ?_ ?_ ?_ ?_) <;> decide +kernel
theorem witness_waits (H : Obligations.OperandFaultsOfTwoSourceWords) :
    Completes (.add hd 3 9 4) (S winf) := by
  refine next_completes ((H _ (mem_at _ 0 (by decide +kernel)) hd 3 9 4 (S winf) winf (by decide +kernel)
    (by decide +kernel) (by decide +kernel)).2.2.2.2.2 ?_ ?_ ?_ ?_ ?_ ?_ ?_ ?_) <;> decide +kernel

/-! PackedIntegerWords -/

theorem witness_vadd (H : Obligations.PackedIntegerWords) :
    Completes (.addB hd 8 4 5) (S fib) :=
  (fun h => h.elim fun _ h => h.elim fun _ h => does_completes h.2) (H.1 _ (mem_at (vArithTable ++ vShiftTable ++
    vPermTable) 0 (by decide +kernel)) hd 8 4 5 (S fib) fib (by decide +kernel) (by decide +kernel))
theorem witness_vshift (H : Obligations.PackedIntegerWords) :
    Completes (.vshiftiShlH hd 8 4 5) (S fib) :=
  (fun h => h.elim fun _ h => h.elim fun _ h => does_completes h.2) (((H.2 _ (mem_at vShiftITable 0
    (by decide +kernel)) hd 8 4 5 (S
    fib) fib (by decide +kernel) (by decide +kernel)).1 (by decide +kernel)))
theorem witness_vshift_trap (H : Obligations.PackedIntegerWords) :
    Completes (.vshiftiShlH hd 8 4 16) (S fib) :=
  traps_completes (((H.2 _ (mem_at vShiftITable 0 (by decide +kernel)) hd 8 4 16 (S fib) fib (by decide +kernel)
    (by decide +kernel)).2 (by decide +kernel)))

/-! FloatingPointWords -/

theorem witness_fadd (H : Obligations.FloatingPointWords) :
    Completes (.addS2 hd 8 4 5) (S fib) :=
  (fun h => h.elim fun _ h => h.elim fun _ h => does_completes h.2) (H.1 _ (mem_at (fArithTable ++ fCmpTable ++
    cvtABTable) 0 (by decide +kernel)) hd 8 4 5 (S fib) fib (by decide +kernel) (by decide +kernel))
theorem witness_funary (H : Obligations.FloatingPointWords) :
    Completes (.absS2 hd 8 4) (S fib) :=
  (fun h => h.elim fun _ h => h.elim fun _ h => does_completes h.2) ((H.2.1 hd 8 4 (S fib) fib (by decide +kernel)).1 _
    (mem_at fUnTable
    0 (by decide +kernel)) (by decide +kernel))
theorem witness_sfu (H : Obligations.FloatingPointWords) :
    Completes (.rcpS2 hd 8 4) (S fib) :=
  (fun h => h.elim fun _ h => h.elim fun _ h => does_completes h.2) ((H.2.1 hd 8 4 (S fib) fib (by decide +kernel)).2 _
    (mem_at sfuTable
    0 (by decide +kernel)) (by decide +kernel))
theorem witness_fsum (H : Obligations.FloatingPointWords) :
    ∃ n m e, Fp.plus false (.fin false 3 (-1)) (.fin true 1 0) = (.fin n m e, false) :=
  (fun h => h.elim fun n h => h.elim fun m h => h.elim fun e h => ⟨n, m, e, h.1⟩) (H.2.2.1 false false true 3 1 (-1) 0).1
/-- 257 × 2^-8 lies between two values of BF16, which has 8 bits of precision. -/
theorem below_bf16 (k : Int) (h : k ≤ -8) : (signedAt false 257 (-8) k).natAbs ≤ (signedAt false 255 120 k).natAbs := by
  have e : (120 - k).toNat = (-8 - k).toNat + 128 := by omega
  simp only [signedAt, e, Bool.false_eq_true, if_false, Int.natAbs_natCast]
  generalize (-8 - k).toNat = n
  have p : 2 ^ (n + 128) = 2 ^ n * (2 * 2 ^ 127) := (Nat.pow_add 2 n 128).trans (congrArg (2 ^ n * ·) (by decide))
  rw [p, ← Nat.mul_assoc, ← Nat.mul_assoc]
  calc 257 * 2 ^ n ≤ 255 * 2 ^ n * 2 := by omega
    _ ≤ 255 * 2 ^ n * 2 * 2 ^ 127 := Nat.le_mul_of_pos_right _ (Nat.two_pow_pos 127)
theorem witness_fround (H : Obligations.FloatingPointWords) :
    ∃ r fl my ey, bf16.round .rne false (.fin false 257 (-8)) = (r, fl) ∧ bf16.value r = .fin false my ey := by
  obtain ⟨r, fl, my, ey, h, v, -⟩ := H.2.2.2 bf16 (by decide) .rne false 257 255 (-8) 120 (by decide) (by decide +kernel)
    fun k h _ => below_bf16 k h
  exact ⟨r, fl, my, ey, h, v⟩

/-! DecodingAnEncodedWordGivesItBack -/

theorem witness_round (H : Obligations.DecodingAnEncodedWordGivesItBack) :
    decodeWord 0x0400513C = .ok (.add ⟨false, 0, false⟩ 5 4 60) :=
  id (H (.add ⟨false, 0, false⟩ 5 4 60) 0x0400513C (by decide +kernel) (by decide +kernel))

/-! EveryDecodedWordIsAnEncoding -/

theorem witness_decoded (H : Obligations.EveryDecodedWordIsAnEncoding) :
    encode (.add ⟨false, 0, false⟩ 5 4 60) = some 0x0400513C :=
  (fun h => h.2) (H (.add ⟨false, 0, false⟩ 5 4 60) 0x0400513C (okE (by decide +kernel)))

/-! AfterAFatalErrorNothingActs -/

theorem witness_after (H : Obligations.AfterAFatalErrorNothingActs) :
    (stepOf { fatalS with agenda := [] }).fibres = fatalS.fibres :=
  (fun h => h.2.1) (H { fatalS with agenda := [] } _ (by decide +kernel) (fun _ _ h => by cases h) (stepsTo
    (by decide +kernel)))

/-! EveryStepKeepsMemoryCanonical -/

theorem witness_keeps (H : Obligations.EveryStepKeepsMemoryCanonical) :
    (stepOf (placed 0x0400513C)).m.mem.wf = true :=
  id (H (placed 0x0400513C) _ (by decide +kernel) (stepsTo (by decide +kernel)))

/-! StepRunsTheDecodedInstruction: of a placed word, which is not a safe point. -/

theorem witness_step_runs (H : Obligations.StepRunsTheDecodedInstruction) :
    ∃ s' t, exec (.add ⟨false, 0, false⟩ 5 4 60) s' = .next t ∧ step (placed 0x0400513C) = .next t.rotateBatches.pass := by
  have a := H (placed 0x0400513C) 0 0 0 [] placedFib placedLaunch ⟨.dram 0x30000, true, 0, 0⟩ 0x30000 0x3C 0x51 0x00 0x04
    (.add ⟨false, 0, false⟩ 5 4 60) (by decide +kernel) (by decide +kernel) (by decide +kernel) (by decide +kernel)
  have h := (a (by decide +kernel) (by decide +kernel) (by decide +kernel) (by decide +kernel) (by decide +kernel) (okE
    (by decide +kernel)) (by decide +kernel) (by decide +kernel) (by decide +kernel) _ (gotE (by decide +kernel))).1
    (by decide +kernel)
  have n := stepsTo (s := placed 0x0400513C) (by decide +kernel)
  dsimp only at h
  split at h
  · exact ⟨_, _, by assumption, h⟩
  · rename_i o
    exact absurd (h.symm.trans n) (o _)

end Sys2Proof.Tests

end
end

section
/-! What an instruction of the sequencer leaves behind: the frame of a word whatever its outcome, predicates written bit
by bit, and the fields of a word packed as a concatenation. Settled with them: the comparisons, the predicate words and
the words that only end a run (chapter 05). -/

namespace Sys2Proof.Machine

/-! ### The frame of a word -/

/-- A word that goes on answers the state that `finish` makes of what it did. -/
theorem exec_of_next {i : Instr} {s s' : State} {f f' : Fibre} {e : Bool} {pg : BitVec 3} {pn fixed : Bool}
    {act : State → Fibre → WordOut} (hx : exec i s = runWord e pg pn fixed act s) (hi : Issues s f pg pn)
    (ha : act s f = .next s' f') : exec i s = .next (s'.finish e f.key (.next s' (f'.pastWord true))) := by
  obtain ⟨hc, hg⟩ := hi
  simp only [hx, runWord, hc, hg, if_true, ha]
  rfl

/-- A word after which the fibre leaves its batch answers the state it left, without the fibre in the first batch. -/
theorem exec_of_out {i : Instr} {s s' : State} {f : Fibre} {e : Bool} {pg : BitVec 3} {pn fixed : Bool}
    {act : State → Fibre → WordOut} (hx : exec i s = runWord e pg pn fixed act s) (hi : Issues s f pg pn)
    (ha : act s f = .out s') : exec i s = .next (s'.leaveBatch f.key) := by
  obtain ⟨hc, hg⟩ := hi
  simp only [hx, runWord, hc, hg, if_true, ha]
  rfl

/-- The fibre that a word that changes only its fibre leaves: at the end of a run its latches and marks are gone too. -/
theorem exec_fibre? {i : Instr} {s : State} {f f' : Fibre} {e : Bool} {pg : BitVec 3} {pn fixed : Bool}
    {act : State → Fibre → WordOut} (hx : exec i s = runWord e pg pn fixed act s) (hi : Issues s f pg pn)
    (ha : act s f = .next s f') (hk : f'.key = f.key) : ∃ t, exec i s = .next t ∧
      t.fibre? f.key = some (if e then (f'.pastWord true).endRun (f'.pc + 4) s.ftime else f'.pastWord true) := by
  have hs : (s.fibre? f'.key).isSome := by rw [hk, State.cur_fibre? hi.1]; rfl
  refine ⟨_, exec_of_next hx hi ha, ?_⟩
  rw [← hk]
  cases e
  · simp only [State.finish, Bool.false_eq_true, if_false, State.nextMember_fibre?]
    exact State.setFibre_same s (f'.pastWord true) hs
  · simp only [State.finish, if_true, State.leaveBatch_fibre?]
    exact State.setFibre_same s ((f'.pastWord true).endRun (f'.pc + 4) s.ftime) hs

/-- A fibre replaced and taken out of the first batch: nothing else of the machine changes. -/
theorem fibreOf_setFibre_leaveBatch (s : State) (g : Fibre) (hs : (s.fibre? g.key).isSome) :
    FibreOf s ((s.setFibre g).leaveBatch g.key) g.key g where
  fibre := by rw [State.leaveBatch_fibre?, State.setFibre_same s g hs]
  others k hk := by rw [State.leaveBatch_fibre?, State.setFibre_other s g k hk]
  rest := by rw [State.leaveBatch_eq]; rfl

/-- Where nothing but a fibre and the batches changes, no byte of global memory does. -/
theorem FibreOf.sameBytes {s t : State} {k : FKey} {g : Fibre} (h : FibreOf s t k g) : SameBytes s t := by
  have hm := congrArg State.m h.rest
  have ht := congrArg State.ftime h.rest
  exact SameBytes.of_eq hm ht

/-- Pending hints and the counts and marks of the run do not matter to where a fibre has moved. -/
theorem Moved.of_marks {f f' g : Fibre} {e : Bool} (h : Moved f' g e)
    (hf : { f' with hints := f.hints, runCount := f.runCount, yieldAtEnd := f.yieldAtEnd, boostAtEnd := f.boostAtEnd,
                    age := f.age, boost := f.boost } = f) : Moved f g e where
  pc := h.pc.trans (by have := congrArg (fun x => x.pc + 4) hf; exact this)
  hints := h.hints
  lat := h.lat.trans (by have := congrArg (fun x => if e then Latches.none else x.lat) hf; exact this)
  rest := by
    have hpc := congrArg Fibre.pc hf
    have hlat := congrArg Fibre.lat hf
    dsimp only at hpc hlat
    refine Eq.trans ?_ hf
    rw [← h.rest, ← hpc, ← hlat]

/-- A word guarded off is passed as one that does nothing, but for its hints, which it does not apply (R36, R149). -/
theorem pastWord_false (f : Fibre) : f.pastWord false = { f with hints := Hints.none }.pastWord true := by
  simp [Fibre.pastWord, Fibre.sched, Hints.none]

/-- A word without a latch position of its own whose guard does not hold changes nothing. -/
theorem does_guard_off {i : Instr} {s : State} {f : Fibre} {e : Bool} {pg : BitVec 3} {pn : Bool}
    {act : State → Fibre → WordOut} (hx : exec i s = runWord e pg pn false act s) (hc : s.cur = some f)
    (hg : f.guardOn pg pn = false) : Does i s f e s f := by
  have hs : (s.fibre? f.key).isSome := by rw [State.cur_fibre? hc]; rfl
  obtain ⟨g, hf, hb, hm, hmem, ht⟩ := finish_next s { f with hints := Hints.none } e f.key rfl hs
  refine ⟨_, g, ?_, hf, hb, hm.of_marks rfl, SameBytes.of_eq hmem ht⟩
  simp only [hx, runWord, hc, hg, Bool.false_eq_true, if_false, pastWord_false]

/-- A fixed-latency word whose operands are fine writes its value to D and the newest latch, and does no more. -/
theorem does_fixedWord {i : Instr} {s : State} {f : Fibre} {h : Hdr} {d : BitVec 6} {opds : Fibre → List Opd}
    {val : State → Fibre → Word} (hx : exec i s = fixedWord h d opds val s) (hi : Issues s f h.pg h.pn)
    (hr : Ready f (⟨1, d, .dst⟩ :: opds f) f.ksrcBad) : Does i s f h.e s (f.holding d (val s f)) :=
  does_fibre hx hi (by rw [withOpds_ok hr, writeFixed_holding]) (holding_key f d _)

/-! ### Predicates -/

/-- The sum of the powers of two that a predicate selects has just those bits, and no others. -/
theorem foldl_two_pow_bits (b : Nat → Bool) (n : Nat) :
    (List.range n).foldl (fun x i => x + if b i then 2 ^ i else 0) 0 < 2 ^ n ∧
    ∀ j, ((List.range n).foldl (fun x i => x + if b i then 2 ^ i else 0) 0).testBit j = (decide (j < n) && b j) := by
  induction n with
  | zero => simp
  | succ n ih =>
    obtain ⟨hlt, hbit⟩ := ih
    simp only [List.range_succ, List.foldl_append, List.foldl_cons, List.foldl_nil]
    generalize (List.range n).foldl (fun x i => x + if b i then 2 ^ i else 0) 0 = x at hlt hbit
    have hx : (x + if b n then 2 ^ n else 0) = 2 ^ n * (b n).toNat + x := by cases b n <;> simp [Nat.add_comm]
    have hb : (b n).toNat < 2 := Bool.toNat_lt _
    refine ⟨?_, fun j => ?_⟩
    · rw [hx, Nat.pow_succ]
      calc 2 ^ n * (b n).toNat + x < 2 ^ n * (b n).toNat + 2 ^ n := by omega
        _ = 2 ^ n * ((b n).toNat + 1) := (Nat.mul_succ ..).symm
        _ ≤ 2 ^ n * 2 := Nat.mul_le_mul_left _ hb
    · rw [hx, Nat.testBit_two_pow_mul_add _ hlt, hbit]
      rcases Nat.lt_trichotomy j n with h | rfl | h
      · simp [h, Nat.lt_succ_of_lt h]
      · cases b j <;> simp
      · have hb0 : (b n).toNat.testBit (j - n) = false :=
          Nat.testBit_lt_two_pow (Nat.lt_of_lt_of_le hb (Nat.le_self_pow (Nat.sub_ne_zero_of_lt h) 2))
        simp [hb0, Nat.lt_asymm h, Nat.not_lt.2 h]

/-- A bit set or cleared through its mask: the others stay. -/
theorem getLsbD_setBit {w : Nat} (x : BitVec w) (v : Bool) (n : Nat) {i : Nat} (hi : i < w) :
    (if v then x ||| 1#w <<< n else x &&& ~~~(1#w <<< n)).getLsbD i = if i = n then v else x.getLsbD i := by
  have hmask : (1#w <<< n).getLsbD i = decide (n = i) := by
    change (BitVec.twoPow w n).getLsbD i = _
    rw [BitVec.getLsbD_twoPow]
    by_cases h : n = i <;> simp [h, hi]
  cases v
  · simp only [Bool.false_eq_true, if_false, BitVec.getLsbD_and, BitVec.getLsbD_not, hmask, hi]
    by_cases h : i = n <;> simp [h, Ne.symm]
  · simp only [if_true, BitVec.getLsbD_or, hmask]
    by_cases h : i = n <;> simp [h, Ne.symm]

/-- The predicate word as the statements write it: bit by bit. -/
theorem setPred_predicated (f : Fibre) (n : BitVec 3) (v : Bool) : f.setPred n v = f.predicated n v := by
  by_cases h : n = 0
  · simp [Fibre.setPred, Fibre.predicated, h]
  · have hpw : (if v then f.pw ||| 1#8 <<< n.toNat else f.pw &&& ~~~(1#8 <<< n.toNat)) =
        BitVec.ofNat 8 ((List.range 8).foldl (fun x i =>
          x + if (if i = n.toNat then v else f.pw.getLsbD i) then 2 ^ i else 0) 0) := by
      refine BitVec.eq_of_getLsbD_eq fun i hi => ?_
      rw [getLsbD_setBit f.pw v n.toNat hi, BitVec.getLsbD_ofNat, (foldl_two_pow_bits _ 8).2]
      simp [hi]
    simp only [Fibre.setPred, Fibre.predicated, if_neg h, hpw]

@[simp] theorem Fibre.pred_zero (f : Fibre) : f.pred 0 = true := rfl

theorem predicated_key (f : Fibre) (n : BitVec 3) (v : Bool) : (f.predicated n v).key = f.key := rfl

/-- The combine rule as the statements write it (R38). -/
theorem combine_combined (cb : BitVec 3) (old c : Bool) : combine cb old c = combined cb old c := by
  revert cb old c; decide

/-- A word whose action is to write a predicate does that and no more. -/
theorem does_predicated {i : Instr} {s : State} {f : Fibre} {e : Bool} {pg : BitVec 3} {pn fixed : Bool} {n : BitVec 3}
    {v : Bool} {act : State → Fibre → WordOut} (hx : exec i s = runWord e pg pn fixed act s) (hi : Issues s f pg pn)
    (ha : act s f = .next s (f.setPred n v)) : Does i s f e s (f.predicated n v) :=
  does_fibre hx hi (by rw [ha, setPred_predicated]) (predicated_key f n v)

/-! ### Encodings as concatenations of fields -/

/-- A concatenation as a sum. -/
theorem toNat_append_add {m n : Nat} (x : BitVec m) (y : BitVec n) : (x ++ y).toNat = x.toNat * 2 ^ n + y.toNat := by
  rw [BitVec.toNat_append, ← Nat.shiftLeft_add_eq_or_of_lt y.isLt, Nat.shiftLeft_eq]

/-- A number that a word has is that word. -/
theorem ofNat_eq_of_eq_toNat {w n : Nat} {x : BitVec w} (h : n = x.toNat) : BitVec.ofNat w n = x := by
  rw [h, BitVec.ofNat_toNat, BitVec.setWidth_eq]

theorem toNat_ofBool_eq_bitNat (b : Bool) : (BitVec.ofBool b).toNat = bitNat b := by cases b <;> rfl

/-- A word of format P as the concatenation of its fields (R35, R37). -/
theorem packWord_bodyP (maj : BitVec 6) (h : Hdr) {fn : Nat} (hfn : fn < 8) (pd cb : BitVec 3) (a b : BitVec 6) :
    packWord maj.toNat h.e h.pg h.pn (bodyP fn pd cb a b) =
      maj ++ (BitVec.ofBool h.e ++ h.pg ++ BitVec.ofBool h.pn ++ BitVec.ofNat 3 fn ++ pd ++ cb ++ a ++ b) := by
  refine ofNat_eq_of_eq_toNat ?_
  simp only [toNat_append_add, toNat_ofBool_eq_bitNat, BitVec.toNat_ofNat, bodyP]
  omega

/-- A word of format A, its FN a predicate, as the concatenation of its fields (R35, R37). -/
theorem packWord_bodyA (maj : BitVec 6) (h : Hdr) (fn : BitVec 3) (d a b : BitVec 6) :
    packWord maj.toNat h.e h.pg h.pn (bodyA fn.toNat d a b) =
      maj ++ BitVec.ofBool h.e ++ h.pg ++ BitVec.ofBool h.pn ++ fn ++ d ++ a ++ b := by
  refine ofNat_eq_of_eq_toNat ?_
  simp only [toNat_append_add, toNat_ofBool_eq_bitNat, bodyA]
  omega

/-! ### Comparisons -/

/-- Each pair of comparisons runs with its condition. -/
theorem exec_cmpTable : ∀ p ∈ cmpTable, ∀ (h : Hdr) (pd cb : BitVec 3) (a b : BitVec 6) (s : State),
    exec (p.1 h pd cb a b) s = cmpWord h pd cb a b p.2.2 s ∧ exec (p.2.1 h pd cb a b) s = cmpiWord h pd cb a b p.2.2 s := by
  simp only [cmpTable, List.forall_mem_cons]
  refine ⟨?_, ?_, ?_, ?_, ?_, ?_, ?_, ?_, nofun⟩ <;> exact fun _ _ _ _ _ _ => ⟨rfl, rfl⟩

/-- The FN of a comparison is its place in the table. -/
theorem encode_cmpTable : ∀ p ∈ cmpTable.zipIdx, ∀ (h : Hdr) (pd cb : BitVec 3) (a b : BitVec 6), p.2 < 8 ∧
    encode (p.1.1 h pd cb a b) = some (packWord 8 h.e h.pg h.pn (bodyP p.2 pd cb a b)) ∧
    encode (p.1.2.1 h pd cb a b) = some (packWord 9 h.e h.pg h.pn (bodyP p.2 pd cb a b)) := by
  simp only [cmpTable, List.zipIdx_cons, List.zipIdx_nil, List.forall_mem_cons]
  refine ⟨?_, ?_, ?_, ?_, ?_, ?_, ?_, ?_, nofun⟩ <;> exact fun _ _ _ _ _ => ⟨by decide, rfl, rfl⟩

/-- Settles O11: a comparison writes one predicate, bit by bit; guarded off it is passed without effect. -/
theorem comparisonsWriteAPredicate : Obligations.ComparisonsWriteAPredicate := by
  refine ⟨fun p hp h pd cb a b s f hi _ => ⟨fun hr => ?_, fun hr => ?_⟩, fun p hp h pd cb a b s f hc hg => ?_,
    fun p hp h pd cb a b => ?_⟩
  · refine does_predicated (exec_cmpTable p hp h pd cb a b s).1 hi ?_
    rw [withOpds_ok hr, combine_combined]
  · refine does_predicated (exec_cmpTable p hp h pd cb a b s).2 hi ?_
    rw [withOpds_ok hr, combine_combined]
  · obtain ⟨hcmp, hcmpi⟩ := exec_cmpTable p hp h pd cb a b s
    exact ⟨does_guard_off hcmp hc hg, does_guard_off hcmpi hc hg⟩
  · obtain ⟨hfn, hcmp, hcmpi⟩ := encode_cmpTable p hp h pd cb a b
    exact ⟨hcmp.trans (congrArg some (packWord_bodyP 8 h hfn pd cb a b)),
      hcmpi.trans (congrArg some (packWord_bodyP 9 h hfn pd cb a b))⟩

/-! ### Predicate words, LI and SEL -/

/-- A word on predicates writes its value to one predicate. -/
theorem does_predWord {i : Instr} {s : State} {f : Fibre} {h : Hdr} {d : BitVec 3} {val : Fibre → Bool}
    (hx : exec i s = predWord h d val s) (hi : Issues s f h.pg h.pn) : Does i s f h.e s (f.predicated d (val f)) :=
  does_predicated hx hi rfl

/-- Settles O12: each predicate word writes one predicate, the others are fixed-latency words or write PW whole. -/
theorem predicateMovesAndSelection : Obligations.PredicateMovesAndSelection := by
  intro h s f hi
  refine ⟨fun d a b => ⟨?_, ?_, ?_, ?_⟩, fun d hr => ⟨?_, fun i => ?_⟩, fun a hr => ?_, fun p d a b => ⟨fun hr => ?_, f.pred_zero, ?_⟩⟩
  · exact does_predWord (val := fun f => f.pred a && f.pred b) rfl hi
  · exact does_predWord (val := fun f => f.pred a || f.pred b) rfl hi
  · exact does_predWord (val := fun f => f.pred a != f.pred b) rfl hi
  · exact does_predWord (val := fun f => !f.pred a) rfl hi
  · exact does_fixedWord (i := .pwget h d) rfl hi hr
  · exact does_fixedWord (i := .li h d i) rfl hi hr
  · exact does_fibre (i := .pwset h a) rfl hi (withOpds_ok hr) rfl
  · exact does_fixedWord (i := .sel h p d a b) rfl hi hr
  · exact congrArg some (packWord_bodyA 0x0C h p d a b)

/-! ### Words that only end a run -/

theorem exec_nop (h : Hdr) (s : State) : exec (.nop h) s = runWord h.e h.pg h.pn false (fun s f => .next s f) s := rfl

theorem exec_yield (g : Gd) (s : State) :
    exec (.yield g) s = runWord true g.pg g.pn false (fun s f => .next s { f with yieldAtEnd := true }) s := rfl

/-- A fibre asleep from the word after this one on (R180). -/
def Fibre.asleep (f : Fibre) (now : Time) (wake : Word) : Fibre :=
  { (f.pastWord true).endRun (f.pc + 4) now with status := .sleeping wake }

/-- What SLEEPT does once its operand is there. -/
def sleepAct (a : BitVec 6) (s : State) (f : Fibre) : WordOut :=
  if (f.src a).toNat ≤ s.ftime then .next s f else .out (s.setFibre (f.asleep s.ftime (f.src a)))

theorem exec_sleept (g : Gd) (a : BitVec 6) (s : State) :
    exec (.sleept g a) s = runWord true g.pg g.pn false (withOpds [⟨2, a, .src⟩] [] (sleepAct a)) s := rfl

/-- A fibre asleep has ended its run past the word, and differs in its status alone from one that has not. -/
theorem moved_asleep (f : Fibre) (now : Time) (wake : Word) : Moved f { f.asleep now wake with status := f.status } true := by
  cases f
  exact ⟨rfl, rfl, rfl, rfl⟩

/-- Past a word without a SCHED hint in a run that asked for nothing, a fibre keeps its age and its boost. -/
theorem pastWord_of_no_sched {f : Fibre} (hsched : f.hints.sched = none) (hy : f.yieldAtEnd = false)
    (hb : f.boostAtEnd = false) :
    f.pastWord true = { f with pc := f.pc + 4, hints := Hints.none, runCount := f.runCount + 1 } := by
  simp [Fibre.pastWord, Fibre.sched, hsched, hy, hb]

/-- YIELD leaves the fibre moved past the word, its age the end of the run (R181). -/
theorem yield_resets_age {g : Gd} {s : State} {f : Fibre} (hi : Issues s f g.pg g.pn) :
    ∃ t f', exec (.yield g) s = .next t ∧ FibreOf s t f.key f' ∧ t.batches = turned s f.key true ∧ Moved f f' true ∧
      f'.age = s.ftime ∧ SameBytes s t := by
  obtain ⟨t, f', hx, hf, hbatches, hm, hbytes⟩ := does_fibre (exec_yield g s) hi rfl rfl
  obtain ⟨t', hx', hf'⟩ := exec_fibre? (exec_yield g s) hi rfl rfl
  obtain rfl := Host.Outcome.next.inj (hx.symm.trans hx')
  obtain rfl := Option.some.inj (hf.fibre.symm.trans hf')
  exact ⟨t, _, hx, hf, hbatches, hm.of_marks rfl, by simp [Fibre.endRun, Fibre.pastWord, Fibre.sched], hbytes⟩

/-- SLEEPT before its time leaves the fibre asleep and out of its batch (R180). -/
theorem sleept_sleeps {g : Gd} {a : BitVec 6} {s : State} {f : Fibre} (hi : Issues s f g.pg g.pn)
    (hr : Ready f [⟨2, a, .src⟩] []) (hlt : s.ftime < (f.src a).toNat) :
    ∃ t f', exec (.sleept g a) s = .next t ∧ FibreOf s t f.key f' ∧ t.batches = parted s f.key ∧
      f'.status = .sleeping (f.src a) ∧ Moved f { f' with status := f.status } true ∧ SameBytes s t := by
  have hs : (s.fibre? f.key).isSome := by rw [State.cur_fibre? hi.1]; rfl
  have ha : withOpds [⟨2, a, .src⟩] [] (sleepAct a) s f = .out (s.setFibre (f.asleep s.ftime (f.src a))) := by
    rw [withOpds_ok hr, sleepAct, if_neg (Nat.not_le.2 hlt)]
  have hf := fibreOf_setFibre_leaveBatch s (f.asleep s.ftime (f.src a)) hs
  exact ⟨_, _, exec_of_out (exec_sleept g a s) hi ha, hf, State.leaveBatch_batches .., rfl, moved_asleep .., hf.sameBytes⟩

/-- NOP moves a fibre of which the run asked nothing to the next word; with E its latches go with the run (R183). -/
theorem nop_fibre {h : Hdr} {s : State} {f : Fibre} (hi : Issues s f h.pg h.pn) (hsched : f.hints.sched = none)
    (hy : f.yieldAtEnd = false) (hb : f.boostAtEnd = false) : ∃ t, exec (.nop h) s = .next t ∧
      t.fibre? f.key = some { f with pc := f.pc + 4, hints := Hints.none, runCount := if h.e then 0 else f.runCount + 1,
                                     lat := if h.e then Latches.none else f.lat } := by
  obtain ⟨t, hx, hf⟩ := exec_fibre? (exec_nop h s) hi rfl rfl
  refine ⟨t, hx, hf.trans (congrArg some ?_)⟩
  rw [pastWord_of_no_sched hsched hy hb]
  cases h.e <;> simp [Fibre.endRun, hy, hb]

/-- Settles O31: NOP and SLEEPT past its time go on with the fibre as it is, YIELD with its age reset, and SLEEPT before
its time takes the fibre out of its batch. -/
theorem yieldSleepAndNop : Obligations.YieldSleepAndNop := by
  intro h s f hi g
  refine ⟨does_fibre (exec_nop h s) hi rfl rfl, yield_resets_age hi, fun a hr => ⟨fun hle => ?_, sleept_sleeps hi hr⟩,
    nop_fibre hi⟩
  exact does_fibre (exec_sleept g a s) hi (by rw [withOpds_ok hr, sleepAct, if_pos hle]) rfl

end Sys2Proof.Machine
end
